-- ==== Sys2Proof/Word.lean ====
section
/-!
DEFINITION. The word types of the PL-DC4: bytes, 32-bit register and instruction words, 64-bit pairs (spec 00 R4, R5, R9;
04 R71). Bit numbering and little-endian order are those of R4 and R5.
-/
namespace Sys2Proof

/-- One byte of any memory, record or packet (R4). -/
abbrev Byte := BitVec 8

/-- A lane register, a uniform register, a control register or an instruction word: 32 bits (01 R17, 02 R22). -/
abbrev W32 := BitVec 32

/-- The value of a register pair, or of a 64-bit sync word (00 R9, 12 R231). -/
abbrev W64 := BitVec 64

end Sys2Proof
end

