-- ==== Sys2Proof/Syntax.lean ====
section
/-!
DEFINITION. The instructions and steps of the PL-DC4: one constructor of `Instr` for each row of the opcode table, with the
field codes of spec 02 R30 as inductive types. An extended row carries its instruction word field by field (02 R22); a base
row carries the three register fields and the stall count (02 R23); a row that is no instruction word (a completion, a
scheduler step, a host or a link event) carries the choice that the spec leaves to the agent that causes it.
-/
namespace Sys2Proof

/-- TYPE codes of 02 R30; `res15` is the reserved code. -/
inductive Ty where
  | f32 | f64 | f16 | bf16 | f16x2 | bf16x2 | s32 | n32 | s64 | n64 | s16 | n16 | s8 | n8 | b32 | res15
  deriving DecidableEq, Repr

/-- RND codes of 02 R30 and 03 R53; `res6` and `res7` are reserved. -/
inductive Rnd where
  | draw | rne | rz | rup | rdn | rna | res6 | res7
  deriving DecidableEq, Repr

/-- ORD codes of 02 R30; `res6` and `res7` are reserved. -/
inductive MOrd where
  | plain | relaxed | acquire | release | acqRel | sc | res6 | res7
  deriving DecidableEq, Repr

/-- SCOPE codes of 02 R30; `res7` is reserved. -/
inductive Scope where
  | thread | block | core | die | device | fabric | system | res7
  deriving DecidableEq, Repr

/-- The four forms of an instruction word, by LEN (02 R22). A decoded extended row has one of the last three; `base` is the
form of the row that a base word executes as (02 R23). -/
inductive Form where
  | base | baseLit | ext | extLit
  deriving DecidableEq, Repr

/-- The fields of an extended instruction word (02 R22): `mod` is MOD[2:0], `imm` is IMM25 as an unsigned field, `lit` the
64-bit literal of a literal form, `stall` the whole stall count of R25. -/
structure Ext where
  form : Form
  minor : Nat
  guard : Nat
  neg : Bool
  stall : Nat
  ty : Ty
  rnd : Rnd
  ord : MOrd
  scope : Scope
  mod : Nat
  d : Nat
  a : Nat
  b : Nat
  c : Nat
  imm : Nat
  lit : W64
  deriving DecidableEq, Repr

/-- The fields of a base word (02 R22, R23): register fields and the stall count 0 to 7. -/
structure Base where
  d : Nat
  a : Nat
  b : Nat
  stall : Nat
  deriving DecidableEq, Repr

/-- Where a member of a block is placed: the lane (of sibling 0 for a triad) and the thread slot (01 R14, 15 R259). -/
structure Place where
  lane : Nat
  slot : Nat
  deriving DecidableEq, Repr

/-- A part whose power state changes (15 R280): a core by package number, a die, or the package. -/
inductive Part where
  | core (n : Nat)
  | die (n : Nat)
  | package
  deriving DecidableEq, Repr

/-- What one other member of a collective contributes: its rank, its parameters as it issued them and its elements
(16 R295 to R297). -/
structure CollPeer where
  rank : Nat
  op : Nat
  fmt : Nat
  n : Nat
  members : List Nat
  elems : List W32
  deriving DecidableEq, Repr

/-- How a collective ends as seen from the fabric (16 R296, R297): every peer's contribution, or a lost stream. -/
inductive CollOutcome where
  | peers (ps : List CollPeer)
  | linkLost
  deriving DecidableEq, Repr

/-- What the environment decides at a start (18 R326 to R330): the step that fails, if one does; the firmware image that the
boot ROM reads; whether the stored training parameters fail their digest or check, so that steps 3 and 4 run as for a cold
start. -/
structure StartEnv where
  failStep : Option Nat
  image : List Byte
  retrain : Bool
  deriving DecidableEq, Repr

/-- One constructor for each row of the opcode table (02 R39 and the steps of 95). -/
inductive Instr where
  /-- IADD (R75). -/
  | iadd (x : Ext)
  /-- IADD_BASE (R75). -/
  | iaddBase (x : Base)
  /-- ISUB (R75). -/
  | isub (x : Ext)
  /-- ISUB_BASE (R75). -/
  | isubBase (x : Base)
  /-- IMUL (R75). -/
  | imul (x : Ext)
  /-- IMUL_BASE (R75). -/
  | imulBase (x : Base)
  /-- IMULH (R75). -/
  | imulh (x : Ext)
  /-- IMAD (R75). -/
  | imad (x : Ext)
  /-- IMAD_BASE (R75). -/
  | imadBase (x : Base)
  /-- IDIV (R75). -/
  | idiv (x : Ext)
  /-- IDIV_BASE (R75). -/
  | idivBase (x : Base)
  /-- IREM (R75). -/
  | irem (x : Ext)
  /-- IMIN (R75). -/
  | imin (x : Ext)
  /-- IMIN_BASE (R75). -/
  | iminBase (x : Base)
  /-- IMAX (R75). -/
  | imax (x : Ext)
  /-- IABS (R75). -/
  | iabs (x : Ext)
  /-- IABS_BASE (R75). -/
  | iabsBase (x : Base)
  /-- INEG (R75). -/
  | ineg (x : Ext)
  /-- AND (R76). -/
  | andL (x : Ext)
  /-- AND_BASE (R76). -/
  | andBase (x : Base)
  /-- OR (R76). -/
  | orL (x : Ext)
  /-- XOR (R76). -/
  | xorL (x : Ext)
  /-- ANDN (R76). -/
  | andn (x : Ext)
  /-- NOT (R76). -/
  | notL (x : Ext)
  /-- SHL (R76). -/
  | shl (x : Ext)
  /-- SHL_BASE (R76). -/
  | shlBase (x : Base)
  /-- SHR (R76). -/
  | shr (x : Ext)
  /-- SAR (R76). -/
  | sar (x : Ext)
  /-- ROT (R76). -/
  | rot (x : Ext)
  /-- BFX (R77). -/
  | bfx (x : Ext)
  /-- BFX_BASE (R77). -/
  | bfxBase (x : Base)
  /-- BFI (R77). -/
  | bfi (x : Ext)
  /-- POPC (R78). -/
  | popc (x : Ext)
  /-- POPC_BASE (R78). -/
  | popcBase (x : Base)
  /-- CLZ (R78). -/
  | clz (x : Ext)
  /-- BREV (R78). -/
  | brev (x : Ext)
  /-- PERM (R79). -/
  | perm (x : Ext)
  /-- PERM_BASE (R79). -/
  | permBase (x : Base)
  /-- ICMP (R80). -/
  | icmp (x : Ext)
  /-- ICMP_BASE (R80). -/
  | icmpBase (x : Base)
  /-- ISEL (R81). -/
  | isel (x : Ext)
  /-- ISEL_BASE (R81). -/
  | iselBase (x : Base)
  /-- PLOP (R81). -/
  | plop (x : Ext)
  /-- MOV (R82). -/
  | mov (x : Ext)
  /-- MOV_BASE (R82). -/
  | movBase (x : Base)
  /-- MOVI (R82). -/
  | movi (x : Ext)
  /-- MOVK (R83). -/
  | movk (x : Ext)
  /-- MOVS (R84). -/
  | movs (x : Ext)
  /-- GETC (R85). -/
  | getc (x : Ext)
  /-- SETC (R85). -/
  | setc (x : Ext)
  /-- FADD (R87). -/
  | fadd (x : Ext)
  /-- FADD_BASE (R87). -/
  | faddBase (x : Base)
  /-- FSUB (R87). -/
  | fsub (x : Ext)
  /-- FMUL (R87). -/
  | fmul (x : Ext)
  /-- FMUL_BASE (R87). -/
  | fmulBase (x : Base)
  /-- FFMA (R87). -/
  | ffma (x : Ext)
  /-- FFMA_BASE (R87). -/
  | ffmaBase (x : Base)
  /-- FMIN (R88). -/
  | fmin (x : Ext)
  /-- FMIN_BASE (R88). -/
  | fminBase (x : Base)
  /-- FMAX (R88). -/
  | fmax (x : Ext)
  /-- FDIV (R87). -/
  | fdiv (x : Ext)
  /-- FDIV_BASE (R87). -/
  | fdivBase (x : Base)
  /-- FSQRT (R87). -/
  | fsqrt (x : Ext)
  /-- FSQRT_BASE (R87). -/
  | fsqrtBase (x : Base)
  /-- FCMP (R90). -/
  | fcmp (x : Ext)
  /-- FCMP_BASE (R90). -/
  | fcmpBase (x : Base)
  /-- FCLASS (R91). -/
  | fclass (x : Ext)
  /-- FCVT (R92). -/
  | fcvt (x : Ext)
  /-- FCVTI (R93). -/
  | fcvti (x : Ext)
  /-- ICVTF (R93). -/
  | icvtf (x : Ext)
  /-- DIG (R95). -/
  | dig (x : Ext)
  /-- DIG_BASE (R95). -/
  | digBase (x : Base)
  /-- SIBG (R96). -/
  | sibg (x : Ext)
  /-- DMEAN (R97). -/
  | dmean (x : Ext)
  /-- RAND (R98). -/
  | rand (x : Ext)
  /-- RAND_BASE (R98). -/
  | randBase (x : Base)
  /-- FRCP (R89). -/
  | frcp (x : Ext)
  /-- FRCP_BASE (R89). -/
  | frcpBase (x : Base)
  /-- FRSQ (R89). -/
  | frsq (x : Ext)
  /-- FEX2 (R94). -/
  | fex2 (x : Ext)
  /-- FEX2_BASE (R94). -/
  | fex2Base (x : Base)
  /-- FLG2 (R94). -/
  | flg2 (x : Ext)
  /-- FSIN (R94). -/
  | fsin (x : Ext)
  /-- FSIN_BASE (R94). -/
  | fsinBase (x : Base)
  /-- FCOS (R94). -/
  | fcos (x : Ext)
  /-- BRA (R99). -/
  | bra (x : Ext)
  /-- BRA_BASE (R99). -/
  | braBase (x : Base)
  /-- JMP (R99). -/
  | jmp (x : Ext)
  /-- CALL (R99). -/
  | call (x : Ext)
  /-- CALL_BASE (R99). -/
  | callBase (x : Base)
  /-- RET (R99). -/
  | ret (x : Ext)
  /-- EXIT (R100). -/
  | exitT (x : Ext)
  /-- EXIT_BASE (R100). -/
  | exitBase (x : Base)
  /-- ELECT (R101). -/
  | elect (x : Ext)
  /-- ELECT_BASE (R101). -/
  | electBase (x : Base)
  /-- VOTE (R101). -/
  | vote (x : Ext)
  /-- YIELD (R102). -/
  | yield (x : Ext)
  /-- YIELD_BASE (R102). -/
  | yieldBase (x : Base)
  /-- WAITC (R102). -/
  | waitc (x : Ext)
  /-- WAITC_WAKE (R102). -/
  | waitcWake (blk mem : Nat)
  /-- NOP (R40). -/
  | nop (x : Ext)
  /-- NOP_BASE (R40). -/
  | nopBase (x : Base)
  /-- HINT (R41). -/
  | hint (x : Ext)
  /-- SPIN_HINT_EXPIRY (R41). -/
  | spinHintExpiry (blk mem : Nat)
  /-- QCVT (R120). -/
  | qcvt (x : Ext)
  /-- QCVT_BASE (R120). -/
  | qcvtBase (x : Base)
  /-- DQCVT (R121). -/
  | dqcvt (x : Ext)
  /-- PLPACK (R122). -/
  | plpack (x : Ext)
  /-- SHAPE (R128). -/
  | shape (x : Ext)
  /-- SHAPE_BASE (R128). -/
  | shapeBase (x : Base)
  /-- SHGET (R129). -/
  | shget (x : Ext)
  /-- MATX (R147). -/
  | matx (x : Ext)
  /-- MATX_BASE (R147). -/
  | matxBase (x : Base)
  /-- MATX_COMPLETE (R147). -/
  | matxComplete (core idx : Nat)
  /-- MSTAT (R152). -/
  | mstat (x : Ext)
  /-- MRESET (R161). -/
  | mreset (x : Ext)
  /-- MATRIX_WATCHDOG (R161). -/
  | matrixWatchdog (core : Nat)
  /-- CFZERO (R157). -/
  | cfzero (x : Ext)
  /-- CFZERO_BASE (R157). -/
  | cfzeroBase (x : Base)
  /-- CFZERO_COMPLETE (R157). -/
  | cfzeroComplete (core idx : Nat)
  /-- CFREAD (R157). -/
  | cfread (x : Ext)
  /-- FOLD (R159). -/
  | fold (x : Ext)
  /-- FOLD_COMPLETE (R159). -/
  | foldComplete (core idx : Nat)
  /-- FOLD_TIMEOUT (R159). -/
  | foldTimeout (core idx : Nat)
  /-- DRAIN (R160). -/
  | drain (x : Ext)
  /-- DRAIN_COMPLETE (R160). -/
  | drainComplete (core idx : Nat)
  /-- MQ16 (R163). -/
  | mq16 (x : Ext)
  /-- MQ16_BASE (R163). -/
  | mq16Base (x : Base)
  /-- MQ32 (R163). -/
  | mq32 (x : Ext)
  /-- MICRO_STEP (R42). -/
  | microStep (blk mem : Nat)
  /-- SELK (R171). -/
  | selk (x : Ext)
  /-- SELK_BASE (R171). -/
  | selkBase (x : Base)
  /-- SMAX (R172). -/
  | smax (x : Ext)
  /-- SAMP (R173). -/
  | samp (x : Ext)
  /-- REDB (R174). -/
  | redb (x : Ext)
  /-- SELECTION_COMPLETE (R165). -/
  | selectionComplete (core : Nat)
  /-- LD (R219). -/
  | ld (x : Ext)
  /-- LD_BASE (R219). -/
  | ldBase (x : Base)
  /-- ST (R219). -/
  | st (x : Ext)
  /-- LDBUF (R226). -/
  | ldbuf (x : Ext)
  /-- PRF (R225). -/
  | prf (x : Ext)
  /-- LDL (R221). -/
  | ldl (x : Ext)
  /-- LDL_BASE (R221). -/
  | ldlBase (x : Base)
  /-- STL (R221). -/
  | stl (x : Ext)
  /-- LDS (R221). -/
  | lds (x : Ext)
  /-- LDS_BASE (R221). -/
  | ldsBase (x : Base)
  /-- STS (R221). -/
  | sts (x : Ext)
  /-- LDX (R222). -/
  | ldx (x : Ext)
  /-- LDF (R223). -/
  | ldf (x : Ext)
  /-- LDF_BASE (R223). -/
  | ldfBase (x : Base)
  /-- STE (R223). -/
  | ste (x : Ext)
  /-- FULL_EMPTY_TRANSITION (R223). -/
  | fullEmptyTransition (blk mem : Nat)
  /-- TAGSET (R224). -/
  | tagset (x : Ext)
  /-- TAGCLR (R224). -/
  | tagclr (x : Ext)
  /-- WALK_BIND (R227). -/
  | walkBind (x : Ext)
  /-- WALK_BIND_BASE (R227). -/
  | walkBindBase (x : Base)
  /-- WALK_NEXT (R228). -/
  | walkNext (x : Ext)
  /-- WALKER_RUN_AHEAD (R195). -/
  | walkerRunAhead (blk mem w : Nat)
  /-- ATOM (R229). -/
  | atom (x : Ext)
  /-- ATOM_BASE (R229). -/
  | atomBase (x : Base)
  /-- RED (R229). -/
  | red (x : Ext)
  /-- FENCE (R230). -/
  | fence (x : Ext)
  /-- BAR_ARRIVE (R233). -/
  | barArrive (x : Ext)
  /-- BAR_WAIT (R234). -/
  | barWait (x : Ext)
  /-- SYNCOP (R235). -/
  | syncop (x : Ext)
  /-- XCOPY (R239). -/
  | xcopy (x : Ext)
  /-- XCOPY_BASE (R239). -/
  | xcopyBase (x : Base)
  /-- COPY_COMPLETE (R242). -/
  | copyComplete (die idx : Nat)
  /-- OWN_GIVE (R238). -/
  | ownGive (x : Ext)
  /-- OWN_TAKE (R238). -/
  | ownTake (x : Ext)
  /-- TWAITANY (R237). -/
  | twaitany (x : Ext)
  /-- TWAITANY_BASE (R237). -/
  | twaitanyBase (x : Base)
  /-- TWAITALL (R237). -/
  | twaitall (x : Ext)
  /-- TFIRST (R237). -/
  | tfirst (x : Ext)
  /-- BLOCKED_THREAD_WAKE (R265). -/
  | blockedThreadWake (blk mem : Nat)
  /-- QUEUE_NOP (R244). -/
  | queueNop (die eng q : Nat)
  /-- QUEUE_COPY (R244). -/
  | queueCopy (die eng q : Nat)
  /-- QUEUE_QUANTISE (R244). -/
  | queueQuantise (die eng q : Nat)
  /-- QUEUE_FILL (R244). -/
  | queueFill (die eng q : Nat)
  /-- QUEUE_SIGNAL (R244). -/
  | queueSignal (die eng q : Nat)
  /-- QUEUE_BADTYPE (R245). -/
  | queueBadtype (die eng q : Nat)
  /-- QUEUE_HEADER_FAULT (R245). -/
  | queueHeaderFault (die eng q : Nat)
  /-- QUEUE_REGION_ENDED (R245). -/
  | queueRegionEnded (die eng q : Nat)
  /-- QUEUE_RESUME (R247). -/
  | queueResume (die eng q : Nat)
  /-- QUEUE_ENABLE (R335). -/
  | queueEnable (die eng q : Nat) (value : BitVec 64)
  /-- QUEUE_DISABLE (R335). -/
  | queueDisable (die eng q : Nat) (value : BitVec 64)
  /-- DLAUNCH (R262). -/
  | dlaunch (x : Ext)
  /-- ENQ (R275). -/
  | enq (x : Ext)
  /-- ENQ_BASE (R275). -/
  | enqBase (x : Base)
  /-- DEQ (R275). -/
  | deq (x : Ext)
  /-- ISSUE_CYCLE (R264). -/
  | issueCycle (core quarter : Nat)
  /-- ENTRY_IDLE_TIMEOUT (R264). -/
  | entryIdleTimeout (core quarter entry : Nat)
  /-- VARIABLE_LATENCY_COMPLETE (R34). -/
  | variableLatencyComplete (blk mem sib reg : Nat)
  /-- ICACHE_FILL (R37). -/
  | icacheFill (blk va : Nat)
  /-- L1_LINE_EXPIRY (R186). -/
  | l1LineExpiry (core line : Nat)
  /-- BLOCK_CREATE (R260). -/
  | blockCreate (grid stage core spad : Nat) (places : List Place)
  /-- SLICE_END (R268). -/
  | sliceEnd (blk : Nat)
  /-- BLOCK_EVICT (R266). -/
  | blockEvict (blk : Nat)
  /-- GRACE_EXPIRY (R269). -/
  | graceExpiry (blk : Nat)
  /-- BLOCK_RESTORE (R267). -/
  | blockRestore (blk core spad : Nat) (places : List Place)
  /-- STREAMER_MOVE (R276). -/
  | streamerMove (blk core spad : Nat) (places : List Place)
  /-- FORWARDING_ENTRY_EXPIRY (R277). -/
  | forwardingEntryExpiry (core entry : Nat)
  /-- STAGE_REVIEW (R272). -/
  | stageReview (grid : Nat)
  /-- PIPELINE_QUIESCE (R273). -/
  | pipelineQuiesce (grid : Nat)
  /-- GRID_COMPLETE (R258). -/
  | gridComplete (grid : Nat)
  /-- FREQUENCY_STEP_CHANGE (R279). -/
  | frequencyStepChange (die step : Nat)
  /-- RELOCK_DONE (R279). -/
  | relockDone (die : Nat)
  /-- POWER_STATE_ENTER (R280). -/
  | powerStateEnter (part : Part) (state : Nat)
  /-- POWER_STATE_EXIT (R280). -/
  | powerStateExit (part : Part)
  /-- RLD (R293). -/
  | rld (x : Ext)
  /-- RLD_BASE (R293). -/
  | rldBase (x : Base)
  /-- RST (R293). -/
  | rst (x : Ext)
  /-- RATOM (R293). -/
  | ratom (x : Ext)
  /-- REMOTE_REQUEST_RECEIVE (R293). -/
  | remoteRequestReceive (src : Nat)
  /-- REMOTE_REPLY_RECEIVE (R294). -/
  | remoteReplyReceive (src : Nat)
  /-- COLL (R296). -/
  | coll (x : Ext)
  /-- COLL_BASE (R296). -/
  | collBase (x : Base)
  /-- COLL_COMPLETE (R297). -/
  | collComplete (die idx : Nat) (outcome : CollOutcome)
  /-- COLL_TIMEOUT (R297). -/
  | collTimeout (die idx : Nat)
  /-- CALLR (R302). -/
  | callr (x : Ext)
  /-- CALLH (R305). -/
  | callh (x : Ext)
  /-- INVOKE_RECEIVE (R303). -/
  | invokeReceive (src : Nat)
  /-- CALLH_AT_HOME (R305). -/
  | callhAtHome (src : Nat)
  /-- WAITH (R306). -/
  | waith (x : Ext)
  /-- HSTAT (R306). -/
  | hstat (x : Ext)
  /-- DROPH_BREAK (R307). -/
  | drophBreak (x : Ext)
  /-- DROPH_RELEASE (R307). -/
  | drophRelease (x : Ext)
  /-- FLIT_RECEIVE (R286). -/
  | flitReceive (port : Nat) (flit : List (BitVec 8))
  /-- ACK_TIMER (R285). -/
  | ackTimer (src tc : Nat)
  /-- KEEPALIVE_ACK (R383). -/
  | keepaliveAck (src : Nat)
  /-- GAP_TIMEOUT (R287). -/
  | gapTimeout (src tc : Nat)
  /-- LANE_LOCK_LOSS (R287). -/
  | laneLockLoss (port : Nat)
  /-- ACK_PROGRESS_TIMEOUT (R287). -/
  | ackProgressTimeout (port : Nat)
  /-- CASTLING (R288). -/
  | castling (port : Nat)
  /-- STREAM_LOST (R289). -/
  | streamLost (dst tc : Nat)
  /-- REPLY_STREAM_LOST (R383). -/
  | replyStreamLost (target : Nat)
  /-- TRAP (R351). -/
  | trap (x : Ext)
  /-- TRAP_BASE (R351). -/
  | trapBase (x : Base)
  /-- BKPT (R351). -/
  | bkpt (x : Ext)
  /-- RETT (R355). -/
  | rett (x : Ext)
  /-- FRD (R352). -/
  | frd (x : Ext)
  /-- FWR (R352). -/
  | fwr (x : Ext)
  /-- GRPCTL (R353). -/
  | grpctl (x : Ext)
  /-- TLBI (R354). -/
  | tlbi (x : Ext)
  /-- HANDLER_LIMIT (R348). -/
  | handlerLimit (blk : Nat)
  /-- COURSE_END (R362). -/
  | courseEnd (blk : Nat)
  /-- STOP_REQUEST (R365). -/
  | stopRequest (region : Nat)
  /-- STOP_RELEASE (R367). -/
  | stopRelease (region : Nat)
  /-- REGISTER_REGION (R252). -/
  | registerRegion (paddr : Nat)
  /-- UPDATE_REGION (R252). -/
  | updateRegion (paddr : Nat)
  /-- END_REGION (R255). -/
  | endRegion (paddr : Nat)
  /-- REGISTER_DEBUG_DESCRIPTOR (R360). -/
  | registerDebugDescriptor (paddr : Nat)
  /-- UPDATE_DEBUG_DESCRIPTOR (R360). -/
  | updateDebugDescriptor (paddr : Nat)
  /-- REMOVE_DEBUG_DESCRIPTOR (R360). -/
  | removeDebugDescriptor (paddr : Nat)
  /-- SET_ARENA (R384). -/
  | setArena (paddr : Nat)
  /-- HOST_LAUNCH (R336). -/
  | hostLaunch (value : BitVec 64)
  /-- DEVID_WRITE (R282). -/
  | devidWrite (value : BitVec 64)
  /-- FENCE_PART (R332). -/
  | fencePart (value : BitVec 64)
  /-- RETURN_PART (R332). -/
  | returnPart (value : BitVec 64) (selfTest : Bool)
  /-- HOST_TLB_INVALIDATE (R335). -/
  | hostTlbInvalidate (die : Nat) (value : BitVec 64)
  /-- COUNTER_CLEAR (R197). -/
  | counterClear (die : Nat)
  /-- COUNTER_FREEZE (R197). -/
  | counterFreeze (die : Nat) (freeze : Bool)
  /-- HANDLE_OVERFLOW_CONFIG (R300). -/
  | handleOverflowConfig (die : Nat) (count : Bool) (value : BitVec 64)
  /-- ROUTE_TABLE_WRITE (R337). -/
  | routeTableWrite (dst : Nat) (value : BitVec 64)
  /-- DIEFAULT_CLEAR (R333). -/
  | diefaultClear (die : Nat) (value : BitVec 64)
  /-- REGISTER_WRITE (R334). -/
  | registerWrite (offset : Nat) (value : BitVec 64)
  /-- HOST_MEMORY_ACCESS (R214). -/
  | hostMemoryAccess (pa n : Nat) (write : Option (List (BitVec 8)))
  /-- COLD_START (R329). -/
  | coldStart (env : StartEnv)
  /-- WARM_START (R330). -/
  | warmStart (env : StartEnv)
  /-- RECOVERY_IMAGE (R327). -/
  | recoveryImage (image : List (BitVec 8))
  /-- ATTESTATION_REPORT (R328). -/
  | attestationReport (nonce : List (BitVec 8))
  /-- LINK_RETRAIN (R289). -/
  | linkRetrain (port : Nat)
  /-- SWITCH_FAILURE (R287). -/
  | switchFailure (ports : List Nat)
  /-- ACCESS_TABLE_UPDATE (R323). -/
  | accessTableUpdate (target entry : Nat) (value : BitVec 128)
  deriving DecidableEq, Repr, Inhabited

end Sys2Proof
end

