-- ==== Sys2Proof/WellFormed.lean ====
section
/-!
DEFINITION. Which instruction words are legal: the field rules of spec 02 R23, R26 to R28, R30, R38 and of the field tables
of each class (04 R74 and the control table, 05 R119 and R123, 06 R127, 07 R141, 08 R164, 12 R218, 15 R261 and R274, 16 R292,
R295 and R301, 19 R350). `Instr.wf` is the check that the decoder applies; a word that fails it raises ILLEGAL_INSTRUCTION.
-/
namespace Sys2Proof

/-- Operand width in bits of a TYPE (03 R44, 04 R71). -/
def Ty.width : Ty → Nat
  | .f64 | .s64 | .n64 => 64
  | .f16 | .bf16 | .s16 | .n16 => 16
  | .s8 | .n8 => 8
  | _ => 32

/-- A 64-bit TYPE uses a register pair (04 R71). -/
def Ty.wide (t : Ty) : Bool := t.width == 64

def Ty.packed : Ty → Bool
  | .f16x2 | .bf16x2 => true
  | _ => false

/-- Floating-point and packed TYPEs (03 R63). -/
def Ty.float : Ty → Bool
  | .f32 | .f64 | .f16 | .bf16 | .f16x2 | .bf16x2 => true
  | _ => false

def Ty.signed : Ty → Bool
  | .s32 | .s64 | .s16 | .s8 => true
  | _ => false

/-- The eight integer TYPEs, "Int" of 04 R74. -/
def Ty.ints : List Ty := [.s32, .n32, .s64, .n64, .s16, .n16, .s8, .n8]
/-- The six floating-point TYPEs, "Flt" of 04 R74. -/
def Ty.flts : List Ty := [.f32, .f64, .f16, .bf16, .f16x2, .bf16x2]
/-- TYPE codes 0 to 14. -/
def Ty.all : List Ty :=
  [.f32, .f64, .f16, .bf16, .f16x2, .bf16x2, .s32, .n32, .s64, .n64, .s16, .n16, .s8, .n8, .b32]
/-- TYPEs of a 4-byte full/empty access (12 R218). -/
def Ty.words : List Ty := [.b32, .f32, .s32, .n32]

def Form.hasLit : Form → Bool
  | .baseLit | .extLit => true
  | _ => false

/-- Length in bytes (02 R22). -/
def Form.len : Form → Nat
  | .base => 4
  | .baseLit | .ext => 12
  | .extLit => 20

def Ext.len (x : Ext) : Nat := x.form.len

/-- MOD[0], MOD[1], MOD[2]. -/
def Ext.m0 (x : Ext) : Bool := x.mod % 2 == 1
def Ext.m1 (x : Ext) : Bool := x.mod / 2 % 2 == 1
def Ext.m2 (x : Ext) : Bool := x.mod / 4 % 2 == 1

/-- IMM25 read as a signed number (02 R27). -/
def Ext.simm (x : Ext) : Int := if x.imm < 2 ^ 24 then (x.imm : Int) else (x.imm : Int) - 2 ^ 25

/-- Every field fits its bits (02 R22), and there is a literal only in a literal form. -/
def Ext.bounded (x : Ext) : Bool :=
  decide (x.minor < 1024) && decide (x.guard < 8) && decide (x.stall < 32) && decide (x.mod < 8) && decide (x.d < 128) &&
  decide (x.a < 128) && decide (x.b < 128) && decide (x.c < 128) && decide (x.imm < 2 ^ 25) && (x.form.hasLit || x.lit == 0)

/-- A lane register field; a pair is even (02 R26). -/
def vOk (wide : Bool) (n : Nat) : Bool := decide (n < 128) && (!wide || n % 2 == 0)
/-- A uniform register field; a pair is even (02 R26, 04 R71). -/
def kOk (wide : Bool) (n : Nat) : Bool := decide (n < 64) && (!wide || n % 2 == 0)
/-- Control registers that some chapter assigns: c0 to c14 (03 R47, 04 R86, 07 R154, 19 R340). -/
def ctlOk (n : Nat) : Bool := decide (n < 15)

/-- Position A of majors 0x01 to 0x1F: a lane register, or uniform under MOD[2] (02 R27). -/
def Ext.aOk (x : Ext) (wide : Bool) : Bool := if x.m2 then kOk wide x.a else vOk wide x.a
/-- Position B of majors 0x01 to 0x1F: literal, immediate, uniform or lane register (02 R27, R28). -/
def Ext.bOk (x : Ext) (wide : Bool) : Bool :=
  if x.form.hasLit || x.m0 then x.b == 0 else if x.m1 then kOk wide x.b else vOk wide x.b

/-- The literal's bits above its width (02 R28). -/
def Ext.litOk (x : Ext) (w : Nat) : Bool :=
  w == 64 || (x.lit >>> w == 0) ||
    (x.ty.signed && (x.lit.extractLsb' w 64 == (BitVec.allOnes (64 - w)).setWidth 64) && x.lit.getLsbD (w - 1))

/-- MOD of an instruction with a B source under 02 R27 ("Src" in 04 R74): `w` is the width of its B operand. -/
def Ext.srcMod (x : Ext) (w : Nat) : Bool :=
  if x.form.hasLit then !x.m0 && !x.m1 && x.imm == 0 && x.litOk w
  else !(x.m0 && x.m1) && (x.m0 || x.imm == 0) &&
    (!x.m0 || (!x.ty.float && decide (-(2 : Int) ^ (w - 1) ≤ x.simm) && decide (x.simm < (2 : Int) ^ (w - 1))))

/-- "Unary" in 04 R74: no B operand, so MOD[1:0] is 0, IMM25 is 0 and no literal. -/
def Ext.unary (x : Ext) : Bool := !x.m0 && !x.m1 && x.imm == 0 && x.b == 0 && !x.form.hasLit

/-- MOD 0b000, no immediate, no literal. -/
def Ext.mod0 (x : Ext) : Bool := x.mod == 0 && x.imm == 0 && !x.form.hasLit

/-- RND 0 to 5, or 0 alone (02 R30). -/
def Ext.rndOk (x : Ext) (rounds : Bool) : Bool :=
  if rounds then x.rnd != .res6 && x.rnd != .res7 else x.rnd == .draw
/-- No memory access: ORD 0 and SCOPE 0 (02 R30). -/
def Ext.noMem (x : Ext) : Bool := x.ord == .plain && x.scope == .thread

def Ext.tyOk (x : Ext) (ts : List Ty) : Bool := ts.contains x.ty

/-- The common check of a lane row: minor, TYPE, RND and no ORD. -/
def Ext.lane (x : Ext) (minor : Nat) (ts : List Ty) (rounds : Bool) : Bool :=
  x.minor == minor && x.tyOk ts && x.rndOk rounds && x.noMem

/-- v, v, v with the B width of TYPE and a C of 0 (04 R74). -/
def Ext.bin (x : Ext) (minor : Nat) (ts : List Ty) (rounds : Bool) : Bool :=
  x.lane minor ts rounds && vOk x.ty.wide x.d && x.aOk x.ty.wide && x.bOk x.ty.wide && x.c == 0 && x.srcMod x.ty.width
/-- v, v, v, v (IMAD, FFMA). -/
def Ext.tern (x : Ext) (minor : Nat) (ts : List Ty) (rounds : Bool) : Bool :=
  x.lane minor ts rounds && vOk x.ty.wide x.d && x.aOk x.ty.wide && x.bOk x.ty.wide && vOk x.ty.wide x.c &&
  x.srcMod x.ty.width
/-- v, v (unary rows). -/
def Ext.un (x : Ext) (minor : Nat) (ts : List Ty) (rounds : Bool) : Bool :=
  x.lane minor ts rounds && vOk x.ty.wide x.d && x.aOk x.ty.wide && x.c == 0 && x.unary
/-- v, v, v (32-bit B). -/
def Ext.bin32 (x : Ext) (minor : Nat) (ts : List Ty) : Bool :=
  x.lane minor ts false && vOk x.ty.wide x.d && x.aOk x.ty.wide && x.bOk false && x.c == 0 && x.srcMod 32
/-- FCVT, FCVTI, ICVTF: the source TYPE code in C (04 R92). -/
def Ty.ofCode : Nat → Ty
  | 0 => .f32 | 1 => .f64 | 2 => .f16 | 3 => .bf16 | 4 => .f16x2 | 5 => .bf16x2 | 6 => .s32 | 7 => .n32 | 8 => .s64
  | 9 => .n64 | 10 => .s16 | 11 => .n16 | 12 => .s8 | 13 => .n8 | 14 => .b32 | _ => .res15

def Ty.scalarFloat : Ty → Bool
  | .f32 | .f64 | .f16 | .bf16 => true
  | _ => false

/-- The pairs FCVT accepts (04 R92). -/
def fcvtPair (dst src : Ty) : Bool :=
  (dst.scalarFloat && src.scalarFloat && dst != src) || (dst.packed && src == .f32)

/-- A control row: TYPE, RND, ORD, SCOPE, B and C are 0 and there is no literal (04, table before R99). -/
def Ext.ctrl (x : Ext) (minor : Nat) : Bool :=
  x.minor == minor && x.ty == .f32 && x.rnd == .draw && x.noMem && x.b == 0 && x.c == 0 && !x.form.hasLit

/-- Pair A, lane under MOD 0b000 and uniform under 0b100. -/
def Ext.pairA (x : Ext) : Bool := (x.mod == 0 && vOk true x.a) || (x.mod == 4 && kOk true x.a)
/-- 32-bit A, lane under MOD 0b000 and uniform under 0b100. -/
def Ext.wordA (x : Ext) : Bool := (x.mod == 0 && vOk false x.a) || (x.mod == 4 && kOk false x.a)

/-- Fields of a row of majors 0x28 to 0x3D that takes no RND and no literal. -/
def Ext.mem (x : Ext) (minor : Nat) (ts : List Ty) (ords : List MOrd) (maxScope : Nat) : Bool :=
  x.minor == minor && x.tyOk ts && x.rnd == .draw && !x.form.hasLit && ords.contains x.ord &&
  (if x.ord == .plain then x.scope == .thread
   else match x.scope with
     | .thread => true | .block => decide (1 ≤ maxScope) | .core => decide (2 ≤ maxScope) | .die => decide (3 ≤ maxScope)
     | .device => decide (4 ≤ maxScope) | .fabric => decide (5 ≤ maxScope) | .system => decide (6 ≤ maxScope)
     | .res7 => false)

def ordLd : List MOrd := [.plain, .relaxed, .acquire, .sc]
def ordSt : List MOrd := [.plain, .relaxed, .release, .sc]
def ordAll : List MOrd := [.plain, .relaxed, .acquire, .release, .acqRel, .sc]

/-- Address operand A of the memory rows: MOD[2] uniform, MOD[0] immediate with A = 0, never both (12 R218). -/
def Ext.addrA (x : Ext) (wide : Bool) : Bool :=
  if x.m0 then !x.m2 && x.a == 0 else if x.m2 then kOk wide x.a else vOk wide x.a

/-- Index i1 in C under MOD[1] (12 R218). -/
def Ext.coordC (x : Ext) : Bool := if x.m1 then vOk false x.c else x.c == 0

/-- An access through a buffer record (LD, ST, PRF). -/
def Ext.record (x : Ext) : Bool := x.addrA false && decide (x.b < 32) && x.coordC

/-- TYPEs of an atomic with operation `op` (12 R218, 16 R292). -/
def atomTys (op : Nat) : List Ty :=
  [.s32, .n32, .s64, .n64] ++ (if decide (3 ≤ op) then [.b32] else [])

/-- Data operand C of an atomic: lane, or uniform under MOD[1] (12 R218). -/
def Ext.atomC (x : Ext) : Bool := if x.m1 then kOk x.ty.wide x.c else vOk x.ty.wide x.c

/-- ORD codes that SYNCOP accepts for the operation in B (12 R235). -/
def syncOrds (op : Nat) : List MOrd := if op == 0 then ordLd else if op == 1 then ordSt else ordAll

/-- A row of majors 0x30 to 0x3D with TYPE, RND, ORD and SCOPE 0 and no literal. -/
def Ext.eng (x : Ext) (minor : Nat) : Bool :=
  x.minor == minor && x.ty == .f32 && x.rnd == .draw && x.noMem && !x.form.hasLit

/-- Registers that hold eight codes of narrow format `nf` (05 R119). -/
def codeRegs (nf : Nat) : Nat := if nf == 6 then 4 else if nf == 4 || nf == 5 then 2 else 1
/-- Container bits and plane count of a narrow format (05 R104). -/
def nfCw (nf : Nat) : Nat := if nf == 6 then 16 else if nf == 4 || nf == 5 then 8 else if nf == 2 || nf == 3 then 2 else 4
def nfPlanes (nf : Nat) : Nat :=
  if nf == 0 then 5 else if nf == 1 then 4 else if nf == 2 || nf == 3 then 2 else if nf == 6 then 12 else 8

/-- The common fields of QCVT, DQCVT and PLPACK (05 R119, R123). -/
def Ext.narrow (x : Ext) (minor : Nat) (rounds : Bool) : Bool :=
  x.minor == minor && x.ty == .f32 && x.rndOk rounds && x.noMem && !x.form.hasLit && x.imm == 0 && decide (x.mod < 7)

def Ext.qcvtOk (x : Ext) : Bool :=
  x.narrow 0 true && decide (x.a + 7 < 128) && x.d % codeRegs x.mod == 0 && decide (x.d + codeRegs x.mod ≤ 128) &&
  !(decide (x.d ≤ x.b) && decide (x.b < x.d + codeRegs x.mod))
def Ext.dqcvtOk (x : Ext) : Bool :=
  x.narrow 1 true && decide (x.d + 7 < 128) && x.a % codeRegs x.mod == 0 && decide (x.a + codeRegs x.mod ≤ 128)
def Ext.plpackOk (x : Ext) : Bool :=
  x.narrow 2 false && decide (x.d + nfPlanes x.mod ≤ 128) && decide (x.a + nfCw x.mod ≤ 128) && x.b == 0 && x.c == 0

/-- SELK, SMAX, SAMP, REDB (08 R164). -/
def Ext.selOk (x : Ext) (minor : Nat) (rounds : Bool) : Bool :=
  x.minor == minor && x.tyOk [.f32, .f16, .bf16] && x.rndOk rounds && x.noMem && !x.form.hasLit && decide (x.d < 64) &&
  x.wordA && x.b == 0 && x.c == 0 && x.imm == 0

/-- A memory row that names a scratchpad or lane-store offset (12 R218). -/
def Ext.window (x : Ext) (minor : Nat) (ts : List Ty) (ords : List MOrd) (maxScope : Nat) : Bool :=
  x.mem minor ts ords maxScope && !x.m1 && x.addrA false && x.b == 0 && vOk x.ty.wide x.d

/-- The guard that FENCE and the handler-only rows require: GUARD 7 with NEG 0 (11 R210, 19 R350). -/
def Ext.unguarded (x : Ext) : Bool := x.guard == 7 && !x.neg

def wfIadd (x : Ext) : Bool := x.bin 0 Ty.ints false
def wfIcmp (x : Ext) : Bool :=
  decide (x.minor < 6) && x.lane x.minor Ty.ints false && decide (x.d < 8) && x.aOk x.ty.wide && x.bOk x.ty.wide &&
  x.c == 0 && x.srcMod x.ty.width
def wfFcmp (x : Ext) : Bool :=
  decide (x.minor < 8) && x.lane x.minor [.f32, .f64, .f16, .bf16] false && decide (x.d < 8) && x.aOk x.ty.wide &&
  x.bOk x.ty.wide && x.c == 0 && x.srcMod x.ty.width
def wfLogic (x : Ext) (minor : Nat) : Bool := x.bin minor [.b32, .n64] false
def wfIsel (x : Ext) : Bool :=
  x.lane 0 [.b32, .n64] false && vOk x.ty.wide x.d && x.aOk x.ty.wide && x.bOk x.ty.wide && decide (x.c < 8) &&
  x.srcMod x.ty.width
def wfPlop (x : Ext) : Bool :=
  x.lane 1 [.b32] false && decide (x.d < 8) && decide (x.a < 8) && x.bOk false && decide (x.c < 8) && !x.m2 && x.srcMod 32
def wfTern32 (x : Ext) (minor : Nat) : Bool :=
  x.lane minor [.b32] false && vOk false x.d && x.aOk false && x.bOk false && vOk false x.c && x.srcMod 32
def wfCount (x : Ext) (minor : Nat) : Bool :=
  x.lane minor [.b32, .n64] false && vOk false x.d && x.aOk x.ty.wide && x.c == 0 && x.unary
def wfMovi (x : Ext) : Bool :=
  x.lane 1 [.b32, .n64] false && vOk x.ty.wide x.d && x.a == 0 && x.b == 0 && x.c == 0 &&
  (if x.form.hasLit then x.mod == 0 && x.imm == 0 && x.litOk x.ty.width else x.mod == 1)
def wfMovs (x : Ext) : Bool :=
  x.lane 3 [.b32, .n64] false && vOk x.ty.wide x.d && decide (x.a < 11) && x.b == 0 && x.c == 0 && x.mod0 &&
  (x.ty == .b32 || [0, 7, 8, 9, 10].contains x.a)
/-- FCVT (04 R74, R92). MOD[1] of a form without a second source is refused (notes/assumptions/112.md). -/
def wfFcvt (x : Ext) : Bool :=
  let src := Ty.ofCode x.c
  decide (x.c < 16) && x.lane 0 Ty.flts true && fcvtPair x.ty src && vOk x.ty.wide x.d && x.aOk src.wide &&
  (if x.ty.packed then x.bOk false && x.srcMod 32 else x.unary)
/-- FCVTI (04 R92), from the scalar float TYPEs (notes/assumptions/113.md). -/
def wfFcvti (x : Ext) : Bool :=
  let src := Ty.ofCode x.c
  decide (x.c < 16) && x.lane 1 Ty.ints true && src.scalarFloat && vOk x.ty.wide x.d && x.aOk src.wide && x.unary
def wfIcvtf (x : Ext) : Bool :=
  let src := Ty.ofCode x.c
  decide (x.c < 16) && x.lane 2 [.f32, .f64, .f16, .bf16] true && Ty.ints.contains src && vOk x.ty.wide x.d &&
  x.aOk src.wide && x.unary

/-- Legality of a word that carries the extended row of an instruction, by the row's field table. Field C of SYNCOP.load and field D of
SYNCOP.store, which these operations do not use, may name any even pair (notes/assumptions/124.md). -/
def Instr.legal : Instr → Bool
  | .iadd x | .isub x => wfIadd x
  | .imul x => x.bin 0 Ty.ints false
  | .imulh x => x.bin 1 Ty.ints false
  | .imad x => x.tern 0 Ty.ints false
  | .idiv x => x.bin 0 Ty.ints false
  | .irem x => x.bin 1 Ty.ints false
  | .imin x => x.bin 0 Ty.ints false
  | .imax x => x.bin 1 Ty.ints false
  | .iabs x => x.un 0 [.s32, .s64, .s16, .s8] false
  | .ineg x => x.un 1 Ty.ints false
  | .andL x => wfLogic x 0
  | .orL x => wfLogic x 1
  | .xorL x => wfLogic x 2
  | .andn x => wfLogic x 3
  | .notL x => x.un 4 [.b32, .n64] false
  | .shl x => x.bin32 0 [.b32, .n64]
  | .shr x => x.bin32 1 [.b32, .n64]
  | .sar x => x.bin32 2 [.b32, .n64]
  | .rot x => x.bin32 3 [.b32, .n64]
  | .bfx x => x.bin32 0 [.b32, .s32, .n32]
  | .bfi x => wfTern32 x 1
  | .popc x => wfCount x 0
  | .clz x => wfCount x 1
  | .brev x => x.un 2 [.b32, .n64] false
  | .perm x => wfTern32 x 0
  | .icmp x => wfIcmp x
  | .isel x => wfIsel x
  | .plop x => wfPlop x
  | .mov x => x.un 0 [.b32, .n64] false
  | .movi x => wfMovi x
  | .movk x => x.lane 2 [.b32] false && decide (x.d < 64) && x.aOk false && x.c == 0 && x.unary
  | .movs x => wfMovs x
  | .getc x => x.lane 4 [.b32] false && vOk false x.d && ctlOk x.a && x.b == 0 && x.c == 0 && x.mod0
  | .setc x => x.lane 5 [.b32] false && ctlOk x.d && x.aOk false && x.c == 0 && x.unary
  | .fadd x => x.bin 0 Ty.flts true
  | .fsub x => x.bin 1 Ty.flts true
  | .fmul x => x.bin 0 Ty.flts true
  | .ffma x => x.tern 0 Ty.flts true
  | .fmin x => x.bin 0 Ty.flts false
  | .fmax x => x.bin 1 Ty.flts false
  | .fdiv x => x.bin 0 [.f32, .f64] true
  | .fsqrt x => x.un 0 [.f32, .f64] true
  | .fcmp x => wfFcmp x
  | .fclass x =>
    x.lane 16 [.f32, .f64, .f16, .bf16] false && vOk false x.d && x.aOk x.ty.wide && x.c == 0 && x.unary
  | .fcvt x => wfFcvt x
  | .fcvti x => wfFcvti x
  | .icvtf x => wfIcvtf x
  | .dig x => x.lane 0 Ty.flts false && vOk false x.d && x.aOk x.ty.wide && x.c == 0 && x.unary
  | .sibg x => x.bin32 1 [.f32, .f64, .b32, .n64]
  | .dmean x => x.un 2 Ty.flts true
  | .rand x => x.lane 0 [.n32, .n64, .f32] false && vOk x.ty.wide x.d && x.a == 0 && x.b == 0 && x.c == 0 && x.mod0
  | .frcp x => x.un 0 [.f32, .f64] true
  | .frsq x => x.un 1 [.f32, .f64] true
  | .fex2 x => x.un 0 Ty.flts true
  | .flg2 x => x.un 1 Ty.flts true
  | .fsin x => x.un 0 Ty.flts true
  | .fcos x => x.un 1 Ty.flts true
  | .bra x => x.ctrl 0 && x.d == 0 && x.a == 0 && x.mod == 0
  | .jmp x => x.ctrl 1 && x.d == 0 && x.pairA
  | .call x => x.ctrl 0 && vOk true x.d &&
      ((x.mod == 0 && x.a == 0) || (x.mod == 1 && vOk true x.a && x.imm == 0) || (x.mod == 5 && kOk true x.a && x.imm == 0))
  | .ret x => x.ctrl 1 && x.d == 0 && x.pairA && x.imm == 0
  | .exitT x => x.ctrl 0 && x.d == 0 && x.a == 0 && x.mod == 0 && x.imm == 0
  | .elect x => x.ctrl 0 && decide (x.d < 8) && x.a == 0 && x.mod == 0 && x.imm == 0
  | .vote x => x.ctrl 1 && decide (x.a < 8) && x.imm == 0 &&
      (((x.mod == 0 || x.mod == 1) && decide (x.d < 8)) || (x.mod == 2 && vOk true x.d))
  | .yield x => x.ctrl 0 && x.d == 0 && x.a == 0 && x.mod == 0 && x.imm == 0
  | .waitc x => x.ctrl 1 && x.d == 0 && x.pairA && x.imm == 0
  | .nop x => x.ctrl 0 && x.d == 0 && x.a == 0 && x.mod == 0 && x.imm == 0
  | .hint x => decide (1 ≤ x.minor) && decide (x.minor < 0x380) && x.form == .ext
  | .qcvt x => x.qcvtOk
  | .dqcvt x => x.dqcvtOk
  | .plpack x => x.plpackOk
  | .shape x => x.eng 0 && decide (x.d < 8) && x.aOk false && x.bOk false && !x.m0 && x.c == 0 && x.imm == 0
  | .shget x => x.eng 1 && vOk true x.d && decide (x.a < 8) && x.b == 0 && x.c == 0 && x.imm == 0 && decide (x.mod < 2)
  | .matx x => x.eng 0 && decide (x.d < 64) && x.wordA && decide (x.b < 8) && x.c == 0 && x.imm == 0
  | .mstat x =>
    x.eng 1 && x.d % 4 == 0 && decide (x.d ≤ 124) && decide (x.a < 64) && x.b == 0 && x.c == 0 && x.imm == 0 && x.mod == 0
  | .mreset x => x.eng 2 && x.d == 0 && x.a == 0 && x.b == 0 && x.c == 0 && x.imm == 0 && x.mod == 0
  | .cfzero x => x.eng 0 && decide (x.d < 64) && x.a == 0 && x.b == 0 && x.c == 0 && decide (x.imm < 4) && x.mod == 0
  | .cfread x => x.eng 1 && x.b == 0 && x.c == 0 && decide (x.imm < 4) && (x.mod == 0 || (x.mod == 1 && x.a == 0))
  | .fold x =>
    x.minor == 2 && x.ty == .f32 && x.rndOk true && x.noMem && !x.form.hasLit && decide (x.d < 64) && x.wordA &&
    x.b == 0 && x.c == 0 && decide (x.imm < 4)
  | .drain x =>
    x.minor == 3 && x.ty == .f32 && x.rndOk true && x.noMem && !x.form.hasLit && decide (x.d < 64) &&
    (if x.m2 then kOk false x.a else vOk false x.a) && !x.m1 && decide (x.b < 32) && decide (x.c < 8) && decide (x.imm < 12)
  | .mq16 x =>
    x.minor == 0 && x.ty == .f32 && x.rndOk true && x.noMem && !x.form.hasLit && decide (x.d + 15 < 128) && x.c == 0 && x.mod0
  | .mq32 x =>
    x.minor == 1 && x.ty == .f32 && x.rndOk true && x.noMem && !x.form.hasLit && decide (x.d + 31 < 128) && x.c == 0 && x.mod0
  | .selk x => x.selOk 0 false
  | .smax x => x.selOk 1 true
  | .samp x => x.selOk 2 false
  | .redb x => x.selOk 3 false
  | .ld x => x.mem 0 Ty.all ordLd 6 && x.record && vOk x.ty.wide x.d
  | .st x => x.mem 1 Ty.all ordSt 6 && x.record && vOk x.ty.wide x.d
  | .ldbuf x => x.mem 2 [.f32] [.plain] 0 && decide (x.d < 32) && x.pairA && x.b == 0 && x.c == 0
  | .prf x => x.mem 3 Ty.all [.plain] 0 && x.record && x.d == 0
  | .ldl x => x.window 0 Ty.all [.plain] 0 && x.c == 0
  | .stl x => x.window 1 Ty.all [.plain] 0 && x.c == 0
  | .lds x => x.window 0 Ty.all ordLd 2 && x.c == 0
  | .sts x => x.window 1 Ty.all ordSt 2 && x.c == 0
  | .ldx x => x.window 2 Ty.words [.plain] 0 && decide (x.c < 8)
  | .ldf x => x.window 0 Ty.words [.plain] 0 && x.c == 0
  | .ste x => x.window 1 Ty.words [.plain] 0 && x.c == 0
  | .tagset x => x.mem 2 [.f32] [.plain] 0 && x.d == 0 && x.addrA false && (x.m1 || x.b == 0) && x.c == 0
  | .tagclr x => x.mem 3 [.f32] [.plain] 0 && x.d == 0 && x.addrA false && (x.m1 || x.b == 0) && x.c == 0
  | .walkBind x => x.mem 0 Ty.all [.plain] 0 && decide (x.d < 8) && x.wordA && decide (x.b < 32) && x.c == 0 && x.imm == 0
  | .walkNext x =>
    x.mem 0 Ty.all [.plain] 0 && vOk x.ty.wide x.d && decide (x.a < 8) && x.b == 0 && x.c == 0 && x.imm == 0 && x.mod == 1
  | .atom x =>
    decide (x.minor < 8) && x.mem x.minor (atomTys x.minor) ordAll 6 && x.addrA false && decide (x.b < 32) && x.atomC &&
    vOk x.ty.wide x.d
  | .red x =>
    decide (16 ≤ x.minor) && decide (x.minor < 24) && x.mem x.minor (atomTys (x.minor - 16)) ordSt 6 && x.addrA false &&
    decide (x.b < 32) && x.atomC && (if x.minor == 23 then vOk x.ty.wide x.d else x.d == 0)
  | .fence x =>
    x.mem 0 [.f32] [.acquire, .release, .acqRel, .sc] 6 && x.d == 0 && x.a == 0 && x.b == 0 && x.c == 0 && x.imm == 0 &&
    x.mod == 0 && x.unguarded
  | .barArrive x => x.minor == 1 && x.ty == .f32 && x.rnd == .draw && !x.form.hasLit && x.ord == .plain && x.scope != .res7 &&
      vOk false x.d && x.pairA && x.b == 0 && x.c == 0
  | .barWait x => x.minor == 2 && x.ty == .f32 && x.rnd == .draw && !x.form.hasLit && x.ord == .plain && x.scope != .res7 &&
      x.d == 0 && x.pairA && x.b == 0 && vOk false x.c
  | .syncop x => x.minor == 3 && x.ty == .f32 && x.rnd == .draw && !x.form.hasLit && decide (x.b < 8) &&
      (syncOrds x.b).contains x.ord && x.scope != .res7 && !x.m0 && vOk true x.d &&
      (if x.m2 then kOk true x.a else vOk true x.a) && (if x.m1 then kOk true x.c else vOk true x.c)
  | .xcopy x => x.eng 0 && decide (x.d < 64) && x.wordA && x.b == 0 && x.c == 0 && x.imm == 0
  | .ownGive x => x.eng 1 && x.d == 0 && x.addrA false && !x.m1 && x.b == 0 && x.c == 0 &&
      (if x.m0 then decide (x.imm < 128) else x.imm == 0)
  | .ownTake x => x.eng 2 && x.d == 0 && x.addrA false && !x.m1 && x.b == 0 && x.c == 0 &&
      (if x.m0 then decide (x.imm < 128) else x.imm == 0)
  | .twaitany x => x.eng 0 && x.d == 0 && x.addrA true && !x.m1 && x.b == 0 && x.c == 0 &&
      (if x.m0 then decide (x.imm < 64) else x.imm == 0)
  | .twaitall x => x.eng 1 && x.d == 0 && x.addrA true && !x.m1 && x.b == 0 && x.c == 0 &&
      (if x.m0 then decide (x.imm < 64) else x.imm == 0)
  | .tfirst x => x.eng 2 && vOk false x.d && x.addrA true && !x.m1 && x.b == 0 && x.c == 0 &&
      (if x.m0 then decide (x.imm < 64) else x.imm == 0)
  | .enq x => x.eng 0 && vOk true x.d && x.wordA && decide (x.b < 8) && x.c == 0
  | .deq x => x.eng 1 && vOk true x.d && x.wordA && decide (x.b < 8) && x.c == 0
  | .dlaunch x => x.eng 2 && vOk true x.d && x.pairA && x.b == 0 && x.c == 0
  | .rld x => x.mem 0 Ty.all ordLd 6 && vOk x.ty.wide x.d && vOk true x.a && vOk false x.b && x.c == 0 && x.mod == 0
  | .rst x => x.mem 1 Ty.all ordSt 6 && vOk x.ty.wide x.d && vOk true x.a && vOk false x.b && x.c == 0 && x.mod == 0
  | .ratom x =>
    x.mem 2 (atomTys x.mod) ordAll 6 && vOk x.ty.wide x.d && vOk true x.a && vOk false x.b && vOk x.ty.wide x.c
  | .coll x => x.eng 0 && decide (x.d < 64) && x.wordA && x.b == 0 && x.c == 0 && x.imm == 0
  | .callr x => x.eng 1 && vOk true x.d && x.wordA && x.b == 0 && x.c == 0 && x.imm == 0
  | .callh x => x.eng 2 && vOk true x.d && x.wordA && vOk true x.b && x.c == 0 && x.imm == 0
  | .waith x => x.eng 3 && vOk true x.d && x.pairA && x.b == 0 && x.c == 0 && x.imm == 0
  | .drophRelease x => x.eng 4 && x.d == 0 && x.pairA && x.b == 0 && x.c == 0 && x.imm == 0
  | .drophBreak x => x.eng 4 && x.d == 0 && ((x.mod == 1 && vOk true x.a) || (x.mod == 5 && kOk true x.a)) && x.b == 0 &&
      x.c == 0 && x.imm == 0
  | .hstat x => x.eng 5 && vOk true x.d &&
      (((x.mod == 0 || x.mod == 1) && vOk true x.a) || ((x.mod == 4 || x.mod == 5) && kOk true x.a)) && x.b == 0 &&
      x.c == 0 && x.imm == 0
  | .trap x => x.eng 0 && x.d == 0 && x.a == 0 && x.b == 0 && x.c == 0 && x.mod == 0 && decide (x.imm < 2 ^ 16)
  | .rett x => x.eng 1 && x.d == 0 && x.a == 0 && x.b == 0 && x.c == 0 && x.mod == 0 && x.imm == 0 && x.unguarded
  | .frd x => x.eng 2 && vOk true x.d && vOk false x.a && x.b == 0 && x.c == 0 && x.mod == 0 && x.unguarded
  | .fwr x => x.eng 3 && x.d == 0 && vOk false x.a && vOk true x.b && x.c == 0 && x.mod == 0 && x.unguarded
  | .grpctl x => x.eng 4 && x.d == 0 && vOk true x.a && vOk false x.b && x.c == 0 && decide (x.mod < 3) && x.imm == 0 &&
      x.unguarded
  | .tlbi x => x.eng 5 && x.d == 0 && x.c == 0 && x.imm == 0 && x.unguarded &&
      ((x.mod == 0 && vOk true x.a && vOk false x.b) || (x.mod == 1 && x.a == 0 && x.b == 0))
  | .bkpt x => x.eng 6 && x.d == 0 && x.a == 0 && x.b == 0 && x.c == 0 && x.mod == 0 && decide (x.imm < 2 ^ 16)
  | _ => true

end Sys2Proof
end

