-- ==== Sys2Proof/Decode.lean ====
section
/-!
DEFINITION. The decoder, total on every list of bytes, and after it the encoder (spec 02 R22, R23, R25, R38, R39). A word that
is no instruction is rejected with a reason; every reason but a split line is an ILLEGAL_INSTRUCTION. FETCH_SPLIT depends on
the address and is judged where the instruction is fetched.
-/
namespace Sys2Proof

/-- Why bytes are no instruction (02 R38): too few bytes, an unassigned major or minor (order 2), or a field that the
instruction does not accept (orders 3 and 4). -/
inductive DecodeError where
  | short | unassigned | field
  deriving DecidableEq, Repr

/-- Bits [lo + n - 1 : lo] of a number (00 R5). -/
def bitsAt (w lo n : Nat) : Nat := w / 2 ^ lo % 2 ^ n

/-- Little-endian value of bytes (00 R4). -/
def leNat : List Byte → Nat
  | [] => 0
  | b :: bs => b.toNat + 256 * leNat bs

/-- The low `n` bytes of a number, least significant first (00 R4). -/
def leBytes : Nat → Nat → List Byte
  | 0, _ => []
  | n + 1, w => BitVec.ofNat 8 w :: leBytes n (w / 256)

/-- LEN of the base word gives the form (02 R22). -/
def Form.ofLen : Nat → Form
  | 0 => .base | 1 => .ext | 2 => .baseLit | _ => .extLit
def Form.code : Form → Nat
  | .base => 0 | .ext => 1 | .baseLit => 2 | .extLit => 3

def Ty.code : Ty → Nat
  | .f32 => 0 | .f64 => 1 | .f16 => 2 | .bf16 => 3 | .f16x2 => 4 | .bf16x2 => 5 | .s32 => 6 | .n32 => 7 | .s64 => 8
  | .n64 => 9 | .s16 => 10 | .n16 => 11 | .s8 => 12 | .n8 => 13 | .b32 => 14 | .res15 => 15
def Rnd.ofCode : Nat → Rnd
  | 0 => .draw | 1 => .rne | 2 => .rz | 3 => .rup | 4 => .rdn | 5 => .rna | 6 => .res6 | _ => .res7
def Rnd.code : Rnd → Nat
  | .draw => 0 | .rne => 1 | .rz => 2 | .rup => 3 | .rdn => 4 | .rna => 5 | .res6 => 6 | .res7 => 7
def MOrd.ofCode : Nat → MOrd
  | 0 => .plain | 1 => .relaxed | 2 => .acquire | 3 => .release | 4 => .acqRel | 5 => .sc | 6 => .res6 | _ => .res7
def MOrd.code : MOrd → Nat
  | .plain => 0 | .relaxed => 1 | .acquire => 2 | .release => 3 | .acqRel => 4 | .sc => 5 | .res6 => 6 | .res7 => 7
def Scope.ofCode : Nat → Scope
  | 0 => .thread | 1 => .block | 2 => .core | 3 => .die | 4 => .device | 5 => .fabric | 6 => .system | _ => .res7
def Scope.code : Scope → Nat
  | .thread => 0 | .block => 1 | .core => 2 | .die => 3 | .device => 4 | .fabric => 5 | .system => 6 | .res7 => 7

/-- Base type of a major (02 R39); a major with no TYPE has TYPE 0. -/
def baseTy (major : Nat) : Ty :=
  if (1 ≤ major && major ≤ 7) || major == 13 || major == 45 then .s32
  else if (8 ≤ major && major ≤ 12) || major == 14 || major == 15 || (40 ≤ major && major ≤ 43) || major == 59 then .b32
  else if major == 27 then .n32 else .f32

/-- Majors whose minor 0 reads a C source when MOD is 0, so that its base form takes C = D (02 R23, 12 R218): IMAD, PERM,
ISEL, FFMA, ATOM and QCVT. -/
def baseReadsC (major : Nat) : Bool := [4, 12, 14, 18, 45, 51].contains major

/-- The extended row that a base word executes as (02 R23). -/
def Base.toExt (major : Nat) (x : Base) : Ext :=
  { form := .base, minor := 0, guard := 7, neg := false, stall := x.stall, ty := baseTy major, rnd := .draw, ord := .plain,
    scope := .thread, mod := 0, d := x.d, a := x.a, b := x.b, c := if baseReadsC major then x.d else 0, imm := 0, lit := 0 }

/-- The fields of a base word. -/
def Base.ofWord (w0 : Nat) : Base := { d := bitsAt w0 11 7, a := bitsAt w0 18 7, b := bitsAt w0 25 7, stall := bitsAt w0 2 3 }

/-- The fields of an extended word (02 R22, R25). -/
def Ext.ofWords (form : Form) (w0 w1 w2 : Nat) (lit : W64) : Ext :=
  { form := form, minor := bitsAt w1 0 10, guard := bitsAt w1 10 3, neg := bitsAt w1 13 1 == 1,
    stall := bitsAt w1 14 2 * 8 + bitsAt w0 2 3, ty := Ty.ofCode (bitsAt w1 16 4), rnd := Rnd.ofCode (bitsAt w1 20 3),
    ord := MOrd.ofCode (bitsAt w1 23 3), scope := Scope.ofCode (bitsAt w1 26 3), mod := bitsAt w1 29 3,
    d := bitsAt w0 11 7, a := bitsAt w0 18 7, b := bitsAt w0 25 7, c := bitsAt w2 0 7, imm := bitsAt w2 7 25, lit := lit }

/-- The fields of a base word with a literal: those of R23 with the literal for B (02 R22, R28). -/
def Ext.ofBaseLit (major w0 : Nat) (lit : W64) : Ext :=
  { Base.toExt major (Base.ofWord w0) with form := .baseLit, lit := lit }

/-- Row of an extended word by major and minor (02 R39). -/
def extRow (major : Nat) (x : Ext) : Option Instr :=
  match major, x.minor with
  | 1, 0 => some (.iadd x)
  | 2, 0 => some (.isub x)
  | 3, 0 => some (.imul x)
  | 3, 1 => some (.imulh x)
  | 4, 0 => some (.imad x)
  | 5, 0 => some (.idiv x)
  | 5, 1 => some (.irem x)
  | 6, 0 => some (.imin x)
  | 6, 1 => some (.imax x)
  | 7, 0 => some (.iabs x)
  | 7, 1 => some (.ineg x)
  | 8, 0 => some (.andL x)
  | 8, 1 => some (.orL x)
  | 8, 2 => some (.xorL x)
  | 8, 3 => some (.andn x)
  | 8, 4 => some (.notL x)
  | 9, 0 => some (.shl x)
  | 9, 1 => some (.shr x)
  | 9, 2 => some (.sar x)
  | 9, 3 => some (.rot x)
  | 10, 0 => some (.bfx x)
  | 10, 1 => some (.bfi x)
  | 11, 0 => some (.popc x)
  | 11, 1 => some (.clz x)
  | 11, 2 => some (.brev x)
  | 12, 0 => some (.perm x)
  | 14, 0 => some (.isel x)
  | 14, 1 => some (.plop x)
  | 15, 0 => some (.mov x)
  | 15, 1 => some (.movi x)
  | 15, 2 => some (.movk x)
  | 15, 3 => some (.movs x)
  | 15, 4 => some (.getc x)
  | 15, 5 => some (.setc x)
  | 16, 0 => some (.fadd x)
  | 16, 1 => some (.fsub x)
  | 17, 0 => some (.fmul x)
  | 18, 0 => some (.ffma x)
  | 19, 0 => some (.fmin x)
  | 19, 1 => some (.fmax x)
  | 20, 0 => some (.fdiv x)
  | 21, 0 => some (.fsqrt x)
  | 25, 0 => some (.fcvt x)
  | 25, 1 => some (.fcvti x)
  | 25, 2 => some (.icvtf x)
  | 26, 0 => some (.dig x)
  | 26, 1 => some (.sibg x)
  | 26, 2 => some (.dmean x)
  | 27, 0 => some (.rand x)
  | 28, 0 => some (.frcp x)
  | 28, 1 => some (.frsq x)
  | 29, 0 => some (.fex2 x)
  | 29, 1 => some (.flg2 x)
  | 30, 0 => some (.fsin x)
  | 30, 1 => some (.fcos x)
  | 32, 0 => some (.bra x)
  | 32, 1 => some (.jmp x)
  | 33, 0 => some (.call x)
  | 33, 1 => some (.ret x)
  | 34, 0 => some (.exitT x)
  | 35, 0 => some (.elect x)
  | 35, 1 => some (.vote x)
  | 36, 0 => some (.yield x)
  | 36, 1 => some (.waitc x)
  | 40, 0 => some (.ld x)
  | 40, 1 => some (.st x)
  | 40, 2 => some (.ldbuf x)
  | 40, 3 => some (.prf x)
  | 41, 0 => some (.ldl x)
  | 41, 1 => some (.stl x)
  | 42, 0 => some (.lds x)
  | 42, 1 => some (.sts x)
  | 42, 2 => some (.ldx x)
  | 43, 0 => some (.ldf x)
  | 43, 1 => some (.ste x)
  | 43, 2 => some (.tagset x)
  | 43, 3 => some (.tagclr x)
  | 46, 0 => some (.fence x)
  | 46, 1 => some (.barArrive x)
  | 46, 2 => some (.barWait x)
  | 46, 3 => some (.syncop x)
  | 48, 0 => some (.shape x)
  | 48, 1 => some (.shget x)
  | 49, 0 => some (.matx x)
  | 49, 1 => some (.mstat x)
  | 49, 2 => some (.mreset x)
  | 50, 0 => some (.cfzero x)
  | 50, 1 => some (.cfread x)
  | 50, 2 => some (.fold x)
  | 50, 3 => some (.drain x)
  | 51, 0 => some (.qcvt x)
  | 51, 1 => some (.dqcvt x)
  | 51, 2 => some (.plpack x)
  | 52, 0 => some (.selk x)
  | 52, 1 => some (.smax x)
  | 52, 2 => some (.samp x)
  | 52, 3 => some (.redb x)
  | 53, 0 => some (.mq16 x)
  | 53, 1 => some (.mq32 x)
  | 56, 0 => some (.xcopy x)
  | 56, 1 => some (.ownGive x)
  | 56, 2 => some (.ownTake x)
  | 57, 0 => some (.twaitany x)
  | 57, 1 => some (.twaitall x)
  | 57, 2 => some (.tfirst x)
  | 58, 0 => some (.enq x)
  | 58, 1 => some (.deq x)
  | 58, 2 => some (.dlaunch x)
  | 59, 0 => some (.rld x)
  | 59, 1 => some (.rst x)
  | 59, 2 => some (.ratom x)
  | 60, 0 => some (.coll x)
  | 60, 1 => some (.callr x)
  | 60, 2 => some (.callh x)
  | 60, 3 => some (.waith x)
  | 60, 5 => some (.hstat x)
  | 61, 0 => some (.trap x)
  | 61, 1 => some (.rett x)
  | 61, 2 => some (.frd x)
  | 61, 3 => some (.fwr x)
  | 61, 4 => some (.grpctl x)
  | 61, 5 => some (.tlbi x)
  | 61, 6 => some (.bkpt x)
  | 63, 0 => some (.nop x)
  | 13, n => if n < 6 then some (.icmp x) else none
  | 24, n => if n == 16 then some (.fclass x) else if n < 8 then some (.fcmp x) else none
  | 44, 0 => if x.mod == 1 then some (.walkNext x) else some (.walkBind x)
  | 45, n => if n < 8 then some (.atom x) else if 16 ≤ n && n < 24 then some (.red x) else none
  | 60, 4 => if x.mod % 2 == 1 then some (.drophBreak x) else some (.drophRelease x)
  | 63, n => if 1 ≤ n && n < 0x380 then some (.hint x) else none
  | _, _ => none

/-- Row of a base word: the majors with a minor 0 that has a base form (02 R23, R38, R39). -/
def baseRow (major : Nat) (x : Base) : Option Instr :=
  match major with
  | 1 => some (.iaddBase x)
  | 2 => some (.isubBase x)
  | 3 => some (.imulBase x)
  | 4 => some (.imadBase x)
  | 5 => some (.idivBase x)
  | 6 => some (.iminBase x)
  | 7 => some (.iabsBase x)
  | 8 => some (.andBase x)
  | 9 => some (.shlBase x)
  | 10 => some (.bfxBase x)
  | 11 => some (.popcBase x)
  | 12 => some (.permBase x)
  | 13 => some (.icmpBase x)
  | 14 => some (.iselBase x)
  | 15 => some (.movBase x)
  | 16 => some (.faddBase x)
  | 17 => some (.fmulBase x)
  | 18 => some (.ffmaBase x)
  | 19 => some (.fminBase x)
  | 20 => some (.fdivBase x)
  | 21 => some (.fsqrtBase x)
  | 24 => some (.fcmpBase x)
  | 26 => some (.digBase x)
  | 27 => some (.randBase x)
  | 28 => some (.frcpBase x)
  | 29 => some (.fex2Base x)
  | 30 => some (.fsinBase x)
  | 32 => some (.braBase x)
  | 33 => some (.callBase x)
  | 34 => some (.exitBase x)
  | 35 => some (.electBase x)
  | 36 => some (.yieldBase x)
  | 63 => some (.nopBase x)
  | 51 => some (.qcvtBase x)
  | 48 => some (.shapeBase x)
  | 49 => some (.matxBase x)
  | 50 => some (.cfzeroBase x)
  | 53 => some (.mq16Base x)
  | 52 => some (.selkBase x)
  | 40 => some (.ldBase x)
  | 41 => some (.ldlBase x)
  | 42 => some (.ldsBase x)
  | 43 => some (.ldfBase x)
  | 44 => some (.walkBindBase x)
  | 45 => some (.atomBase x)
  | 56 => some (.xcopyBase x)
  | 57 => some (.twaitanyBase x)
  | 58 => some (.enqBase x)
  | 59 => some (.rldBase x)
  | 60 => some (.collBase x)
  | 61 => some (.trapBase x)
  | _ => none

/-- Major opcode of a row that has an instruction word. -/
def Instr.major : Instr → Nat
  | .iadd _ => 1
  | .isub _ => 2
  | .imul _ => 3
  | .imulh _ => 3
  | .imad _ => 4
  | .idiv _ => 5
  | .irem _ => 5
  | .imin _ => 6
  | .imax _ => 6
  | .iabs _ => 7
  | .ineg _ => 7
  | .andL _ => 8
  | .orL _ => 8
  | .xorL _ => 8
  | .andn _ => 8
  | .notL _ => 8
  | .shl _ => 9
  | .shr _ => 9
  | .sar _ => 9
  | .rot _ => 9
  | .bfx _ => 10
  | .bfi _ => 10
  | .popc _ => 11
  | .clz _ => 11
  | .brev _ => 11
  | .perm _ => 12
  | .icmp _ => 13
  | .isel _ => 14
  | .plop _ => 14
  | .mov _ => 15
  | .movi _ => 15
  | .movk _ => 15
  | .movs _ => 15
  | .getc _ => 15
  | .setc _ => 15
  | .fadd _ => 16
  | .fsub _ => 16
  | .fmul _ => 17
  | .ffma _ => 18
  | .fmin _ => 19
  | .fmax _ => 19
  | .fdiv _ => 20
  | .fsqrt _ => 21
  | .fcmp _ => 24
  | .fclass _ => 24
  | .fcvt _ => 25
  | .fcvti _ => 25
  | .icvtf _ => 25
  | .dig _ => 26
  | .sibg _ => 26
  | .dmean _ => 26
  | .rand _ => 27
  | .frcp _ => 28
  | .frsq _ => 28
  | .fex2 _ => 29
  | .flg2 _ => 29
  | .fsin _ => 30
  | .fcos _ => 30
  | .bra _ => 32
  | .jmp _ => 32
  | .call _ => 33
  | .ret _ => 33
  | .exitT _ => 34
  | .elect _ => 35
  | .vote _ => 35
  | .yield _ => 36
  | .waitc _ => 36
  | .ld _ => 40
  | .st _ => 40
  | .ldbuf _ => 40
  | .prf _ => 40
  | .ldl _ => 41
  | .stl _ => 41
  | .lds _ => 42
  | .sts _ => 42
  | .ldx _ => 42
  | .ldf _ => 43
  | .ste _ => 43
  | .tagset _ => 43
  | .tagclr _ => 43
  | .walkBind _ => 44
  | .walkNext _ => 44
  | .atom _ => 45
  | .red _ => 45
  | .fence _ => 46
  | .barArrive _ => 46
  | .barWait _ => 46
  | .syncop _ => 46
  | .shape _ => 48
  | .shget _ => 48
  | .matx _ => 49
  | .mstat _ => 49
  | .mreset _ => 49
  | .cfzero _ => 50
  | .cfread _ => 50
  | .fold _ => 50
  | .drain _ => 50
  | .qcvt _ => 51
  | .dqcvt _ => 51
  | .plpack _ => 51
  | .selk _ => 52
  | .smax _ => 52
  | .samp _ => 52
  | .redb _ => 52
  | .mq16 _ => 53
  | .mq32 _ => 53
  | .xcopy _ => 56
  | .ownGive _ => 56
  | .ownTake _ => 56
  | .twaitany _ => 57
  | .twaitall _ => 57
  | .tfirst _ => 57
  | .enq _ => 58
  | .deq _ => 58
  | .dlaunch _ => 58
  | .rld _ => 59
  | .rst _ => 59
  | .ratom _ => 59
  | .coll _ => 60
  | .callr _ => 60
  | .callh _ => 60
  | .waith _ => 60
  | .drophRelease _ => 60
  | .drophBreak _ => 60
  | .hstat _ => 60
  | .trap _ => 61
  | .rett _ => 61
  | .frd _ => 61
  | .fwr _ => 61
  | .grpctl _ => 61
  | .tlbi _ => 61
  | .bkpt _ => 61
  | .nop _ => 63
  | .hint _ => 63
  | .iaddBase _ => 1
  | .isubBase _ => 2
  | .imulBase _ => 3
  | .imadBase _ => 4
  | .idivBase _ => 5
  | .iminBase _ => 6
  | .iabsBase _ => 7
  | .andBase _ => 8
  | .shlBase _ => 9
  | .bfxBase _ => 10
  | .popcBase _ => 11
  | .permBase _ => 12
  | .icmpBase _ => 13
  | .iselBase _ => 14
  | .movBase _ => 15
  | .faddBase _ => 16
  | .fmulBase _ => 17
  | .ffmaBase _ => 18
  | .fminBase _ => 19
  | .fdivBase _ => 20
  | .fsqrtBase _ => 21
  | .fcmpBase _ => 24
  | .digBase _ => 26
  | .randBase _ => 27
  | .frcpBase _ => 28
  | .fex2Base _ => 29
  | .fsinBase _ => 30
  | .braBase _ => 32
  | .callBase _ => 33
  | .exitBase _ => 34
  | .electBase _ => 35
  | .yieldBase _ => 36
  | .nopBase _ => 63
  | .qcvtBase _ => 51
  | .shapeBase _ => 48
  | .matxBase _ => 49
  | .cfzeroBase _ => 50
  | .mq16Base _ => 53
  | .selkBase _ => 52
  | .ldBase _ => 40
  | .ldlBase _ => 41
  | .ldsBase _ => 42
  | .ldfBase _ => 43
  | .walkBindBase _ => 44
  | .atomBase _ => 45
  | .xcopyBase _ => 56
  | .twaitanyBase _ => 57
  | .enqBase _ => 58
  | .rldBase _ => 59
  | .collBase _ => 60
  | .trapBase _ => 61
  | _ => 0

/-- The fields of a row that carries an extended word. -/
def Instr.ext? : Instr → Option Ext
  | .iadd x => some x
  | .isub x => some x
  | .imul x => some x
  | .imulh x => some x
  | .imad x => some x
  | .idiv x => some x
  | .irem x => some x
  | .imin x => some x
  | .imax x => some x
  | .iabs x => some x
  | .ineg x => some x
  | .andL x => some x
  | .orL x => some x
  | .xorL x => some x
  | .andn x => some x
  | .notL x => some x
  | .shl x => some x
  | .shr x => some x
  | .sar x => some x
  | .rot x => some x
  | .bfx x => some x
  | .bfi x => some x
  | .popc x => some x
  | .clz x => some x
  | .brev x => some x
  | .perm x => some x
  | .icmp x => some x
  | .isel x => some x
  | .plop x => some x
  | .mov x => some x
  | .movi x => some x
  | .movk x => some x
  | .movs x => some x
  | .getc x => some x
  | .setc x => some x
  | .fadd x => some x
  | .fsub x => some x
  | .fmul x => some x
  | .ffma x => some x
  | .fmin x => some x
  | .fmax x => some x
  | .fdiv x => some x
  | .fsqrt x => some x
  | .fcmp x => some x
  | .fclass x => some x
  | .fcvt x => some x
  | .fcvti x => some x
  | .icvtf x => some x
  | .dig x => some x
  | .sibg x => some x
  | .dmean x => some x
  | .rand x => some x
  | .frcp x => some x
  | .frsq x => some x
  | .fex2 x => some x
  | .flg2 x => some x
  | .fsin x => some x
  | .fcos x => some x
  | .bra x => some x
  | .jmp x => some x
  | .call x => some x
  | .ret x => some x
  | .exitT x => some x
  | .elect x => some x
  | .vote x => some x
  | .yield x => some x
  | .waitc x => some x
  | .nop x => some x
  | .hint x => some x
  | .qcvt x => some x
  | .dqcvt x => some x
  | .plpack x => some x
  | .shape x => some x
  | .shget x => some x
  | .matx x => some x
  | .mstat x => some x
  | .mreset x => some x
  | .cfzero x => some x
  | .cfread x => some x
  | .fold x => some x
  | .drain x => some x
  | .mq16 x => some x
  | .mq32 x => some x
  | .selk x => some x
  | .smax x => some x
  | .samp x => some x
  | .redb x => some x
  | .ld x => some x
  | .st x => some x
  | .ldbuf x => some x
  | .prf x => some x
  | .ldl x => some x
  | .stl x => some x
  | .lds x => some x
  | .sts x => some x
  | .ldx x => some x
  | .ldf x => some x
  | .ste x => some x
  | .tagset x => some x
  | .tagclr x => some x
  | .walkBind x => some x
  | .walkNext x => some x
  | .atom x => some x
  | .red x => some x
  | .fence x => some x
  | .barArrive x => some x
  | .barWait x => some x
  | .syncop x => some x
  | .xcopy x => some x
  | .ownGive x => some x
  | .ownTake x => some x
  | .twaitany x => some x
  | .twaitall x => some x
  | .tfirst x => some x
  | .dlaunch x => some x
  | .enq x => some x
  | .deq x => some x
  | .rld x => some x
  | .rst x => some x
  | .ratom x => some x
  | .coll x => some x
  | .callr x => some x
  | .callh x => some x
  | .waith x => some x
  | .hstat x => some x
  | .drophBreak x => some x
  | .drophRelease x => some x
  | .trap x => some x
  | .bkpt x => some x
  | .rett x => some x
  | .frd x => some x
  | .fwr x => some x
  | .grpctl x => some x
  | .tlbi x => some x
  | _ => none

/-- The fields of a base row. -/
def Instr.base? : Instr → Option Base
  | .iaddBase x => some x
  | .isubBase x => some x
  | .imulBase x => some x
  | .imadBase x => some x
  | .idivBase x => some x
  | .iminBase x => some x
  | .iabsBase x => some x
  | .andBase x => some x
  | .shlBase x => some x
  | .bfxBase x => some x
  | .popcBase x => some x
  | .permBase x => some x
  | .icmpBase x => some x
  | .iselBase x => some x
  | .movBase x => some x
  | .faddBase x => some x
  | .fmulBase x => some x
  | .ffmaBase x => some x
  | .fminBase x => some x
  | .fdivBase x => some x
  | .fsqrtBase x => some x
  | .fcmpBase x => some x
  | .digBase x => some x
  | .randBase x => some x
  | .frcpBase x => some x
  | .fex2Base x => some x
  | .fsinBase x => some x
  | .braBase x => some x
  | .callBase x => some x
  | .exitBase x => some x
  | .electBase x => some x
  | .yieldBase x => some x
  | .nopBase x => some x
  | .qcvtBase x => some x
  | .shapeBase x => some x
  | .matxBase x => some x
  | .cfzeroBase x => some x
  | .mq16Base x => some x
  | .selkBase x => some x
  | .ldBase x => some x
  | .ldlBase x => some x
  | .ldsBase x => some x
  | .ldfBase x => some x
  | .walkBindBase x => some x
  | .atomBase x => some x
  | .xcopyBase x => some x
  | .twaitanyBase x => some x
  | .enqBase x => some x
  | .rldBase x => some x
  | .collBase x => some x
  | .trapBase x => some x
  | _ => none

/-- The row of the base form of MOV, MOVI and the majors without a legal base word is checked on the extended fields that the
base word stands for (02 R23). -/
def baseLegal (major : Nat) (x : Base) : Bool :=
  match extRow major (Base.toExt major x) with
  | some i => i.legal
  | none => false

/-- A base row's fields fit their bits (02 R22). -/
def Base.bounded (x : Base) : Bool := decide (x.d < 128) && decide (x.a < 128) && decide (x.b < 128) && decide (x.stall < 8)

/-- A base word with literal has the fields of R23, and only an instruction with a literal accepts one (02 R23, R28). -/
def baseLitShape (major : Nat) (x : Ext) : Bool :=
  x == { Base.toExt major { d := x.d, a := x.a, b := x.b, stall := x.stall } with form := .baseLit, lit := x.lit } &&
  decide (x.stall < 8)

/-- Well-formed instructions: exactly what the decoder answers. A row that is no instruction word has no encoding. -/
def Instr.wf (i : Instr) : Bool :=
  match i.ext?, i.base? with
  | some x, _ =>
    x.bounded && i.legal && extRow i.major x == some i &&
      (match x.form with | .base => false | .baseLit => baseLitShape i.major x | _ => true)
  | none, some x => x.bounded && baseLegal i.major x && baseRow i.major x == some i
  | none, none => false

/-- The 32-bit words of a list of bytes. -/
def wordAt (bs : List Byte) (k : Nat) : Nat := leNat ((bs.drop (4 * k)).take 4)

/-- Length in bytes of the instruction whose base word is `w0` (02 R22). -/
def lenOf (w0 : Nat) : Nat := (Form.ofLen (bitsAt w0 0 2)).len

/-- Accept a row whose fields are legal. -/
def accept (r : Option Instr) (legal : Bool) : Except DecodeError Instr :=
  match r with
  | none => .error .unassigned
  | some i => if legal then .ok i else .error .field

/-- Decode the instruction at the head of a list of bytes; the rest of the list is not looked at. -/
def decode (bs : List Byte) : Except DecodeError Instr :=
  let w0 := wordAt bs 0
  let form := Form.ofLen (bitsAt w0 0 2)
  let major := bitsAt w0 5 6
  if bs.length < form.len then .error .short
  else match form with
    | .base => accept (baseRow major (Base.ofWord w0)) (baseLegal major (Base.ofWord w0))
    | .baseLit =>
      let x := Ext.ofBaseLit major w0 (BitVec.ofNat 64 (wordAt bs 1 + 2 ^ 32 * wordAt bs 2))
      accept (extRow major x) ((extRow major x).any Instr.legal)
    | f =>
      let lit : W64 := if f.hasLit then BitVec.ofNat 64 (wordAt bs 3 + 2 ^ 32 * wordAt bs 4) else 0
      let x := Ext.ofWords f w0 (wordAt bs 1) (wordAt bs 2) lit
      accept (extRow major x) ((extRow major x).any Instr.legal)

/-- The base word of a row (02 R22). -/
def encodeW0 (len major stall d a b : Nat) : Nat :=
  len + 2 ^ 2 * (stall % 8) + 2 ^ 5 * major + 2 ^ 11 * d + 2 ^ 18 * a + 2 ^ 25 * b

/-- Extended words 1 and 2 (02 R22). -/
def encodeW1 (x : Ext) : Nat :=
  x.minor + 2 ^ 10 * x.guard + 2 ^ 13 * (if x.neg then 1 else 0) + 2 ^ 14 * (x.stall / 8) + 2 ^ 16 * x.ty.code +
    2 ^ 20 * x.rnd.code + 2 ^ 23 * x.ord.code + 2 ^ 26 * x.scope.code + 2 ^ 29 * x.mod
def encodeW2 (x : Ext) : Nat := x.c + 2 ^ 7 * x.imm

/-- The words of a row that carries an extended word. -/
def encodeExt (major : Nat) (x : Ext) : List Nat :=
  let lit := [x.lit.toNat % 2 ^ 32, x.lit.toNat / 2 ^ 32]
  let w0 := encodeW0 x.form.code major x.stall x.d x.a x.b
  match x.form with
  | .base => [w0]
  | .baseLit => w0 :: lit
  | .ext => [w0, encodeW1 x, encodeW2 x]
  | .extLit => w0 :: encodeW1 x :: encodeW2 x :: lit

/-- The instruction words of a row; none for a row that is no instruction word. -/
def encode (i : Instr) : List Nat :=
  match i.ext?, i.base? with
  | some x, _ => encodeExt i.major x
  | none, some x => [encodeW0 0 i.major x.stall x.d x.a x.b]
  | none, none => []

/-- The bytes of instruction words, in memory order (00 R4, 02 R22). -/
def wordBytes (ws : List Nat) : List Byte := ws.flatMap (leBytes 4)

/-- The decoder on an instruction given as one number, bit 0 the least significant bit of the first word; the bits above
`nbits` are 0 up to the longest instruction of 20 bytes. -/
def decodeTableWord (nbits w : Nat) : Option Instr :=
  match decode (leBytes 20 (w % 2 ^ nbits)) with
  | .ok i => some i
  | .error _ => none

end Sys2Proof
end

