-- ==== Sys2Proof/Config.lean ====
section
/-!
DEFINITION. What one implementation fixes and what the spec leaves open. The opaque constants are free values: nothing can
evaluate them, so a claim holds whatever they are. The constants with a value are fixed by the spec (18 R325).
-/
namespace Sys2Proof.Config

/-- Which step the machine's agents take next when no issue and no agenda entry is waiting: timing, the scheduler's choices
and the outside world are free (15 R259, R264 to R277; 16 R287; notes/assumptions/1.md). -/
opaque nextEvent : Nat → Instr

/-- A value that the spec leaves undefined although the machine goes on (notes/assumptions/2.md). -/
opaque freeValue : Nat → BitVec 64

/-- Whether the host link fails to complete an access (10 R187; notes/assumptions/3.md). -/
opaque hostError : Nat → Bool

/-- What a byte of host memory holds before the model sees a write to it (10 R187; notes/assumptions/3.md). -/
opaque hostByte : Nat → Byte

/-- Whether device memory reports an uncorrectable ECC error when a save area is read (19 R358; notes/assumptions/99.md). -/
opaque eccError : Nat → Bool

/-- SHAKE256 over bytes: each output byte by its place, and the first `n` of them (18 R326, R328, R330; 19 R357;
notes/assumptions/4.md). -/
opaque shakeByte : List Byte → Nat → Byte
def shake256 (bytes : List Byte) (n : Nat) : List Byte := (List.range n).map (shakeByte bytes)

/-- Falcon-1024 verification: public key, message, signature (18 R326; notes/assumptions/4.md). -/
opaque falconVerify : List Byte → List Byte → List Byte → Bool

/-- Falcon-1024 signature under the attestation key derived from fused secret material and an image digest (18 R328). -/
opaque falconSign : List Byte → List Byte → List Byte

/-- Fused key digest of 32 bytes, fused security counter and fuse configuration (18 R326, R328, R329). -/
opaque fusedKeyByte : Nat → Byte
def fusedKeyDigest : List Byte := (List.range 32).map fusedKeyByte
opaque fusedCounter : Nat
opaque fuseConfig : List Byte

/-- The device key of save areas, drawn anew at each start: the start's number selects it (19 R357). -/
opaque deviceKey : Nat → List Byte

/-- The 240 payload bytes of a flit of a given KIND and packet number: the spec gives no payload layout (16 R284;
notes/assumptions/5.md). -/
opaque payloadByte : Nat → Nat → Nat → Byte
def payload (kind seq : Nat) : List Byte := (List.range 240).map (payloadByte kind seq)

/-- The payload bytes in use in a flit of a given KIND and packet number (16 R284; notes/assumptions/5.md). -/
opaque payloadLen : Nat → Nat → Nat

/-- Class stamp of the Dolaulith Creid (18 R325). -/
def classStamp : Nat := 0x504C_4443_0004_0001

end Sys2Proof.Config
end

