-- ==== Sys2Proof/Machine/State.lean ====
section
/-!
DEFINITION. The state of one PL-DC4 module as plain data: its threads, blocks, grids and regions, its cores, dies and engines,
its memories, its fabric streams and handles, its host registers and its debug facilities. Maps are lists of key and value
pairs in increasing key order; a key that is not listed reads as the map's default, which the accessor in Ops.lean names.
-/
namespace Sys2Proof.Machine

/-- A sparse map: keys strictly rising. -/
abbrev SMap (α : Type) := List (Nat × α)

/-- Memory: (address, byte) pairs. Device space occupies its own physical addresses, vault space lies at 2^48 + pa and sync
space at 2^49 + 2^20 × die + offset (10 R177, R178, R189). -/
abbrev Memory := List Host.Cell

/-- Trap causes (19 R338). `regrant` to `step` and the three codes that start no handler included. -/
inductive Cause where
  | fetchSplit | illegalInstruction | misalignedPc | stallUndersized | bounds | recordInvalid | addrRange | syncSpace
  | misalignedAddr | translationFault | accessFault | atomPlace | syncKind | walkDescriptor | walkerType | ownerState
  | tagRange | queueRange | remoteFault | numericalInstability | matrixStrict | remoteStore | regrant | software
  | breakpoint | queueError | step | save
  deriving DecidableEq, Repr

/-- What a trap frame's header says of a cause (19 R344). `lanes` and `done` are lane masks of the cause group's
quarter and `mems` its members. -/
structure Trap where
  cause : Cause
  fcode : Nat
  addr : Nat
  pc : Nat
  icount : W64
  words : List Byte
  micro : Nat
  tag : Nat
  quarter : Nat
  lanes : Nat
  done : Nat
  mems : List Nat
  deriving DecidableEq, Repr

/-- A fixed-latency write not yet visible (02 R32): `reg` 0 to 127 is v, 128 to 134 is p; `rem` is the remaining declared
distance; `half` is 1 and 2 for the low and high register of a pair write (19 R345). -/
structure PendWrite where
  reg : Nat
  val : W32
  rem : Nat
  half : Nat
  deriving DecidableEq, Repr

/-- The registers of one thread or sibling: lane registers, predicates, control registers, lane store, fixed-latency writes
not yet visible and variable-latency results not yet complete (01 R17, 03 R47, 10 R179, 02 R32, R34); `grp` holds the registers that
one result writes together (05 R119). -/
structure Regs where
  v : SMap W32
  p : SMap Bool
  c : SMap W32
  ls : SMap Byte
  pend : List PendWrite
  infl : SMap W32
  grp : List (List Nat)
  deriving DecidableEq, Repr

/-- One dimension of a walker (10 R194). -/
structure WalkDim where
  count : Nat
  s0 : Int
  s1 : Int
  pred : Nat
  deriving DecidableEq, Repr

/-- A walker (10 R194 to R196). `ahead` holds elements fetched ahead, each sibling's value; `none` is a fault kept for the
read that consumes it. -/
structure Walker where
  bound : Bool
  record : BitVec 256
  ty : Ty
  a0 : Int
  a1 : Int
  dims : List WalkDim
  next : Nat
  ahead : List (Option (List W64))
  deriving DecidableEq, Repr

/-- What a member at a blocking point waits for (15 R265), and the two waits that are no blocking point: replies of an RATOM
and the micro-steps of an MQ expansion (16 R293, 02 R42). -/
inductive WaitKind where
  | barWait (addr phase : Nat)
  | deq (queue index off : Nat)
  | enq (queue off : Nat)
  | ldf (off : Nat)
  | ste (off : Nat) (data : W32)
  | tags (all : Bool) (mask : Nat)
  | ownTake (slot : Nat)
  | waitc (until_ : Nat)
  | waith (handle : W64)
  | yield
  | remote (blocking : Bool) (requests : List Nat)
  | mq (step offA offB : Nat) (tmp : List Nat)
  deriving DecidableEq, Repr

/-- An unfinished replay-class instruction of one member (19 R341, R344, R345): the number of its issue, its fields, major
and bytes, captured sources A, B, C, D of each sibling, the result once its access has taken effect, a recorded fault reply,
the requests already sent, and the PC and icount that the member's thread record holds. -/
structure Captured where
  seq : Nat
  x : Ext
  major : Nat
  words : List Byte
  srcs : List (List W64)
  result : Option (List W64)
  faultReply : Option (Nat × Nat)
  requests : List Nat
  nextPc : Nat
  icount : W64
  deriving DecidableEq, Repr

/-- A member of a block: a solo thread, or a triad with its three siblings (01 R14, 03 R48). `lane` is sibling 0's lane;
`space` counts core cycles until it may issue again (02 R31); `spin` counts the cycles that the mark of HINT #0x20 still stands, the
present one among them (02 R41); `came` is the PC from which it last moved (20 R368). `late` holds the causes raised since the frame or
save area of its stopped block was written, which that frame does not record (19 R343). -/
structure Member where
  live : Bool
  exited : Bool
  pc : Nat
  icount : W64
  lane : Nat
  slot : Nat
  sibs : List Regs
  walkers : SMap Walker
  wait : Option WaitKind
  cap : Option Captured
  hold : Bool
  step : Bool
  pendCause : List Trap
  late : List Trap
  space : Nat
  spin : Nat
  came : Nat
  deriving DecidableEq, Repr

/-- A shape register: request and grant word (06 R124). -/
structure ShapeReg where
  req : W64
  grant : W64
  deriving DecidableEq, Repr

/-- An owner bit: held by the threads, given to the engines, or claimed by a copy (10 R182, 12 R238, R242). -/
inductive Owner where
  | threads | given | claimed (copy : Nat)
  deriving DecidableEq, Repr

/-- How a block that a stop request holds stood when it was taken (20 R365): running; stopped for a forced save; placed with a gang that has
not started; or with a gang that has started since. -/
inductive Held where
  | running | stopping | gang | started
  deriving DecidableEq, Repr

/-- Where a block stands: resident and running; stopped with a trap frame pending or handled; saved; placed with its GANG grid, which
has not started yet (15 R256); stopped for a forced save that waits for its engine work (15 R269); held for a stop request (20 R365); lost; ended. -/
inductive BlkState where
  | running
  | frameWait (t : Trap)
  | handled (frame : Nat) (handler : Nat)
  | saved (owner area : Nat) (forced : Bool)
  | gangWait
  | stopping
  | heldForStop (h : Held)
  | lost
  | ended
  deriving DecidableEq, Repr

/-- A privileged handler thread (19 R346, R347): the block it handles, if any, its frame, the cause and ADDR that the frame
reports, and the REFT at which it started. -/
structure Handler where
  block : Option Nat
  frame : Nat
  frameIdx : Nat
  cause : Cause
  addr : Nat
  started : Nat
  deriving DecidableEq, Repr

/-- One write into a saved block that arrived after its save (19 R357): into the partition, a kept status with the tag that it sets, or
the reply of a member's request. -/
inductive Arrival where
  | reply (mem : Nat) (result : Option (List W64)) (fault : Option (Nat × Nat))
  | spad (off : Nat) (bytes : List Byte)
  | tag (n : Nat) (status : BitVec 128) (set : Bool)
  deriving DecidableEq, Repr

/-- A course log entry (20 R363); `late` marks a register write of a MATX, which belongs to no instruction of the member's own. -/
structure LogEntry where
  value : W64
  dest : Nat
  part : Nat
  member : Nat
  sib : Nat
  count : Nat
  late : Bool
  deriving DecidableEq, Repr

/-- A retirement in a course (20 R366): the member and its retired count, the log entries before it, and the member after it. -/
structure Retired where
  mem : Nat
  count : Nat
  logged : Nat
  state : Member
  deriving DecidableEq, Repr

/-- A plumb word of a course (20 R369, R370): the sibling and the count of its BAR.ARRIVE, the icount at issue, and the registers that an
operation in flight owned. -/
structure Plumb where
  mem : Nat
  sib : Nat
  count : Nat
  icount : W64
  busy : List Nat
  deriving DecidableEq, Repr

/-- One course (20 R362): its number, its start, the bytes of its snapshot, its log, and its retirements, whose states its re-execution
yields (20 R366); `written` holds the DEST codes of block registers written in the course (20 R363). -/
structure Course where
  number : Nat
  start : SMap Member
  snap : List Byte
  log : List LogEntry
  retired : SMap Nat
  history : List Retired
  plumbs : List Plumb
  written : List Nat
  deriving DecidableEq, Repr

/-- The courses of a block with a slot: the slot, the current course and the one before it (20 R361). -/
structure CourseSlot where
  slot : Nat
  current : Course
  before : Option Course
  deriving DecidableEq, Repr

/-- A block (15 R252 ff.). Tags, statuses and slots are numbered within the block; `placed` is the REFT at which its slice began,
`called` the REFT from which its eviction is called for (15 R268, R269); `dbg` says that the region's debug descriptor applies to it
(20 R360); `paid` is the core time in ns charged to the region in advance (15 R270); `arrLen` is the length of the arrival records in the block's save area (19 R357). -/
structure Block where
  grid : Nat
  stage : Nat
  blk : Nat
  region : Nat
  core : Nat
  triad : Bool
  tb : Nat
  members : SMap Member
  k : SMap W32
  sh : SMap ShapeReg
  buf : SMap (BitVec 256)
  spad : SMap Byte
  full : SMap Bool
  own : SMap Owner
  spadBase : Nat
  spadSize : Nat
  lsSize : Nat
  tagN : Nat
  tags : SMap Bool
  tagStat : SMap (BitVec 128)
  sample : W32
  shChanged : Nat
  state : BlkState
  handler : Option Handler
  placed : Nat
  paid : Nat
  sliceEnded : Bool
  called : Option Nat
  arrLen : Nat
  course : Option CourseSlot
  rgnEnd : Bool
  dbg : Bool
  deriving DecidableEq, Repr

/-- The issue that the machine performs: a block and its members at one PC in increasing lane order (15 R263, R264); the
instruction bytes of a replay entry, when it is one (19 R355). -/
structure Issue where
  blk : Nat
  mems : List Nat
  words : Option (List Byte)
  deriving DecidableEq, Repr

/-- A step that waits to be taken before any other: an event, the end of a block's course (20 R362), or the issue of a replay
entry (19 R355). -/
inductive Task where
  | event (i : Instr)
  | courseEnd (blk : Nat)
  | issue (k : Issue)
  deriving DecidableEq, Repr

/-- An entry of a quarter's issue table (15 R263): block, PC, members, age, and cycles without a ready thread. -/
structure Entry where
  blk : Nat
  pc : Nat
  mems : List Nat
  age : Nat
  idle : Nat
  deriving DecidableEq, Repr

/-- The operation of a matrix-queue entry (07 R142). -/
inductive MatKind where
  | matx | cfzero | fold | drain
  deriving DecidableEq, Repr

/-- An accepted operation of the matrix or selection queue with what it captured at issue (07 R145, 08 R167). `alpha`,
`cond`, `condTrue` and `wfmt` belong to DRAIN; `since` is the REFT at acceptance, and `ran` the core cycles for which it has executed on the array (07 R161). -/
structure MatOp where
  kind : MatKind
  blk : Nat
  mem : Nat
  tag : Nat
  pbOff : Nat
  pbOk : Bool
  pb : List Byte
  slot : Nat
  rnd : Rnd
  recA : BitVec 256
  recB : BitVec 256
  shape : ShapeReg
  seed : W64
  lossexp : W32
  digest : W64
  tid : W64
  icount : W64
  pc : Nat
  words : List Byte
  alpha : W32
  cond : Bool
  condTrue : Bool
  wfmt : Nat
  since : Nat
  ran : Nat
  deriving DecidableEq, Repr

inductive SelKind where
  | selk | smax | samp | redb
  deriving DecidableEq, Repr

/-- An accepted selection operation (08 R165, R167). -/
structure SelOp where
  kind : SelKind
  ty : Ty
  rnd : Rnd
  blk : Nat
  mem : Nat
  tag : Nat
  pbOff : Nat
  pbOk : Bool
  pb : List Byte
  recIn : BitVec 256
  recOut : BitVec 256
  recIdx : BitVec 256
  seed : W64
  randseed : W64
  digest : W64
  tid : W64
  icount : W64
  counter : W32
  pc : Nat
  deriving DecidableEq, Repr

/-- A Coffer slot (07 R153): elements by index, status fields. -/
structure CofferSlot where
  elems : SMap W32
  state : Nat
  finite : Bool
  exp : Int
  region : Nat
  deriving DecidableEq, Repr

/-- A leaf entry held by a TLB with its region and page (18 R316, R318). -/
structure TlbEntry where
  region : Nat
  va : Nat
  size : Nat
  leaf : W64
  deriving DecidableEq, Repr

/-- An instruction-cache line (02 R37). -/
structure CodeLine where
  region : Nat
  code : Nat
  va : Nat
  bytes : List Byte
  deriving DecidableEq, Repr

/-- An L1 line of a CACHED page: physical line and contents (10 R185, R186). -/
structure L1Line where
  line : Nat
  bytes : List Byte
  filled : Nat
  deriving DecidableEq, Repr

/-- A forwarding entry (15 R277): the moved block and its new core, and when it was made. -/
structure Forward where
  blk : Nat
  core : Nat
  since : Nat
  deriving DecidableEq, Repr

/-- A core; `issued` holds the die's CYC in which each quarter last issued (15 R264). -/
structure CoreSt where
  matq : List MatOp
  selq : List SelOp
  coffer : SMap CofferSlot
  rowsFenced : List Nat
  fenced : Bool
  tlb : List TlbEntry
  l1 : List L1Line
  icache : List CodeLine
  tables : SMap (List Entry)
  pending : SMap (List (Nat × Nat))
  fwd : List Forward
  issued : SMap W64
  power : Nat
  deriving DecidableEq, Repr

/-- A copy in a die's copy queue (12 R239): parameter block as captured, issuer, engine. -/
structure CopyOp where
  id : Nat
  blk : Nat
  mem : Nat
  tag : Nat
  region : Nat
  pbOff : Nat
  pbOk : Bool
  pb : List Byte
  engine : Nat
  digest : W64
  slots : List Nat
  ownerFail : Bool
  denied : Bool
  pc : Nat
  deriving DecidableEq, Repr

/-- A collective in a die's collective unit (16 R295). -/
structure CollOp where
  blk : Nat
  mem : Nat
  tag : Nat
  region : Nat
  pbOff : Nat
  pbOk : Bool
  pb : List Byte
  src : BitVec 256
  dst : BitVec 256
  digest : W64
  elems : List W32
  group : List Nat
  bad : Nat
  started : Nat
  pc : Nat
  deriving DecidableEq, Repr

/-- An invocation (16 R302, R303): where it goes, what it launches and the handle it serves. -/
structure Invocation where
  handle : W64
  region : Nat
  exec : Nat
  lrec : Nat
  resLen : Nat
  args : List Byte
  producer : W64
  addressed : Option W64
  deriving DecidableEq, Repr

/-- A handle's home entry (16 R299, R304, R306); `exec` is the module that runs or will run the callee, 0xFFF while unknown, and `via` the
module through which an unknown one is reached; `queue` holds the invocations that wait here and `sent` those that have been forwarded to
the module that holds the result and are neither launched nor broken as far as the home knows (16 R305). -/
structure HandleEntry where
  gen : Nat
  state : Nat
  cause : Nat
  rdev : Nat
  rlen : Nat
  raddr : Nat
  region : Nat
  released : Bool
  queue : List Invocation
  sent : List Invocation
  exec : Nat
  via : Nat
  deriving DecidableEq, Repr

/-- A remote request (16 R293): `op` 0 RLD, 1 RST, from 2 on RATOM with its operation; `digest` is the issuer's ctl.digestbase; `data`
holds each sibling's data; `port` is the receiving port, 0xFF for a request of the own module. -/
structure Remote where
  id : Nat
  op : Nat
  ty : Ty
  region : Nat
  addr : Nat
  data : List W64
  cmp : List W64
  triad : Bool
  digest : Nat
  port : Nat
  deriving DecidableEq, Repr

/-- The packet that a flit carries (16 R283). -/
inductive Packet where
  | none_
  | request (r : Remote)
  | reply (id : Nat) (result : List W64) (fault : Option (Nat × Nat))
  | invoke (i : Invocation)
  | callh (i : Invocation)
  | notice (handle : W64) (state cause rdev rlen raddr region : Nat)
  deriving DecidableEq, Repr

/-- A flit (16 R284): header fields and the packet it carries; `grid` is the grid whose instruction sent it, 0 for none (11 R213). -/
structure Flit where
  seq : Nat
  ack : Nat
  dst : Nat
  src : Nat
  tc : Nat
  ackTc : Nat
  ackV : Bool
  replay : Bool
  kind : Nat
  plen : Nat
  packet : Packet
  grid : Nat
  deriving DecidableEq, Repr

/-- The sending end of a stream (16 R285): next number, the first number not yet acknowledged, flits kept for retry in order, port,
packets that wait for room and have no number yet, and the REFT of the stream's first flit. A request that awaits a reply is kept until
the reply (16 R290). -/
structure SendStream where
  next : Nat
  acked : Nat
  unacked : List Flit
  port : Nat
  waiting : List Flit
  started : Nat
  deriving DecidableEq, Repr

/-- The receiving end of a stream (16 R286, R290): next expected number, held flits by number, KIND and port, delivered packets not yet
performed, whether an acknowledgement is due, and the REFT since which one is due and since which a gap stands (16 R285, R287). -/
structure RecvStream where
  expected : Nat
  held : List (Nat × Nat × Nat)
  delivered : List (Nat × Packet)
  ackDue : Bool
  ackSince : Nat
  gapSince : Nat
  deriving DecidableEq, Repr

/-- A reply-cache entry (16 R290). -/
structure CacheEntry where
  src : Nat
  tc : Nat
  seq : Nat
  replySeq : Nat
  reply : Flit
  deriving DecidableEq, Repr

/-- A request of this module that waits for its reply (16 R293, R294, R383); `sc` marks an RST that is an SC event (11 R202), and `sent` is
the REFT at which the request was made. -/
structure Outstanding where
  id : Nat
  wireSeq : Nat
  dst : Nat
  blk : Nat
  mem : Nat
  lane : Nat
  op : Nat
  pc : Nat
  icount : W64
  words : List Byte
  addr : Nat
  answered : Bool
  result : List W64
  fault : Option (Nat × Nat)
  sampled : Bool
  sc : Bool
  sent : Nat
  deriving DecidableEq, Repr

/-- A Jorile port (16 R283, R285, R287): `retries` successive retries without progress, and the REFT `since` of the last acknowledgement
progress, from which the port has held unacknowledged flits, or at which it failed. -/
structure PortSt where
  failed : Bool
  fenced : Bool
  trained : Bool
  retries : Nat
  since : Nat
  deriving DecidableEq, Repr

/-- A user-mode queue as its engine knows it (12 R243, 18 R335). -/
structure QueueSt where
  valid : Bool
  paddr : Nat
  deriving DecidableEq, Repr

/-- A QUEUE_ERROR whose delivery waits for a frame (21 R373): the engine's die, the completion record's number, the control
block, and the record's address and fault code when it could not be written. -/
structure QueueErr where
  region : Nat
  die : Nat
  record : Nat
  paddr : Nat
  bad : Option (Nat × Nat)
  deriving DecidableEq, Repr

/-- A die (01 R12, R16; 15 R278; 18 R333, R335). -/
structure DieSt where
  cyc : W64
  ncyc : W64
  ncycFrac : Nat
  step : Nat
  relock : Option Nat
  power : Nat
  counters : SMap W64
  freeze : Bool
  portFail : Nat
  lost : Bool
  fencedCompute : Bool
  fencedFull : Bool
  tlbiAddr : W64
  tlbiCmd : W64
  hovfBase : Nat
  hovfCnt : Nat
  qtab : SMap QueueSt
  tlb2 : List TlbEntry
  copyq : List CopyOp
  copySeq : Nat
  collq : List CollOp
  handles : SMap HandleEntry
  replies : List CacheEntry
  deriving DecidableEq, Repr

/-- Host-written and device-written fields of a region (15 R252, 19 R339), its root (18 R314), SR with its estimate in µs, 0 before any
has been observed (15 R268), arena (15 R384) and debug descriptor (20 R360). -/
structure Region where
  paddr : Nat
  parent : Nat
  ovr : Nat
  prio : Nat
  policy : Nat
  weight : Nat
  cores : Nat
  slots : Nat
  slice : Nat
  tol : Nat
  grace : Nat
  vquota : Nat
  dquota : Nat
  logBase : Nat
  logN : Nat
  handler : Nat
  hmask : W64
  frameBase : Nat
  frameSize : Nat
  nframe : Nat
  hlimit : Nat
  root : Nat
  stagedRoot : Option Nat
  live : Bool
  status : Nat
  logWr : Nat
  logDrop : Nat
  effSlice : Nat
  lostCnt : Nat
  faultCode : Nat
  faultAddr : Nat
  sr : Nat
  srEst : Nat
  frames : List Nat
  arenaBase : Nat
  arenaSize : Nat
  areas : List (Nat × Nat × Nat)
  descr : Option Nat
  deriving DecidableEq, Repr

/-- A stop request (20 R364). -/
structure StopReq where
  grid : Nat
  blk : Nat
  mem : Nat
  sib : Nat
  course : Nat
  count : Nat
  deriving DecidableEq, Repr

/-- A debug descriptor's host fields and device counters (20 R360, R364); `stop` is the request that has been started and not ended. -/
structure Debug where
  region : Nat
  enable : Nat
  courseLen : Nat
  snapBase : Nat
  snapSize : Nat
  nslot : Nat
  trBase : Nat
  trLog : Nat
  trWr : Nat
  plBase : Nat
  plLog : Nat
  plWr : Nat
  smBase : Nat
  smLog : Nat
  smWr : Nat
  speriod : Nat
  sampled : SMap Nat
  noSlot : Nat
  usedSlots : List Nat
  stop : Option StopReq
  stopBlk : Option Nat
  stopFrame : Option Nat
  deriving DecidableEq, Repr

/-- A stage of a pipeline grid (15 R271, R272): `created` blocks so far, `want` blocks still owed, and the
members that waited in DEQ at the last review, by block and number of the issue. -/
structure Stage where
  code : Nat
  threads : Nat
  minB : Nat
  maxB : Nat
  inq : Nat
  ctl : Nat
  nstart : Nat
  created : Nat
  want : Nat
  idle : List (Nat × Nat)
  deriving DecidableEq, Repr

/-- A stage queue (15 R271, R275): geometry, the write and claim indices, and the indices published and not yet freed. -/
structure StageQueue where
  base : Nat
  esize : Nat
  logN : Nat
  prod : Nat
  cons : Nat
  write : Nat
  claim : Nat
  published : List Nat
  deriving DecidableEq, Repr

/-- A place that the scheduler has chosen for a block of a GANG grid, a saved one or the next of a stage (15 R256). -/
structure Planned where
  saved : Option Nat
  stage : Nat
  core : Nat
  spad : Nat
  places : List Place
  deriving DecidableEq, Repr

/-- A grid (15 R256 to R260). `queue` holds the invocations addressed to the handle that the grid serves (16 R305), `argArea` the
region that owns its argument area with the address, `resArea` the same of its result area with its 64-byte units (16 R303); `reviewed`
is the REFT of a pipeline's last review (15 R272), and `plan` the places chosen so far for a GANG grid that is placed as a whole. -/
structure Grid where
  region : Nat
  code : Nat
  seed : W64
  args : Nat
  argLen : Nat
  nblocks : Nat
  perBlock : Nat
  triad : Bool
  spad : Nat
  lstore : Nat
  tags : Nat
  gang : Bool
  stages : List Stage
  queues : List StageQueue
  caddr : W64
  cvalue : W64
  ckind : Nat
  nextBlk : Nat
  exited : Nat
  status : Option Nat
  lostBlock : Bool
  complete : Bool
  argArea : Option (Nat × Nat)
  resArea : Option (Nat × Nat × Nat)
  queue : List Invocation
  reviewed : Nat
  plan : List Planned
  deriving DecidableEq, Repr

/-- The registers of the host window that belong to the module (18 R331, R336), the fence request that is BUSY, whether DEVID has been
written, and whether the last host access to the window met an unsupported-request completion (18 R334). -/
structure HostRegs where
  mailboxState : Nat
  mailboxStep : Nat
  mailboxWarm : Bool
  devid : Nat
  devidSet : Bool
  idleTol : Nat
  fenceCtl : W64
  fenceReq : W64
  launchStat : W64
  regRoot : W64
  regCmd : W64
  regStat : W64
  routes : SMap W64
  hostRead : List Byte
  unsupported : Bool
  report : List Byte
  digest : List Byte
  version : Nat
  starts : Nat
  deriving DecidableEq, Repr

/-- One line-sized request of the step in progress (10 R197, 20 R371): its agent, region and line, its kind (0 load, 1 store,
2 atomic) and virtual address, its die, whether the page is CACHED, and whether a Keystone performs it (10 R188). -/
structure Req where
  agent : Nat
  region : Nat
  line : Nat
  kind : Nat
  va : Nat
  place : Nat
  cached : Bool
  keystone : Bool
  deriving DecidableEq, Repr

/-- The state of the module. `cur` is the issue that the next step performs and `agenda` the steps waiting to be taken; `choice` numbers
the free values taken so far and `issues` the issues. `turns` holds each region's credit of core time in ns under deficit round-robin (15
R270), `beats` the REFT since which an ACK flit to each module is awaited (16 R383), `heard` the REFT of the last flit from each module (16 R383), and `lastRoute` the REFT at which the last working route to a module was
lost (16 R289). -/
structure State where
  mem : Memory
  cur : Option Issue
  agenda : List Task
  choice : Nat
  issues : Nat
  reft : W64
  blocks : SMap Block
  nextBlock : Nat
  grids : SMap Grid
  nextGrid : Nat
  regions : SMap Region
  debugs : SMap Debug
  cores : SMap CoreSt
  dies : SMap DieSt
  ports : SMap PortSt
  sends : SMap SendStream
  recvs : SMap RecvStream
  outs : List Outstanding
  nextReq : Nat
  wire : List (Nat × Flit)
  atab : SMap (BitVec 128)
  asyncs : List QueueErr
  host : HostRegs
  packagePower : Nat
  turns : SMap Int
  beats : SMap Nat
  heard : SMap Nat
  lastRoute : SMap Nat
  reqs : List Req
  deriving DecidableEq, Repr

/-- Why the machine stops without a next state. -/
inductive Fault where
  /-- Raised by every meaning of an instruction word when no issue is selected: an instruction word executes only as the
  issue of a block's members (15 R264), so the manual gives such a state no meaning. Safe: the machine stops. -/
  | noIssue
  deriving DecidableEq, Repr

/-- Why an instruction has no meaning. -/
inductive Refusal where
  /-- Raised by `exec` alone, for a row that the model does not give a meaning yet. Safe: the machine stops. -/
  | notModelled (mnemonic : String)
  deriving DecidableEq, Repr

/-- Registers of a thread that nothing has written (15 R260; notes/assumptions/6.md). -/
def Regs.zero : Regs := { v := [], p := [], c := [], ls := [], pend := [], infl := [], grp := [] }

def Member.none : Member :=
  { live := false, exited := false, pc := 0, icount := 0, lane := 0, slot := 0, sibs := [], walkers := [], wait := .none,
    cap := .none, hold := false, step := false, pendCause := [], late := [], space := 0, spin := 0, came := 0 }

def Walker.none : Walker :=
  { bound := false, record := 0, ty := .f32, a0 := 0, a1 := 0, dims := [], next := 0, ahead := [] }

def ShapeReg.zero : ShapeReg := { req := 0, grant := 0 }

def Block.none : Block :=
  { grid := 0, stage := 0, blk := 0, region := 0, core := 0, triad := false, tb := 0, members := [], k := [], sh := [],
    buf := [], spad := [], full := [], own := [], spadBase := 0, spadSize := 0, lsSize := 0, tagN := 0, tags := [],
    tagStat := [], sample := 0, shChanged := 0, state := .ended, handler := .none, placed := 0, paid := 0, sliceEnded := false, called := .none,
    arrLen := 0, course := .none, rgnEnd := false, dbg := false }

/-- A Coffer slot after cold start (07 R153). -/
def CofferSlot.empty : CofferSlot := { elems := [], state := 0, finite := true, exp := 0, region := 0 }

def CoreSt.reset : CoreSt :=
  { matq := [], selq := [], coffer := [], rowsFenced := [], fenced := false, tlb := [], l1 := [], icache := [], tables := [],
    pending := [], fwd := [], issued := [], power := 0 }

/-- A die after a start: counters and registers at their reset values (15 R278, 18 R333, R335), step 0 (notes/assumptions/7.md). -/
def DieSt.reset : DieSt :=
  { cyc := 0, ncyc := 0, ncycFrac := 0, step := 0, relock := .none, power := 0, counters := [], freeze := false,
    portFail := 0, lost := false, fencedCompute := false, fencedFull := false, tlbiAddr := 0, tlbiCmd := 0, hovfBase := 0,
    hovfCnt := 0, qtab := [], tlb2 := [], copyq := [], copySeq := 0, collq := [], handles := [], replies := [] }

/-- A course that begins with the given members (20 R362). -/
def Course.new (number : Nat) (start : SMap Member) : Course :=
  { number := number, start := start, snap := [], log := [], retired := [], history := [], plumbs := [], written := [] }

def Grid.none : Grid :=
  { region := 0, code := 0, seed := 0, args := 0, argLen := 0, nblocks := 0, perBlock := 1, triad := false, spad := 0,
    lstore := 0, tags := 0, gang := false, stages := [], queues := [], caddr := 0, cvalue := 0, ckind := 0, nextBlk := 0,
    exited := 0, status := .none, lostBlock := false, complete := true, argArea := .none, resArea := .none, queue := [], reviewed := 0,
    plan := [] }

def Region.none : Region :=
  { paddr := 0, parent := 0, ovr := 0, prio := 0, policy := 0, weight := 0, cores := 0, slots := 0, slice := 0, tol := 0,
    grace := 0, vquota := 0, dquota := 0, logBase := 0, logN := 0, handler := 0, hmask := 0, frameBase := 0, frameSize := 0,
    nframe := 0, hlimit := 0, root := 0, stagedRoot := .none, live := false, status := 0, logWr := 0, logDrop := 0,
    effSlice := 0, lostCnt := 0, faultCode := 0, faultAddr := 0, sr := 0, srEst := 0, frames := [], arenaBase := 0, arenaSize := 0,
    areas := [], descr := .none }

def Debug.none : Debug :=
  { region := 0, enable := 0, courseLen := 0, snapBase := 0, snapSize := 0, nslot := 0, trBase := 0, trLog := 0, trWr := 0,
    plBase := 0, plLog := 0, plWr := 0, smBase := 0, smLog := 0, smWr := 0, speriod := 1, sampled := [], noSlot := 0,
    usedSlots := [], stop := .none, stopBlk := .none, stopFrame := .none }

def PortSt.reset : PortSt := { failed := false, fenced := false, trained := true, retries := 0, since := 0 }
def SendStream.new : SendStream := { next := 0, acked := 0, unacked := [], port := 0xFF, waiting := [], started := 0 }
def RecvStream.new : RecvStream := { expected := 0, held := [], delivered := [], ackDue := false, ackSince := 0, gapSince := 0 }
def QueueSt.off : QueueSt := { valid := false, paddr := 0 }
def HandleEntry.free : HandleEntry :=
  { gen := 0, state := 0, cause := 0, rdev := 0, rlen := 0, raddr := 0, region := 0, released := false, queue := [],
    sent := [], exec := 0xFFF, via := 0xFFF }

/-- Module registers after a cold start that reached READY (18 R329, R336). -/
def HostRegs.reset : HostRegs :=
  { mailboxState := 2, mailboxStep := 0, mailboxWarm := false, devid := 0xFFF, devidSet := false, idleTol := 0, fenceCtl := 0, fenceReq := 0,
    launchStat := 0, regRoot := 0, regCmd := 0, regStat := 0, routes := [], hostRead := [], unsupported := false, report := [], digest := [],
    version := 0, starts := 0 }

/-- The module right after a cold start (18 R329): memories cleared, no region, no grid, no thread, every register at the
value of its field map. -/
def State.reset : State :=
  { mem := [], cur := .none, agenda := [], choice := 0, issues := 0, reft := 0, blocks := [], nextBlock := 1, grids := [], nextGrid := 1,
    regions := [], debugs := [], cores := [], dies := [], ports := [], sends := [], recvs := [], outs := [], nextReq := 0,
    wire := [], atab := [], asyncs := [], host := HostRegs.reset, packagePower := 0, turns := [],
    beats := [], heard := [], lastRoute := [], reqs := [] }

end Sys2Proof.Machine
end

