-- ==== Sys2Proof/Machine/Store.lean ====
section
/-!
DEFINITION. Sparse maps and memory as canonical lists, the bit-field helpers of spec 00 R5 and R8, and the state accessors
for blocks, members, cores, dies, grids and regions.
-/
namespace Sys2Proof.Machine

/-- Value at a key, or the map's default. -/
def SMap.get {α : Type} (d : α) (m : SMap α) (k : Nat) : α := (m.lookup k).getD d

/-- Entries below and above a key; the parts that a change at the key keeps. -/
def SMap.below {α : Type} (m : SMap α) (k : Nat) : SMap α := m.filter (fun e => decide (e.1 < k))
def SMap.from {α : Type} (m : SMap α) (k : Nat) : SMap α := m.filter (fun e => decide (k ≤ e.1))

/-- Store a value, listed whatever it is. -/
def SMap.put {α : Type} (m : SMap α) (k : Nat) (v : α) : SMap α := SMap.below m k ++ (k, v) :: SMap.from m (k + 1)

def SMap.del {α : Type} (m : SMap α) (k : Nat) : SMap α := SMap.below m k ++ SMap.from m (k + 1)

/-- Store a value in canonical form: the default is not listed. -/
def SMap.set {α : Type} [DecidableEq α] (d : α) (m : SMap α) (k : Nat) (v : α) : SMap α :=
  if v = d then SMap.del m k else SMap.put m k v

/-- Canonical form: keys strictly rising and no entry equal to the default of its key. -/
def Memory.canonical (d : Nat → Byte) : Memory → Bool
  | [] => true
  | (k, v) :: r => v != d k && r.all (fun e => decide (k < e.1)) && Memory.canonical d r

/-- Host memory lies at device-space addresses with bit 47 set (10 R178). -/
def hostKey (a : Nat) : Bool := decide (2 ^ 47 ≤ a) && decide (a < 2 ^ 48)

/-- What an unlisted address reads as: 0 where a cold start clears memory (18 R329), a free byte in host memory. -/
def memDefault (a : Nat) : Byte := if hostKey a then Config.hostByte a else 0

/-- The canonical form of the module's memory. -/
def Memory.wf (m : Memory) : Bool := Memory.canonical memDefault m

def Memory.byte (m : Memory) (a : Nat) : Byte := (List.lookup a m).getD (memDefault a)

/-- `n` bytes from an address upward. -/
def Memory.read (m : Memory) (a : Nat) : Nat → List Byte
  | 0 => []
  | n + 1 => Memory.byte m a :: Memory.read m (a + 1) n

/-- Entries for bytes at an address, those equal to the default left out. -/
def memEntries (a : Nat) : List Byte → Memory
  | [] => []
  | b :: bs => if b = memDefault a then memEntries (a + 1) bs else (a, b) :: memEntries (a + 1) bs

/-- Write bytes from an address upward, keeping the canonical form. -/
def Memory.write (m : Memory) (a : Nat) (bs : List Byte) : Memory :=
  m.filter (fun e => decide (e.1 < a)) ++ memEntries a bs ++ m.filter (fun e => decide (a + bs.length ≤ e.1))

/-- Little-endian value of `n` bytes (00 R4). -/
def Memory.nat (m : Memory) (a n : Nat) : Nat := leNat (Memory.read m a n)

/-- Bytes of a small store (lane store, scratchpad), which reads 0 where nothing is listed (10 R179, R180). -/
def storeRead (m : SMap Byte) (a : Nat) : Nat → List Byte
  | 0 => []
  | n + 1 => SMap.get 0 m a :: storeRead m (a + 1) n

def storeEntries (a : Nat) : List Byte → SMap Byte
  | [] => []
  | b :: bs => if b = 0 then storeEntries (a + 1) bs else (a, b) :: storeEntries (a + 1) bs

def storeWrite (m : SMap Byte) (a : Nat) (bs : List Byte) : SMap Byte :=
  SMap.below m a ++ storeEntries a bs ++ SMap.from m (a + bs.length)

/-- sext(x, n) of 00 R8. -/
def sextN (x n : Nat) : Int := if x % 2 ^ n < 2 ^ (n - 1) then ((x % 2 ^ n : Nat) : Int) else ((x % 2 ^ n : Nat) : Int) - 2 ^ n

/-- ceil(a / b). -/
def ceilDiv (a b : Nat) : Nat := (a + (b - 1)) / b

/-- clamp of 00 R8. -/
def clampI (x lo hi : Int) : Int := if x < lo then lo else if hi < x then hi else x

/-- x mod 2^n of an exact integer, as a number below 2^n (00 R7). -/
def wrapN (x : Int) (n : Nat) : Nat := (x % (2 ^ n : Int)).toNat

/-- The bit of a mask. -/
def bitN (m i : Nat) : Bool := m / 2 ^ i % 2 == 1

/-- Set a bit of a mask. -/
def setBitN (m i : Nat) : Nat := if bitN m i then m else m + 2 ^ i

def boolN (b : Bool) : Nat := if b then 1 else 0

def State.block (s : State) (b : Nat) : Block := SMap.get Block.none s.blocks b
def State.setBlock (s : State) (b : Nat) (B : Block) : State := { s with blocks := SMap.put s.blocks b B }
def Block.member (B : Block) (i : Nat) : Member := SMap.get Member.none B.members i
def Block.setMember (B : Block) (i : Nat) (m : Member) : Block := { B with members := SMap.put B.members i m }
def State.member (s : State) (b i : Nat) : Member := (s.block b).member i
def State.setMember (s : State) (b i : Nat) (m : Member) : State := s.setBlock b ((s.block b).setMember i m)

def State.core (s : State) (c : Nat) : CoreSt := SMap.get CoreSt.reset s.cores c
def State.setCore (s : State) (c : Nat) (C : CoreSt) : State := { s with cores := SMap.put s.cores c C }
def State.die (s : State) (d : Nat) : DieSt := SMap.get DieSt.reset s.dies d
def State.setDie (s : State) (d : Nat) (D : DieSt) : State := { s with dies := SMap.put s.dies d D }
def State.grid (s : State) (g : Nat) : Grid := SMap.get Grid.none s.grids g
def State.setGrid (s : State) (g : Nat) (G : Grid) : State := { s with grids := SMap.put s.grids g G }
def State.region (s : State) (r : Nat) : Region := SMap.get Region.none s.regions r
def State.setRegion (s : State) (r : Nat) (R : Region) : State := { s with regions := SMap.put s.regions r R }
def State.debug (s : State) (r : Nat) : Debug := SMap.get Debug.none s.debugs r
def State.setDebug (s : State) (r : Nat) (D : Debug) : State := { s with debugs := SMap.put s.debugs r D }
def State.port (s : State) (p : Nat) : PortSt := SMap.get PortSt.reset s.ports p
def State.setPort (s : State) (p : Nat) (P : PortSt) : State := { s with ports := SMap.put s.ports p P }

/-- A free value, and the counter that makes the next one different. -/
def State.free (s : State) : W64 × State := (Config.freeValue s.choice, { s with choice := s.choice + 1 })

/-- Die of a package core (01 R13). -/
def coreDie (c : Nat) : Nat := c / 64

/-- The package, a die and a core leave their power states (15 R280); what a fence has taken out of service stays off (18 R332). -/
def wakePackage (s : State) : State := if s.packagePower == 0 then s else { s with packagePower := 0 }
def wakeDie (s : State) (d : Nat) : State :=
  let s := wakePackage s
  if (s.die d).power == 0 || (s.die d).fencedFull then s else s.setDie d { s.die d with power := 0 }
def wakeCore (s : State) (c : Nat) : State :=
  let s := wakeDie s (coreDie c)
  let D := s.die (coreDie c)
  if (s.core c).power == 0 || (s.core c).fenced || D.fencedCompute || D.fencedFull then s else s.setCore c { s.core c with power := 0 }

/-- The lanes of one member: sibling s of a triad lies s lanes above sibling 0 (01 R14). -/
def Member.nsib (m : Member) : Nat := m.sibs.length
def Member.quarter (m : Member) : Nat := m.lane / 48

/-- Lane mask of a member in its quarter. -/
def Member.laneMask (m : Member) : Nat :=
  (List.range m.nsib).foldl (fun acc s => setBitN acc (m.lane % 48 + s)) 0

/-- The effective owner of an inherited field: the region itself when its OVR bit is set, otherwise the nearest ancestor that
sets it (15 R253). `fuel` bounds the climb by the number of regions. -/
def effOwner (rs : SMap Region) (bit : Nat) : Nat → Nat → Nat
  | 0, r => r
  | fuel + 1, r =>
    let R := SMap.get Region.none rs r
    if bitN R.ovr bit || R.parent == 0 then r else effOwner rs bit fuel R.parent

def State.eff (s : State) (bit r : Nat) : Region := s.region (effOwner s.regions bit s.regions.length r)

/-- A region and its ancestors (15 R253). -/
def ancestorsOf (rs : SMap Region) : Nat → Nat → List Nat
  | 0, _ => []
  | fuel + 1, r => if r == 0 then [] else r :: ancestorsOf rs fuel (SMap.get Region.none rs r).parent

def State.ancestors (s : State) (r : Nat) : List Nat := ancestorsOf s.regions (s.regions.length + 1) r

/-- Whether `r` is `a` or one of its descendants (15 R255). -/
def State.within (s : State) (r a : Nat) : Bool := (s.ancestors r).contains a

/-- Fields of a handle (16 R299). -/
def handleDev (h : W64) : Nat := bitsAt h.toNat 52 12
def handleDie (h : W64) : Nat := bitsAt h.toNat 50 2
def handleIndex (h : W64) : Nat := bitsAt h.toNat 34 16
def handleGen (h : W64) : Nat := bitsAt h.toNat 0 34
def nullHandle : W64 := 0xFFFF_FFFF_FFFF_FFFF
def mkHandle (dev die index gen : Nat) : W64 :=
  BitVec.ofNat 64 (dev % 2 ^ 12 * 2 ^ 52 + die % 4 * 2 ^ 50 + index % 2 ^ 16 * 2 ^ 34 + gen % 2 ^ 34)

/-- The home entry that a handle of this module names. -/
def State.handle (s : State) (h : W64) : HandleEntry := SMap.get HandleEntry.free (s.die (handleDie h)).handles (handleIndex h)

/-- Whether this module is a handle's home. -/
def State.homeOf (s : State) (h : W64) : Bool := h != nullHandle && handleDev h == s.host.devid
/-- Whether a handle's entry is of its generation (16 R299). -/
def State.handleValid (s : State) (h : W64) : Bool :=
  s.homeOf h && (s.handle h).gen == handleGen h && (s.handle h).state != 0
/-- Whether a region may use a handle: not stale (16 R299, R307). -/
def State.handleUsable (s : State) (h : W64) (region : Nat) : Bool :=
  s.handleValid h && !(s.handle h).released && (s.handle h).region == region

end Sys2Proof.Machine
end

