-- ==== Sys2Proof/Machine/Access.lean ====
section
/-!
DEFINITION. Translation, per-master access tables, caches and request counters: how an access reaches memory (spec 10 R177,
R178, R183 to R189, R197; 18 R314 to R323, R382).
-/
namespace Sys2Proof.Machine

/-- Kind of an access for the checks of 18 R317 and R322. -/
inductive AccKind where
  | read | write | atomic | fetch
  deriving DecidableEq, Repr

/-- Who makes an access: region, master kind (18 R321), privilege (K pages), the core whose TLB and L1 it passes, the die it
is issued on (none for the fabric and the host), the source module of kind FABRIC, and the core that commands an engine. -/
structure Who where
  region : Nat
  kind : Nat
  priv : Bool
  core : Option Nat
  die : Option Nat
  src : Nat
  near : Option Nat := none
  deriving DecidableEq, Repr

/-- Why an access fails: the trap cause, FCODE of 18 R317 where one applies, and the address. -/
structure Flt where
  cause : Cause
  fcode : Nat
  addr : Nat
  deriving DecidableEq, Repr

/-- A translated access: memory key of its first byte, page size and the leaf's attributes (18 R316). -/
structure Page where
  va : Nat
  key : Nat
  size : Nat
  vault : Bool
  cache : Nat
  rep : Nat
  atom : Nat
  place : Nat
  deriving DecidableEq, Repr

/-- The levels of a walk: index low bit, index width, leaf size if a leaf is allowed (18 R315). -/
def walkLevels : List (Nat × Nat × Option Nat) :=
  [(48, 9, none), (39, 9, none), (30, 9, some (2 ^ 30)), (21, 9, some (2 ^ 21)), (16, 5, some (2 ^ 16))]

/-- Attribute and frame checks of a leaf of `size` bytes (18 R317 codes 0x02 and 0x03). -/
def leafCode (leaf size : Nat) : Option Nat :=
  let frame := bitsAt leaf 17 33
  let pa := frame * 2 ^ 16
  let vault := bitN leaf 16
  let place := bitsAt leaf 7 3
  if bitN leaf 49 || pa % size != 0 then some 2
  else if (1 ≤ place && place ≤ 3) || bitsAt leaf 14 2 == 3 || bitsAt leaf 12 2 == 3 || leaf / 2 ^ 50 != 0 ||
      (vault && size == 2 ^ 30) ||
      (bitsAt leaf 12 2 == 1 &&
        (if vault then decide (2 ^ 32 < pa + 3 * size) || decide (12 * 2 ^ 20 < pa % 2 ^ 24 + 3 * size)
         else if hostKey pa then decide (2 ^ 48 < pa + 3 * size) else decide (2 ^ 38 < pa + 3 * size))) then some 3
  else none

/-- A walk from the table at `table`: the leaf and its page size, or the FCODE (18 R315, R317). -/
def walk (m : Memory) (va table : Nat) : List (Nat × Nat × Option Nat) → Except Nat (Nat × Nat)
  | [] => .error 2
  | (lo, n, leafSize) :: rest =>
    if 2 ^ 38 ≤ table then .error 2
    else
      let e := Memory.nat m (table + 8 * bitsAt va lo n) 8
      if e % 2 == 0 then .error 1
      else if e / 2 % 8 == 0 then
        if e % 2 ^ 12 != 1 || e / 2 ^ 48 != 0 then .error 2 else walk m va (bitsAt e 12 36 * 2 ^ 12) rest
      else match leafSize with
        | none => .error 2
        | some size => match leafCode e size with
          | some c => .error c
          | none => .ok (e, size)

/-- Permission checks on a leaf, in the order of 18 R317 codes 0x04 to 0x09. -/
def leafDenied (leaf : Nat) (k : AccKind) (priv : Bool) : Option Nat :=
  let rd := k == .read || k == .atomic
  let wr := k == .write || k == .atomic
  if rd && !bitN leaf 1 then some 4
  else if wr && !bitN leaf 2 then some 5
  else if k == .fetch && !bitN leaf 3 then some 6
  else if bitN leaf 4 && !priv then some 7
  else if !bitN leaf 5 then some 8
  else if wr && !bitN leaf 6 then some 9
  else none

def tlbHit (t : List TlbEntry) (region va : Nat) : Option TlbEntry :=
  t.find? (fun e => e.region == region && decide (e.va ≤ va) && decide (va < e.va + e.size))

/-- Put a translation at the head of a TLB of a given capacity (18 R318). -/
def tlbAdd (t : List TlbEntry) (e : TlbEntry) (cap : Nat) : List TlbEntry := (e :: t).take cap

/-- The leaf for an address and where it was found: 0 in the core's first-level TLB, 1 in the die's second-level one, 2 by a walk
(18 R318, R319). -/
def lookupLeaf (s : State) (w : Who) (va : Nat) : Except Nat (TlbEntry × Nat) :=
  let t1 := match w.core with | some c => (s.core c).tlb | none => []
  let t2 := match w.die with | some d => (s.die d).tlb2 | none => []
  match tlbHit t1 w.region va, tlbHit t2 w.region va with
  | some e, _ => .ok (e, 0)
  | none, some e => .ok (e, 1)
  | none, none => match walk s.mem va (s.region w.region).root walkLevels with
    | .error c => .error c
    | .ok (leaf, size) => .ok ({ region := w.region, va := va - va % size, size := size, leaf := BitVec.ofNat 64 leaf }, 2)

/-- A translation that passed every check enters the TLBs above the place where it was found (18 R318). -/
def placeLeaf (s : State) (w : Who) (e : TlbEntry) (found : Nat) : State :=
  let s := match w.core with
    | some c => if found == 0 then s else s.setCore c { s.core c with tlb := tlbAdd (s.core c).tlb e 256 }
    | none => s
  match w.die with
  | some d => if found == 2 then s.setDie d { s.die d with tlb2 := tlbAdd (s.die d).tlb2 e 8192 } else s
  | none => s

/-- Whether physical bytes exist (10 R178): device memory below 2^38, host memory with bit 47, vault offsets below 12 MiB. -/
def physOk (vault : Bool) (pa n : Nat) : Bool :=
  if vault then decide (pa + n ≤ 2 ^ 32) && decide (pa % 2 ^ 24 + n ≤ 12 * 2 ^ 20)
  else decide (pa + n ≤ 2 ^ 38) || (decide (2 ^ 47 ≤ pa) && decide (pa + n ≤ 2 ^ 48))

/-- Memory key of a physical address (10 R178). -/
def physKey (vault : Bool) (pa : Nat) : Nat := if vault then 2 ^ 48 + pa else pa

/-- The physical address of a virtual one under a leaf (18 R316). -/
def TlbEntry.phys (e : TlbEntry) (va : Nat) : Nat := bitsAt e.leaf.toNat 17 33 * 2 ^ 16 + (va - e.va)

/-- Whether a translated address leads to physical bytes that do not exist: ADDR_RANGE, before alignment and permissions (10 R178, R193). -/
def physHole (s : State) (w : Who) (va n : Nat) : Bool :=
  match lookupLeaf s w va with
  | .error _ => false
  | .ok (e, _) => !physOk (bitN e.leaf.toNat 16) (e.phys va) n

/-- Translate an access of `n` bytes that lies in one page (10 R193; 18 R315 to R317); one that is refused or faults enters no TLB
(18 R318). -/
def translate (s : State) (w : Who) (va n : Nat) (k : AccKind) : State × Except Flt Page :=
  match lookupLeaf s w va with
  | .error c => (s, .error { cause := .translationFault, fcode := c, addr := va })
  | .ok (e, found) =>
    let leaf := e.leaf.toNat
    let vault := bitN leaf 16
    if !physOk vault (e.phys va) n then (s, .error { cause := .addrRange, fcode := 0, addr := va })
    else match leafDenied leaf k (w.priv || w.kind == 5) with
      | some c => (s, .error { cause := .translationFault, fcode := c, addr := va })
      | none => (placeLeaf s w e found,
          .ok { va := va, key := physKey vault (e.phys va), size := e.size, vault := vault, cache := bitsAt leaf 14 2,
                rep := bitsAt leaf 12 2, atom := bitsAt leaf 10 2, place := bitsAt leaf 7 3 })

/-- Home die of a device-memory address (10 R184). -/
def homeDie (place pa : Nat) : Nat :=
  if 4 ≤ place then place - 4 else (bitsAt pa 12 2) ^^^ (bitsAt pa 22 2) ^^^ (bitsAt pa 32 2)

/-- Targets of the access tables (18 R321): memory controllers of die d, Keystone d, host interface, vault ports, Jorile ports,
block-transfer engines (notes/assumptions/8.md). -/
def targetMc (d : Nat) : Nat := d
def targetKeystone (d : Nat) : Nat := 4 + d
def targetHost : Nat := 8
def targetVault (die vault : Nat) : Nat := 16 + 64 * die + vault
def targetPort (p : Nat) : Nat := 300 + p
def targetEngine (die e : Nat) : Nat := 400 + 8 * die + e

/-- PERM bits that an access needs (18 R321, R322). -/
def permMask : AccKind → Nat
  | .read => 1 | .write => 2 | .fetch => 4 | .atomic => 11

/-- One entry admits a request on 64 KiB units `lo` to `hi` (18 R321, R322). -/
def entryAdmits (e : Nat) (w : Who) (perm lo hi : Nat) : Bool :=
  bitsAt e 0 16 == w.region && bitsAt e 28 4 == w.kind && bitsAt e 16 12 == (if w.kind == 3 then w.src else 0) &&
  (bitsAt e 32 4 &&& perm == perm) && bitsAt e 32 4 != 0 && decide (bitsAt e 64 32 ≤ lo) && decide (hi ≤ bitsAt e 96 32)

/-- A request passes a target when a single entry covers it; firmware passes every check (18 R322). -/
def admitted (s : State) (w : Who) (target : Nat) (k : AccKind) (lo hi : Nat) : Bool :=
  w.kind == 5 || s.atab.any (fun e => e.1 / 1024 == target && entryAdmits e.2.toNat w (permMask k) lo hi)

/-- Target, die and unit of a memory key. -/
def keyTarget (place key : Nat) : Nat × Option Nat :=
  if 2 ^ 49 ≤ key then (targetKeystone ((key - 2 ^ 49) / 2 ^ 20), some ((key - 2 ^ 49) / 2 ^ 20))
  else if 2 ^ 48 ≤ key then
    (targetVault ((key - 2 ^ 48) / 2 ^ 30) ((key - 2 ^ 48) / 2 ^ 24 % 64), some ((key - 2 ^ 48) / 2 ^ 30))
  else if hostKey key then (targetHost, none)
  else (targetMc (homeDie place key), some (homeDie place key))

/-- Offset of a key within the space its access-table entries count. -/
def keyOffset (key : Nat) : Nat :=
  if 2 ^ 49 ≤ key then (key - 2 ^ 49) % 2 ^ 20 else if 2 ^ 48 ≤ key then key - 2 ^ 48 else key

/-- Check a request at its target, which its arrival wakes: access table, host link, fence (15 R280; 18 R317 codes 0x0A to 0x0C, R322). A
request of another module meets the table of its target like any other, after that of its receiving port (16 R293). -/
def checkTarget (s : State) (w : Who) (place key n va : Nat) (k : AccKind) : State × Option Flt :=
  let (t, die) := keyTarget place key
  let o := keyOffset key
  let s := wakeDie s (die.getD 0)
  if !admitted s w t k (o / 2 ^ 16) ((o + (n - 1)) / 2 ^ 16) then
    (s, some { cause := .accessFault, fcode := 0x0A, addr := va })
  else if hostKey key then
    let s' := { s with choice := s.choice + 1 }
    if Config.hostError s.choice then (s', some { cause := .accessFault, fcode := 0x0B, addr := va }) else (s', none)
  else match die with
    | some d => if (s.die d).fencedFull then (s, some { cause := .accessFault, fcode := 0x0C, addr := va }) else (s, none)
    | none => (s, none)

/-- Advance a die's request counter unless it is frozen (10 R197). -/
def bump (s : State) (d off : Nat) : State :=
  let D := s.die d
  if D.freeze then s
  else s.setDie d { D with counters := SMap.set 0 D.counters off (SMap.get 0 D.counters off + 1) }

/-- Whether a page's data may be held in the L1: device memory that is CACHED (10 R183, R185 to R187). -/
def Page.cached (p : Page) : Bool := p.cache == 0 && decide (p.key < 2 ^ 38)

/-- Count one line-sized request; the lanes of one issue that touch one line are one request. Sync space and host memory have no counter
(10 R197; 20 R371). -/
def countReq (s : State) (w : Who) (p : Page) (key kind : Nat) : State :=
  let issuer := match w.core with | some c => c | none => match w.die with | some d => 256 + d | none => 300
  let place := p.place
  if s.reqs.any (fun q => q.agent == issuer && q.region == w.region && q.line == key / 128) then s
  else
    let s := { s with reqs := s.reqs ++ [{ agent := issuer, region := w.region, line := key / 128, kind := kind, va := p.va,
                                           place := place, cached := p.cached, keystone := kind == 2 && p.atom == 1 }] }
    if 2 ^ 49 ≤ key || hostKey key then s
    else if 2 ^ 48 ≤ key then
      let vd := (key - 2 ^ 48) / 2 ^ 30
      let vault := (key - 2 ^ 48) / 2 ^ 24 % 64
      match w.die with
      | none => bump s vd 0x30
      | some d =>
        if d != vd then bump (bump s d 0x28) vd 0x30
        else if w.core == some (64 * vd + vault) || w.near == some (64 * vd + vault) then bump s d 0x18 else bump s d 0x20
    else
      let h := homeDie place key
      match w.die with
      | none => bump s h 0x10
      | some d => if d == h then bump s d 0x00 else bump (bump s d 0x08) h 0x10

/-- The kind of a counted request: 0 load or fetch, 1 store, 2 atomic (20 R371). -/
def AccKind.req : AccKind → Nat
  | .read | .fetch => 0
  | .write => 1
  | .atomic => 2

/-- L1 lines are 128 bytes; an L1 holds 64 KiB (01 R17, 10 R185). -/
def l1Find (C : CoreSt) (key : Nat) : Option L1Line := C.l1.find? (fun l => l.line == key / 128)
def l1Drop (C : CoreSt) (key : Nat) : CoreSt := { C with l1 := C.l1.filter (fun l => l.line != key / 128) }

/-- Every line of a core's L1 is invalidated: an acquire of scope die or wider (10 R186). -/
def flushL1 (s : State) (c : Nat) : State := s.setCore c { s.core c with l1 := [] }

/-- A line that a core may still read: none stays for more than 4 µs after its fill (10 R186). -/
def l1Fresh (s : State) (c key : Nat) : Option L1Line := (l1Find (s.core c) key).filter (fun l => decide (s.reft.toNat < l.filled + 4000))

/-- Read `n` bytes, all in one 128-byte line, through the issuing core's L1 (10 R185, R186). A read that bypasses the L1 drops
the line from it, so that no later read is older (10 R186). -/
def loadKey (s : State) (w : Who) (p : Page) (key n : Nat) : State × List Byte :=
  match w.core with
  | none => (countReq s w p key 0, Memory.read s.mem key n)
  | some c =>
    if p.cached then
      match l1Fresh s c key with
      | some l => (s, (l.bytes.drop (key % 128)).take n)
      | none =>
        let s := countReq s w p key 0
        let line : L1Line := { line := key / 128, bytes := Memory.read s.mem (key - key % 128) 128, filled := s.reft.toNat }
        (s.setCore c { s.core c with l1 := (line :: (l1Drop (s.core c) key).l1).take 512 }, Memory.read s.mem key n)
    else
      let s := countReq s w p key 0
      (if (l1Find (s.core c) key).isSome then s.setCore c (l1Drop (s.core c) key) else s, Memory.read s.mem key n)

/-- Write bytes of one line: through to its point of coherence, and into the issuing core's own L1 copy (10 R185, R186). -/
def storeKey (s : State) (w : Who) (p : Page) (key : Nat) (bs : List Byte) : State :=
  let s := countReq { s with mem := Memory.write s.mem key bs } w p key 1
  match w.core with
  | none => s
  | some c =>
    match l1Find (s.core c) key with
    | none => s
    | some l =>
      let o := key % 128
      let bytes := l.bytes.take o ++ bs ++ l.bytes.drop (o + bs.length)
      s.setCore c { s.core c with l1 := (s.core c).l1.map (fun e => if e.line == key / 128 then { e with bytes := bytes } else e) }

/-- Replace bytes at their place of atomics; the issuing core's L1 copy is dropped (10 R186, R188). -/
def atomicKey (s : State) (w : Who) (p : Page) (key : Nat) (bs : List Byte) : State :=
  let s := countReq { s with mem := Memory.write s.mem key bs } w p key 2
  match w.core with
  | none => s
  | some c => if (l1Find (s.core c) key).isSome then s.setCore c (l1Drop (s.core c) key) else s

/-- Plane `i` of a TRIPLET page lies `i` page sizes above plane 0 (03 R65). -/
def Page.plane (p : Page) (i : Nat) : Nat := p.key + i * p.size

/-- Translate and check an access at its target, every plane of a TRIPLET page included (03 R65, 18 R322). `planes` says how
many planes the access touches. A request that its target refuses counts like any other (10 R197; 20 R371). -/
def reach (s : State) (w : Who) (va n : Nat) (k : AccKind) (planes : Nat) : State × Except Flt Page :=
  match translate s w va n k with
  | (s, .error f) => (s, .error f)
  | (s, .ok p) =>
    let keys := if p.rep == 1 then (List.range planes).map p.plane else [p.key]
    let (s, bad) := keys.foldl (fun (acc : State × Option Flt) key =>
      match acc.2 with
      | some _ => acc
      | none => match checkTarget acc.1 w p.place key n va k with
        | (s, some f) => (countReq s w p key k.req, some f)
        | (s, none) => (s, none)) (s, none)
    match bad with
    | some f => (s, .error f)
    | none => (s, .ok p)

/-- Window of a virtual address (10 R177). -/
inductive Window where
  | translated | lane | spad | sync (die off : Nat) | outside
  deriving DecidableEq, Repr

def windowOf (va : Nat) : Window :=
  let sel := bitsAt va 52 5
  if 2 ^ 57 ≤ va then .outside
  else if sel ≤ 0x1C then .translated
  else if sel == 0x1D then (if bitsAt va 12 40 == 0 then .lane else .outside)
  else if sel == 0x1E then (if bitsAt va 19 33 == 0 then .spad else .outside)
  else if bitsAt va 22 30 == 0 then .sync (bitsAt va 20 2) (va % 2 ^ 20) else .outside

/-- Memory key of a sync word (10 R189). -/
def syncKey (die off : Nat) : Nat := 2 ^ 49 + 2 ^ 20 * die + off

/-- Pieces of a byte range that stay inside one 64-byte line, first to last. -/
def pieces : Nat → Nat → Nat → List (Nat × Nat)
  | 0, _, _ => []
  | fuel + 1, va, n =>
    if n == 0 then [] else
      let k := min n (64 - va % 64)
      (va, k) :: pieces fuel (va + k) (n - k)

/-- Read a byte range at virtual addresses on behalf of a region (18 R382); stops at the first fault. -/
def readRange (s : State) (w : Who) (va n : Nat) : State × Except Flt (List Byte) :=
  (pieces (n / 64 + 2) va n).foldl (fun (acc : State × Except Flt (List Byte)) pc =>
    match acc.2 with
    | .error f => (acc.1, .error f)
    | .ok bs =>
      if windowOf pc.1 != .translated then (acc.1, .error { cause := .addrRange, fcode := 0, addr := pc.1 })
      else match reach acc.1 w pc.1 pc.2 .read 1 with
        | (s, .error f) => (s, .error f)
        | (s, .ok p) => let (s, b) := loadKey s w p p.key pc.2; (s, .ok (bs ++ b))) (s, .ok [])

/-- Check that a byte range can be written (18 R382). -/
def checkRange (s : State) (w : Who) (va n : Nat) (k : AccKind) : State × Option Flt :=
  (pieces (n / 64 + 2) va n).foldl (fun (acc : State × Option Flt) pc =>
    match acc.2 with
    | some _ => acc
    | none =>
      if windowOf pc.1 != .translated then (acc.1, some { cause := .addrRange, fcode := 0, addr := pc.1 })
      else match reach acc.1 w pc.1 pc.2 k 3 with
        | (s, .error f) => (s, some f)
        | (s, .ok _) => (s, none)) (s, none)

/-- Write a byte range at virtual addresses (18 R382), all planes of a TRIPLET page (03 R65, 12 R240); stops at the first
fault, and bytes already written stay written. -/
def writeRange (s : State) (w : Who) (va : Nat) (bs : List Byte) : State × Option Flt :=
  (pieces (bs.length / 64 + 2) va bs.length).foldl (fun (acc : State × Option Flt) pc =>
    match acc.2 with
    | some _ => acc
    | none =>
      if windowOf pc.1 != .translated then (acc.1, some { cause := .addrRange, fcode := 0, addr := pc.1 })
      else match reach acc.1 w pc.1 pc.2 .write 3 with
        | (s, .error f) => (s, some f)
        | (s, .ok p) =>
          let b := (bs.drop (pc.1 - va)).take pc.2
          let keys := if p.rep == 1 then (List.range 3).map p.plane else [p.key]
          (keys.foldl (fun s key => storeKey s w p key b) s, none)) (s, none)

/-- The master that the device's own accesses for a region carry (18 R382): Keystone of a die. -/
def keystoneOf (region die : Nat) : Who :=
  { region := region, kind := 2, priv := true, core := none, die := some die, src := 0 }

/-- A physical device-memory address placed by interleave, reached without translation (10 R184; 16 R300; 18 R382). -/
def physPage (pa : Nat) : Page := { va := pa, key := pa, size := 2 ^ 16, vault := false, cache := 1, rep := 0, atom := 0, place := 0 }

/-- The 64 bytes of a handle entry in the overflow area (16 R300; notes/assumptions/59.md). -/
def HandleEntry.bytes (e : HandleEntry) : List Byte :=
  leBytes 8 e.gen ++ leBytes 1 e.state ++ leBytes 1 e.cause ++ leBytes 2 e.rdev ++ leBytes 4 e.rlen ++ leBytes 8 e.raddr ++
    leBytes 2 e.region ++ leBytes 2 (boolN e.released) ++ leBytes 2 e.exec ++ leBytes 34 e.via

/-- Set the home entry that a handle names: in the die's Keystone, and from 16,384 on in its overflow area as well, where the Keystone
reaches it (16 R300). -/
def State.setHandle (s : State) (h : W64) (e : HandleEntry) : State :=
  let die := handleDie h
  let s := s.setDie die { s.die die with handles := SMap.put (s.die die).handles (handleIndex h) e }
  if handleIndex h < 16384 then s
  else
    let pa := (s.die die).hovfBase + 64 * (handleIndex h - 16384)
    storeKey s (keystoneOf 0 die) (physPage pa) pa e.bytes

end Sys2Proof.Machine
end

