-- ==== Sys2Proof/Machine/Flags.lean ====
section
/-!
DEFINITION. Numbers and flags: the lane floating-point formats, exact rationals, rounding and the flags of spec 03 R44 to R46,
R50 to R54, and the arithmetic of 04 R87 to R93. Every operation computes exactly and rounds once.
-/
namespace Sys2Proof.Machine

/-- Lane floating-point formats (03 R44). -/
inductive Fmt where
  | f64 | f32 | f16 | bf16
  deriving DecidableEq, Repr

/-- Precision p, width, and least normal exponent (03 R44). -/
def Fmt.prec : Fmt → Nat
  | .f64 => 53 | .f32 => 24 | .f16 => 11 | .bf16 => 8
def Fmt.width : Fmt → Nat
  | .f64 => 64 | .f32 => 32 | _ => 16
def Fmt.ebits : Fmt → Nat
  | .f64 => 11 | .f32 => 8 | .f16 => 5 | .bf16 => 8
def Fmt.bias (f : Fmt) : Int := 2 ^ (f.ebits - 1) - 1
def Fmt.emin (f : Fmt) : Int := 1 - f.bias
def Fmt.emax (f : Fmt) : Int := f.bias
/-- Bits of +infinity, and the canonical NaN (03 R44, R45). -/
def Fmt.infBits (f : Fmt) : Nat := (2 ^ f.ebits - 1) * 2 ^ (f.prec - 1)
def Fmt.nanBits (f : Fmt) : Nat := f.infBits + 2 ^ (f.prec - 2)
def Fmt.signBit (f : Fmt) : Nat := 2 ^ (f.width - 1)

/-- Format of a TYPE; half formats for packed types (03 R44). -/
def tyFmt : Ty → Fmt
  | .f64 => .f64
  | .f16 | .f16x2 => .f16
  | .bf16 | .bf16x2 => .bf16
  | _ => .f32

/-- An exact non-negative rational. -/
structure Q where
  n : Nat
  d : Nat
  deriving DecidableEq, Repr

/-- A floating-point value: NaN (signalling or quiet), infinity, or sign and magnitude. -/
inductive FV where
  | nan (sig : Bool)
  | inf (neg : Bool)
  | fin (neg : Bool) (q : Q)
  deriving DecidableEq, Repr

/-- Multiply a non-negative rational by a power of two. -/
def Q.shift (q : Q) (e : Int) : Q := if 0 ≤ e then ⟨q.n * 2 ^ e.toNat, q.d⟩ else ⟨q.n, q.d * 2 ^ (-e).toNat⟩

/-- ilogb of 00 R8 for a positive rational. -/
def Q.ilogb (q : Q) : Int :=
  let k : Int := (Nat.log2 q.n : Int) - (Nat.log2 q.d : Int)
  let r := q.shift (-k)
  if r.d ≤ r.n then k else k - 1

/-- fval(x, F) (04, helpers before R87). -/
def fval (f : Fmt) (x : Nat) : FV :=
  let m := f.prec - 1
  let frac := bitsAt x 0 m
  let e := bitsAt x m f.ebits
  let neg := bitN x (f.width - 1)
  if e == 2 ^ f.ebits - 1 then (if frac == 0 then .inf neg else .nan (!bitN x (m - 1)))
  else if e == 0 then .fin neg (Q.shift ⟨frac, 1⟩ (f.emin - m))
  else .fin neg (Q.shift ⟨frac + 2 ^ m, 1⟩ ((e : Int) - f.bias - m))

/-- A resolved rounding: to nearest with ties to even or away, toward zero, up, down. -/
inductive RM where
  | rne | rna | rz | up | down
  deriving DecidableEq, Repr

/-- A rounding as the arithmetic needs it: the resolved mode, and whether an exact zero sum of unlike zeros is −0, which only
the mode RDN makes it (04 R87). -/
structure Mode where
  rm : RM
  rdn : Bool
  deriving DecidableEq, Repr

/-- Round n/d to an integer; the flag says the result is inexact (00 R7, 03 R52, R53). -/
def roundNat (rm : RM) (neg : Bool) (n d : Nat) : Nat × Bool :=
  let q := n / d
  let r := n % d
  let inc := match rm with
    | .rne => decide (d < 2 * r) || (2 * r == d && q % 2 == 1)
    | .rna => decide (d ≤ 2 * r)
    | .rz => false
    | .up => !neg && r != 0
    | .down => neg && r != 0
  (if inc then q + 1 else q, r != 0)

/-- Flag bits of ctl.fpstatus (03 R47). -/
def flNV : Nat := 1
def flDZ : Nat := 2
def flOF : Nat := 4
def flUF : Nat := 8
def flNX : Nat := 16
def flDNAN : Nat := 32

def orFlag (a b : Nat) : Nat := a ||| b

/-- Round a positive rational to precision `p` with unbounded exponent: mantissa, exponent of its unit, inexact. -/
def roundPrec (p : Nat) (rm : RM) (neg : Bool) (q : Q) (least : Option Int) : Nat × Int × Bool :=
  let e := q.ilogb
  let u : Int := (match least with | some l => max e l | none => e) - (p - 1 : Nat)
  let r := q.shift (-u)
  let (m, inexact) := roundNat rm neg r.n r.d
  (m, u, inexact)

def signOf (f : Fmt) (neg : Bool) : Nat := if neg then f.signBit else 0

/-- Bits of m × 2^u in a format, for a mantissa of at most p bits or equal to 2^p. -/
def encodeFin (f : Fmt) (neg : Bool) (m : Nat) (u : Int) : Nat :=
  let p := f.prec
  let (m, u) := if m == 2 ^ p then (2 ^ (p - 1), u + 1) else (m, u)
  if m < 2 ^ (p - 1) then signOf f neg + m
  else signOf f neg + (u + (p - 1 : Nat) + f.bias).toNat * 2 ^ (p - 1) + (m - 2 ^ (p - 1))

/-- Largest finite magnitude. -/
def Fmt.maxBits (f : Fmt) : Nat := f.infBits - 1

/-- Result of an overflow under a mode (03 R52). -/
def overflowBits (f : Fmt) (rm : RM) (neg : Bool) : Nat :=
  let toInf := match rm with
    | .rne | .rna => true
    | .rz => false
    | .up => !neg
    | .down => neg
  signOf f neg + (if toInf then f.infBits else f.maxBits)

/-- round_to(v, F, m) of a real with sign `neg` and magnitude `q`: bits and flags OF, UF, NX (03 R46, R52). -/
def roundTo (f : Fmt) (rm : RM) (neg : Bool) (q : Q) : Nat × Nat :=
  if q.n == 0 then (signOf f neg, 0)
  else
    let (m0, u0, _) := roundPrec f.prec rm neg q none
    let ovfl := decide (f.emax < u0 + (f.prec - 1 : Nat)) || (u0 + (f.prec - 1 : Nat) == f.emax && m0 == 2 ^ f.prec)
    if ovfl then (overflowBits f rm neg, orFlag flOF flNX)
    else
      let (m, u, inexact) := roundPrec f.prec rm neg q (some f.emin)
      let tiny := decide (u0 + (f.prec - 1 : Nat) < f.emin) && !(u0 + (f.prec : Nat) == f.emin && m0 == 2 ^ f.prec)
      (encodeFin f neg m u, if inexact then (if tiny then orFlag flUF flNX else flNX) else 0)

/-- Signed exact sums and products of magnitudes with sign. -/
structure SQ where
  neg : Bool
  q : Q
  deriving DecidableEq, Repr

def SQ.add (a b : SQ) : SQ :=
  let d := a.q.d * b.q.d
  let x := a.q.n * b.q.d
  let y := b.q.n * a.q.d
  if a.neg == b.neg then ⟨a.neg, ⟨x + y, d⟩⟩
  else if y ≤ x then ⟨a.neg, ⟨x - y, d⟩⟩ else ⟨b.neg, ⟨y - x, d⟩⟩

def SQ.mul (a b : SQ) : SQ := ⟨a.neg != b.neg, ⟨a.q.n * b.q.n, a.q.d * b.q.d⟩⟩
def Q.div (a b : Q) : Q := ⟨a.n * b.d, a.d * b.n⟩
def Q.zero (q : Q) : Bool := q.n == 0
def SQ.isZero (a : SQ) : Bool := a.q.n == 0
/-- a ≤ b for signed rationals. -/
def SQ.le (a b : SQ) : Bool :=
  let x : Int := if a.neg then -(a.q.n * b.q.d : Nat) else (a.q.n * b.q.d : Nat)
  let y : Int := if b.neg then -(b.q.n * a.q.d : Nat) else (b.q.n * a.q.d : Nat)
  decide (x ≤ y)
def SQ.lt (a b : SQ) : Bool := !SQ.le b a
def SQ.ofInt (x : Int) : SQ := ⟨decide (x < 0), ⟨x.natAbs, 1⟩⟩

/-- Floor of the square root, bit by bit from bit `i` down. -/
def isqrtAux (n : Nat) : Nat → Nat → Nat
  | 0, r => if (r + 1) * (r + 1) ≤ n then r + 1 else r
  | i + 1, r => let c := r + 2 ^ (i + 1); isqrtAux n i (if c * c ≤ n then c else r)
def isqrt (n : Nat) : Nat := isqrtAux n (Nat.log2 n / 2 + 1) 0

/-- A rational that rounds as the square root of q does, to any precision up to `p` bits in every mode: the floor at p + 4
bits with a sticky bit. -/
def sqrtApprox (p : Nat) (q : Q) : Q :=
  let e := q.ilogb
  let k : Int := (p + 4 : Nat) - e / 2
  let r := q.shift (2 * k)
  let s := isqrt (r.n / r.d)
  let exact := s * s * r.d == r.n
  Q.shift ⟨2 * s + (if exact then 0 else 1), 2⟩ (-k)

def FV.isNan : FV → Bool
  | .nan _ => true
  | _ => false
def FV.isSnan : FV → Bool
  | .nan s => s
  | _ => false
def FV.isInf : FV → Bool
  | .inf _ => true
  | _ => false
def FV.neg? : FV → Bool
  | .inf n => n
  | .fin n _ => n
  | .nan _ => false
def FV.negate : FV → FV
  | .nan s => .nan s
  | .inf n => .inf (!n)
  | .fin n q => .fin (!n) q
def FV.sq : FV → SQ
  | .fin n q => ⟨n, q⟩
  | _ => ⟨false, ⟨0, 1⟩⟩

/-- NV for signalling operands (03 R45). -/
def snanFlag (vs : List FV) : Nat := if vs.any FV.isSnan then flNV else 0

/-- The sign of an exact zero sum: that of two zeros of one sign, otherwise + unless the mode is RDN (04 R87). -/
def zeroSumNeg (m : Mode) (a b : SQ) : Bool := if a.isZero && b.isZero && a.neg == b.neg then a.neg else m.rdn

/-- Round an exact sum of two addends. -/
def sumTo (f : Fmt) (m : Mode) (a b : SQ) : Nat × Nat :=
  let s := a.add b
  if s.isZero then (signOf f (zeroSumNeg m a b), 0) else roundTo f m.rm s.neg s.q

/-- a + b (04 R87). -/
def fadd (f : Fmt) (m : Mode) (a b : FV) : Nat × Nat :=
  match a, b with
  | .nan _, _ | _, .nan _ => (f.nanBits, snanFlag [a, b])
  | .inf x, .inf y => if x == y then (signOf f x + f.infBits, 0) else (f.nanBits, flNV)
  | .inf x, _ | _, .inf x => (signOf f x + f.infBits, 0)
  | a, b => sumTo f m a.sq b.sq

/-- a × b (04 R87). -/
def fmul (f : Fmt) (m : Mode) (a b : FV) : Nat × Nat :=
  match a, b with
  | .nan _, _ | _, .nan _ => (f.nanBits, snanFlag [a, b])
  | .inf x, .inf y => (signOf f (x != y) + f.infBits, 0)
  | .inf x, .fin y q | .fin y q, .inf x => if q.zero then (f.nanBits, flNV) else (signOf f (x != y) + f.infBits, 0)
  | .fin x p, .fin y q => roundTo f m.rm (x != y) ⟨p.n * q.n, p.d * q.d⟩

/-- a × b + c with one rounding; (0 × ∞) + c is NaN with NV whatever c is (04 R87). -/
def ffma (f : Fmt) (m : Mode) (a b c : FV) : Nat × Nat :=
  let badProduct := match a, b with
    | .inf _, .fin _ q | .fin _ q, .inf _ => q.zero
    | _, _ => false
  if badProduct then (f.nanBits, flNV)
  else match a, b, c with
    | .nan _, _, _ | _, .nan _, _ | _, _, .nan _ => (f.nanBits, snanFlag [a, b, c])
    | .fin _ _, .fin _ _, .fin _ _ => sumTo f m (a.sq.mul b.sq) c.sq
    | .fin _ _, .fin _ _, .inf z => (signOf f z + f.infBits, 0)
    | a, b, .inf z => if (a.neg? != b.neg?) == z then (signOf f z + f.infBits, 0) else (f.nanBits, flNV)
    | a, b, _ => (signOf f (a.neg? != b.neg?) + f.infBits, 0)

/-- a / b (04 R87). -/
def fdiv (f : Fmt) (m : Mode) (a b : FV) : Nat × Nat :=
  match a, b with
  | .nan _, _ | _, .nan _ => (f.nanBits, snanFlag [a, b])
  | .inf _, .inf _ => (f.nanBits, flNV)
  | .inf x, .fin y _ => (signOf f (x != y) + f.infBits, 0)
  | .fin x _, .inf y => (signOf f (x != y), 0)
  | .fin x p, .fin y q =>
    if q.zero then (if p.zero then (f.nanBits, flNV) else (signOf f (x != y) + f.infBits, flDZ))
    else roundTo f m.rm (x != y) (p.div q)

/-- √a (04 R87). -/
def fsqrt (f : Fmt) (m : Mode) (a : FV) : Nat × Nat :=
  match a with
  | .nan _ => (f.nanBits, snanFlag [a])
  | .inf x => if x then (f.nanBits, flNV) else (f.infBits, 0)
  | .fin x q =>
    if q.zero then (signOf f x, 0) else if x then (f.nanBits, flNV) else roundTo f m.rm false (sqrtApprox f.prec q)

/-- 1/a and 1/√a with their special cases (04 R89). -/
def frcp (f : Fmt) (m : Mode) (a : FV) : Nat × Nat :=
  match a with
  | .nan _ => (f.nanBits, snanFlag [a])
  | .inf x => (signOf f x, 0)
  | .fin x q => if q.zero then (signOf f x + f.infBits, flDZ) else roundTo f m.rm x (Q.div ⟨1, 1⟩ q)
def frsq (f : Fmt) (m : Mode) (a : FV) : Nat × Nat :=
  match a with
  | .nan _ => (f.nanBits, snanFlag [a])
  | .inf x => if x then (f.nanBits, flNV) else (0, 0)
  | .fin x q =>
    if q.zero then (signOf f x + f.infBits, flDZ)
    else if x then (f.nanBits, flNV) else roundTo f m.rm false (sqrtApprox f.prec (Q.div ⟨1, 1⟩ q))

/-- a < b with −0 = +0, on values that are no NaN. -/
def fvLt (a b : FV) : Bool :=
  match a, b with
  | .inf x, .inf y => x && !y
  | .inf x, .fin _ _ => x
  | .fin _ _, .inf y => !y
  | .fin _ _, .fin _ _ => SQ.lt a.sq b.sq
  | _, _ => false
def fvEq (a b : FV) : Bool := !a.isNan && !b.isNan && !fvLt a b && !fvLt b a

/-- FMIN and FMAX (04 R88): −0 below +0, one NaN yields the other operand. Operand bits are given beside the values. -/
def fminmax (f : Fmt) (isMax : Bool) (x y : Nat) : Nat × Nat :=
  let a := fval f x
  let b := fval f y
  let fl := snanFlag [a, b]
  if a.isNan && b.isNan then (f.nanBits, fl)
  else if a.isNan then (y, fl)
  else if b.isNan then (x, fl)
  else
    let aLess := fvLt a b || (fvEq a b && a.neg? && !b.neg?)
    (if aLess != isMax then x else y, fl)

/-- FCMP conditions by MINOR (04 R90): result and NV. -/
def fcmp (cond : Nat) (a b : FV) : Bool × Nat :=
  let nan := a.isNan || b.isNan
  let sn := snanFlag [a, b]
  match cond with
  | 0 => (!nan && fvEq a b, sn)
  | 1 => (nan || !fvEq a b, sn)
  | 2 => (!nan && fvLt a b, if nan then flNV else 0)
  | 3 => (!nan && !fvLt b a, if nan then flNV else 0)
  | 4 => (!nan && fvLt b a, if nan then flNV else 0)
  | 5 => (!nan && !fvLt a b, if nan then flNV else 0)
  | 6 => (nan, sn)
  | _ => (!nan, sn)

/-- FCLASS mask (04 R91). -/
def fclass (f : Fmt) (x : Nat) : Nat :=
  match fval f x with
  | .nan s => if s then 1 else 2
  | .inf n => if n then 4 else 2 ^ 9
  | .fin n q =>
    let sub := bitsAt x (f.prec - 1) f.ebits == 0
    if q.zero then (if n then 2 ^ 5 else 2 ^ 6)
    else if n then (if sub then 2 ^ 4 else 2 ^ 3) else (if sub then 2 ^ 7 else 2 ^ 8)

/-- Convert a value to a format with one rounding (04 R92). -/
def fcvt (f : Fmt) (m : Mode) (a : FV) : Nat × Nat :=
  match a with
  | .nan _ => (f.nanBits, snanFlag [a])
  | .inf x => (signOf f x + f.infBits, 0)
  | .fin x q => roundTo f m.rm x q

/-- Least and greatest value of an integer TYPE (04 R75). -/
def tyMin (t : Ty) : Int := if t.signed then -(2 ^ (t.width - 1) : Int) else 0
def tyMax (t : Ty) : Int := if t.signed then (2 ^ (t.width - 1) : Int) - 1 else (2 ^ t.width : Int) - 1

/-- FCVTI (04 R93). -/
def fcvti (t : Ty) (m : Mode) (a : FV) : Int × Nat :=
  match a with
  | .nan _ => (0, flNV)
  | .inf n => (if n then tyMin t else tyMax t, flNV)
  | .fin n q =>
    let (k, inexact) := roundNat m.rm n q.n q.d
    let v : Int := if n then -(k : Int) else k
    if tyMax t < v then (tyMax t, flNV) else if v < tyMin t then (tyMin t, flNV) else (v, if inexact then flNX else 0)

/-- ICVTF (04 R93). -/
def icvtf (f : Fmt) (m : Mode) (x : Int) : Nat × Nat := roundTo f m.rm (decide (x < 0)) ⟨x.natAbs, 1⟩

/-- rotl32 of 00 R8. -/
def rotl32 (x n : Nat) : Nat := (x * 2 ^ n ||| x / 2 ^ (32 - n)) % 2 ^ 32

/-- The draw function W (03 R50). -/
def drawLoop : Nat → Nat → Nat → Nat × Nat
  | 0, x, y => (x, y)
  | i + 1, x, y =>
    let x := (x + y) % 2 ^ 32
    let y := rotl32 y 5 ^^^ x
    drawLoop i (rotl32 x 16) y
def draw (key a b : Nat) : Nat :=
  let r := drawLoop 4 (key % 2 ^ 32 ^^^ a) (key / 2 ^ 32 % 2 ^ 32 ^^^ b)
  r.1 ^^^ r.2

/-- once_draw(e, g) of 03 R54. -/
def onceDraw (seed tid icount e g : Nat) : Nat :=
  draw seed (tid % 2 ^ 32 ^^^ (e * 2 ^ 12 % 2 ^ 32)) (icount % 2 ^ 32 ^^^ (g * 2 ^ 20 % 2 ^ 32))

/-- The mode that RND selects; under DRAW the given direction bit, or nearest even where there is none (03 R53, R54). -/
def rndMode (r : Rnd) (dir : Option Bool) : Mode :=
  match r with
  | .rne => ⟨.rne, false⟩
  | .rz => ⟨.rz, false⟩
  | .rup => ⟨.up, false⟩
  | .rdn => ⟨.down, true⟩
  | .rna => ⟨.rna, false⟩
  | _ => match dir with
    | some true => ⟨.up, false⟩
    | some false => ⟨.down, false⟩
    | none => ⟨.rne, false⟩

/-- Exact sum of a list of signed rationals. -/
def SQ.sum : List SQ → SQ
  | [] => ⟨false, ⟨0, 1⟩⟩
  | [a] => a
  | a :: r => a.add (SQ.sum r)

/-- Exact mean of values with special values decided (03 R64, 04 R97): a NaN or infinities of both signs give NaN, otherwise an
infinity decides; the last part says the infinities have both signs. -/
def meanOf (vs : List FV) : FV × Bool :=
  let pos := vs.any (fun v => v.isInf && !v.neg?)
  let neg := vs.any (fun v => v.isInf && v.neg?)
  if pos && neg then (.nan false, true)
  else if vs.any FV.isNan then (.nan false, false)
  else if pos then (.inf false, false)
  else if neg then (.inf true, false)
  else
    let s := SQ.sum (vs.map FV.sq)
    let allNeg := vs.all FV.neg?
    (.fin (if s.isZero then allNeg else s.neg) ⟨s.q.n, s.q.d * vs.length⟩, false)

/-- The value a triad stores on a PLAIN page: the mean rounded to nearest even (03 R64). -/
def storeMean (f : Fmt) (xs : List Nat) : Nat :=
  match (meanOf (xs.map (fval f))).1 with
  | .nan _ => f.nanBits
  | .inf n => signOf f n + f.infBits
  | .fin n q => (roundTo f .rne n q).1

def fvMax (a b : FV) : FV := if fvLt a b then b else a
def fvMin (a b : FV) : FV := if fvLt b a then b else a

/-- dig_count (03 R58). -/
def digCount (f : Fmt) (xs : List Nat) : Nat :=
  match xs.map (fval f) with
  | [a, b, c] =>
    if a.isNan || b.isNan || c.isNan then 0
    else if fvEq a b && fvEq b c then f.prec
    else if a.isInf || b.isInf || c.isInf then 0
    else
      let s := SQ.sum [a.sq, b.sq, c.sq]
      let m := (roundTo f .rne s.neg ⟨s.q.n, s.q.d * 3⟩).1
      let hi := fvMax a (fvMax b c)
      let lo := fvMin a (fvMin b c)
      let diff := hi.sq.add lo.negate.sq
      let r := (roundTo f .up false diff.q).1
      match fval f m, fval f r with
      | .fin _ mq, .fin _ sq => if mq.zero then 0 else (clampI (mq.ilogb - sq.ilogb - 1) 0 f.prec).toNat
      | _, .inf _ => 0
      | .inf _, .fin _ sq => (clampI (f.emax + 1 - sq.ilogb - 1) 0 f.prec).toNat
      | _, _ => 0
  | _ => f.prec

end Sys2Proof.Machine
end

