-- ==== Sys2Proof/Machine/Operands.lean ====
section
/-!
DEFINITION. Operands: the register files and what a read sees (spec 02 R26 to R34), the sources of MOD, immediates and literals
(02 R27, R28; 04 R71), reconciliation (03 R55, R56), special registers (04 R84), buffer-record addressing (10 R190 to R192)
and how triads keep values in memory (03 R63 to R68).
-/
namespace Sys2Proof.Machine

/-- Register numbers inside one thread: v0 to v127, then p0 to p6 at 128 (19 R344), then k0 to k63 at 256 for a writer's own
uniform writes (04 R83). -/
def predReg (n : Nat) : Nat := 128 + n % 8
def uniReg (n : Nat) : Nat := 256 + n % 64

/-- Commit one pending write whose remaining distance is at most `d`, or keep it with the distance reduced (02 R32). A commit
drops the earlier writes of the same register, which are never seen again. -/
def commitStep (d : Nat) (r : Regs) (e : PendWrite) : Regs :=
  if e.rem ≤ d then
    let r := { r with pend := r.pend.filter (fun w => w.reg != e.reg) }
    if e.reg < 128 then { r with v := SMap.set 0 r.v e.reg e.val }
    else if e.reg < 135 then { r with p := SMap.set false r.p (e.reg - 128) (e.val != 0) } else r
  else { r with pend := r.pend ++ [{ e with rem := e.rem - d }] }

/-- Advance a thread's declared distance by `d` (02 R31, R32). -/
def Regs.age (d : Nat) (r : Regs) : Regs := r.pend.foldl (commitStep d) { r with pend := [] }

/-- A register in flight takes its value (02 R34). -/
def Regs.settle (r : Regs) (n : Nat) : Regs :=
  match r.infl.lookup n with
  | none => r
  | some x =>
    let r := { r with infl := SMap.del r.infl n }
    if n < 128 then { r with v := SMap.set 0 r.v n x } else { r with p := SMap.set false r.p (n - 128) (x != 0) }

/-- What a read of a lane register returns: the latest visible write (02 R32); a variable-latency write is interlocked, so it
has completed when a reader issues (02 R34). -/
def Regs.lane (r : Regs) (n : Nat) : W32 :=
  match r.infl.lookup n with
  | some x => x
  | none => SMap.get 0 r.v n

/-- A register pair (04 R71). -/
def Regs.pair (r : Regs) (n : Nat) : W64 := r.lane (n + 1) ++ r.lane n

/-- A predicate; p7 reads true (04 R72). -/
def Regs.pred (r : Regs) (n : Nat) : Bool :=
  if n % 8 == 7 then true
  else match r.infl.lookup (predReg n) with
    | some x => x != 0
    | none => SMap.get false r.p (n % 8)

def Regs.ctl (r : Regs) (n : Nat) : W32 := SMap.get 0 r.c n
def Regs.ctl64 (r : Regs) (n : Nat) : W64 := r.ctl (n + 1) ++ r.ctl n
def Regs.setCtl (r : Regs) (n : Nat) (x : W32) : Regs := { r with c := SMap.set 0 r.c n x }

/-- A uniform register as a thread reads it: its own write becomes visible to it at distance 2 (04 R83). -/
def uniRead (B : Block) (r : Regs) (n : Nat) : W32 :=
  match r.pend.find? (fun e => e.reg == uniReg n) with
  | some e => e.val
  | none => SMap.get 0 B.k (n % 64)

/-- What an instruction writes in one thread or sibling. `uni` notes the value that a uniform register held before the
thread's own write, which the thread reads until that write is visible (02 R32; 04 R83). -/
inductive Out where
  | none
  | reg (n : Nat) (x : W32)
  | pair (n : Nat) (x : W64)
  | pred (n : Nat) (b : Bool)
  | uni (n : Nat) (old : W32)
  | regs (ws : List (Nat × W32))
  deriving DecidableEq, Repr

/-- The register writes of a result: register number, value, half of a pair. A write to p7 is discarded (04 R72). -/
def Out.writes : Out → List (Nat × W32 × Nat)
  | .none => []
  | .reg n x => [(n, x, 0)]
  | .pair n x => [(n, x.setWidth 32, 1), (n + 1, (x >>> 32).setWidth 32, 2)]
  | .pred n b => if n % 8 == 7 then [] else [(predReg n, if b then 1 else 0, 0)]
  | .uni n old => [(uniReg n, old, 0)]
  | .regs ws => ws.map (fun w => (w.1, w.2, 0))

/-- A fixed-latency write: visible once its distance has passed (02 R32). -/
def Regs.writeFixed (lat : Nat) (r : Regs) (o : Out) : Regs :=
  o.writes.foldl (fun r w =>
    let r := r.settle w.1
    { r with pend := r.pend ++ [{ reg := w.1, val := w.2.1, rem := lat, half := w.2.2 }] }) r

/-- A variable-latency write, in flight until it completes (02 R34). -/
def Regs.writeVar (r : Regs) (o : Out) : Regs :=
  o.writes.foldl (fun r w =>
    { r with pend := r.pend.filter (fun e => e.reg != w.1), infl := SMap.put r.infl w.1 w.2.1 }) r

/-- The variable-latency writes of one instruction, which complete together (02 R34; 05 R119; 10 R194). -/
def Regs.writeAll (r : Regs) (os : List Out) : Regs :=
  let ns := os.flatMap (fun o => o.writes.map Prod.fst)
  let r := os.foldl Regs.writeVar r
  if ns.length < 2 then r else { r with grp := ns :: r.grp }

/-- The registers in flight that complete with register `n`: those of the result that it belongs to (05 R119). -/
def Regs.groupOf (r : Regs) (n : Nat) : List Nat := (r.grp.find? (fun g => g.contains n)).getD [n]

/-- Complete the result that register `n` belongs to (02 R34; 05 R119). -/
def Regs.complete (r : Regs) (n : Nat) : Regs :=
  (r.groupOf n).foldl Regs.settle { r with grp := r.grp.filter (fun g => !g.contains n) }

/-- A write that is complete at once: results restored or delivered by an engine. -/
def Regs.writeNow (r : Regs) (o : Out) : Regs :=
  o.writes.foldl (fun r w =>
    { r with pend := r.pend.filter (fun e => e.reg != w.1), infl := SMap.put r.infl w.1 w.2.1 }.settle w.1) r

/-- Where an operand comes from (02 R27, R28). -/
inductive Opnd where
  | lane (n : Nat)
  | uni (n : Nat)
  | pred (n : Nat)
  | const (x : Nat)
  deriving DecidableEq, Repr

/-- Position A under MOD[2]; position B under MOD[1:0] or a literal; position C (02 R27, R28). -/
def opA (x : Ext) : Opnd := if x.m2 then .uni x.a else .lane x.a
def opB (x : Ext) : Opnd :=
  if x.form.hasLit then .const x.lit.toNat
  else if x.m0 then .const (wrapN x.simm 64)
  else if x.m1 then .uni x.b else .lane x.b
def opC (x : Ext) : Opnd := .lane x.c

/-- One operand of one thread or sibling as an unsigned number: 64 bits from a pair, else 32; a constant's low bits. -/
def opRead (B : Block) (r : Regs) (wide : Bool) : Opnd → Nat
  | .lane n => if wide then (r.pair n).toNat else (r.lane n).toNat
  | .uni n => if wide then (uniRead B r (n + 1) ++ uniRead B r n).toNat else (uniRead B r n).toNat
  | .pred n => boolN (r.pred n)
  | .const x => if wide then x % 2 ^ 64 else x % 2 ^ 32

/-- Register numbers that an operand reads. -/
def Opnd.regs (wide : Bool) : Opnd → List Nat
  | .lane n => if wide then [n, n + 1] else [n]
  | .uni n => if wide then [uniReg n, uniReg (n + 1)] else [uniReg n]
  | .pred n => if n % 8 == 7 then [] else [predReg n]
  | .const _ => []

/-- One operand of every sibling of a member. -/
def srcs (B : Block) (m : Member) (wide : Bool) (o : Opnd) : List Nat := m.sibs.map (fun r => opRead B r wide o)

/-- ival(x, T) of 04 R75: bits read as an integer of TYPE. -/
def ival (t : Ty) (x : Nat) : Int := if t.signed then sextN x t.width else (x % 2 ^ t.width : Nat)

/-- put_int(x, T) of 04 R75 as a register pattern: wrapped, and for 8 and 16 bits extended to 32 (04 R71). -/
def putInt (t : Ty) (x : Int) : Nat :=
  if 32 ≤ t.width || !t.signed then wrapN x t.width else wrapN (sextN (wrapN x t.width) t.width) 32

/-- A result of TYPE in register D. -/
def outTy (wide : Bool) (d x : Nat) : Out := if wide then .pair d (BitVec.ofNat 64 x) else .reg d (BitVec.ofNat 32 x)

/-- The median of three under an interpretation (03 R55), and whether the three differ bitwise (03 R59). One value is itself. -/
def medianBy (iv : Nat → Int) : List Nat → Nat
  | [a, b, c] =>
    let m := max (min (iv a) (iv b)) (min (max (iv a) (iv b)) (iv c))
    if iv a = m then a else if iv b = m then b else c
  | a :: _ => a
  | [] => 0
def unsignedV (x : Nat) : Int := x
def signedV (w : Nat) (x : Nat) : Int := sextN x w
def allEqual : List Nat → Bool
  | a :: r => r.all (fun b => b == a)
  | [] => true

/-- Majority of a predicate's siblings (03 R55). -/
def majority (bs : List Bool) : Bool := decide (bs.length < 2 * (bs.filter id).length)

/-- The reconciled guard (02 R24, 03 R56). -/
def Member.guard (m : Member) (x : Ext) : Bool := majority (m.sibs.map (fun r => r.pred x.guard)) != x.neg

/-- Sibling 0's registers, which hold the control registers that are equal in all siblings (03 R47). -/
def Member.first (m : Member) : Regs := m.sibs.headD Regs.zero

/-- tid of a member of a block; a stage's blocks hold its own thread count (15 R271). -/
def Block.tid (B : Block) (i : Nat) : Nat := B.blk * B.tb + i

/-- Value of a special register for one sibling (04 R84). -/
def special (s : State) (B : Block) (i : Nat) (m : Member) (sib code : Nat) : W64 :=
  match code with
  | 0 => BitVec.ofNat 64 (B.tid i)
  | 1 => BitVec.ofNat 64 B.blk
  | 2 => BitVec.ofNat 64 (m.lane + sib)
  | 3 => BitVec.ofNat 64 sib
  | 4 => BitVec.ofNat 64 (B.core % 64)
  | 5 => BitVec.ofNat 64 (coreDie B.core)
  | 6 => BitVec.ofNat 64 s.host.devid
  | 7 => m.icount
  | 8 => (s.die (coreDie B.core)).cyc
  | 9 => (s.die (coreDie B.core)).ncyc
  | 10 => s.reft
  | _ => 0

/-- Codes whose value the course log records (20 R363). -/
def specialLogged (code : Nat) : Bool := [2, 4, 5, 6, 8, 9, 10].contains code

/-- Fields of a buffer record (10 R190). -/
def recBase (r : BitVec 256) : Nat := bitsAt r.toNat 0 57
def recFmt (r : BitVec 256) : Nat := bitsAt r.toNat 57 7
def recExt0 (r : BitVec 256) : Nat := bitsAt r.toNat 64 32
def recExt1 (r : BitVec 256) : Nat := bitsAt r.toNat 96 24
def recBounds (r : BitVec 256) : Nat := bitsAt r.toNat 120 2
def recLayout (r : BitVec 256) : Nat := bitsAt r.toNat 122 3
def recStride1 (r : BitVec 256) : Int := sextN (bitsAt r.toNat 128 32) 32
def recStride2 (r : BitVec 256) : Int := sextN (bitsAt r.toNat 160 32) 32
def recSoff (r : BitVec 256) : Nat := bitsAt r.toNat 192 32
def recTscale (r : BitVec 256) : Nat := bitsAt r.toNat 224 32

/-- A defined element format code (10 R191). -/
def fmtDefined (f : Nat) : Bool := decide (f ≤ 8) || (decide (0x10 ≤ f) && decide (f ≤ 0x16))

/-- Whether LDBUF accepts a record (10 R191). -/
def recordOk (r : BitVec 256) : Bool :=
  fmtDefined (recFmt r) && decide (recLayout r ≤ 2) && decide (recBounds r ≤ 1) && bitsAt r.toNat 125 3 == 0

/-- Build a record from its fields (10 R190). -/
def mkRecord (base fmt ext0 ext1 bounds layout : Nat) (stride1 stride2 : Int) (soff tscale : Nat) : BitVec 256 :=
  BitVec.ofNat 256 (base % 2 ^ 57 + fmt % 2 ^ 7 * 2 ^ 57 + ext0 % 2 ^ 32 * 2 ^ 64 + ext1 % 2 ^ 24 * 2 ^ 96 +
    bounds % 4 * 2 ^ 120 + layout % 8 * 2 ^ 122 + wrapN stride1 32 * 2 ^ 128 + wrapN stride2 32 * 2 ^ 160 +
    soff % 2 ^ 32 * 2 ^ 192 + tscale % 2 ^ 32 * 2 ^ 224)

inductive AddrOf where
  | outOfBounds | invalid | addr (a : Int)
  deriving DecidableEq, Repr

/-- address_of (10 R192). -/
def addressOf (r : BitVec 256) (i0 i1 i2 : Int) (w : Nat) : AddrOf :=
  if !(decide (0 ≤ i0) && decide (i0 < recExt0 r) && decide (0 ≤ i1) && decide (i1 < recExt1 r)) then .outOfBounds
  else if recLayout r == 0 then .addr (recBase r + i0 * w + i1 * recStride1 r + i2 * recStride2 r)
  else if recLayout r == 2 && decide (w ≤ 4) && decide (recExt0 r * w ≤ 256) then
    let b := i0.toNat * w
    let c := b / 4
    .addr (recBase r + 256 * i1 + 4 * ((c ^^^ i1.toNat) % 64 : Nat) + (b % 4 : Nat) + i2 * recStride2 r)
  else .invalid

/-- Bytes of an element of TYPE (12 R218: packed types access 4 bytes). -/
def tyBytes (t : Ty) : Nat := t.width / 8

/-- The halves of a value: two for a packed TYPE, else one (03 R44). -/
def halves (t : Ty) (x : Nat) : List Nat := if t.packed then [x % 2 ^ 16, x / 2 ^ 16 % 2 ^ 16] else [x % 2 ^ t.width]
def joinHalves : List Nat → Nat
  | [a, b] => a % 2 ^ 16 + b % 2 ^ 16 * 2 ^ 16
  | a :: _ => a
  | [] => 0

/-- Apply an operation to each half: the list of siblings' halves, transposed. -/
def perHalf (t : Ty) (xs : List Nat) (f : List Nat → Nat) : Nat :=
  if t.packed then joinHalves [f (xs.map (fun x => x % 2 ^ 16)), f (xs.map (fun x => x / 2 ^ 16 % 2 ^ 16))]
  else f (xs.map (fun x => x % 2 ^ t.width))

/-- The one value that a triad stores on a PLAIN or DIGEST page (03 R64): mean or median. A solo thread stores its own. -/
def tyStored (t : Ty) (xs : List Nat) : Nat :=
  match xs with
  | [x] => x % 2 ^ t.width
  | xs => if t.float then perHalf t xs (storeMean (tyFmt t)) else medianBy (ival t) (xs.map (fun x => x % 2 ^ t.width))

/-- Digit byte of a store on a DIGEST page (03 R66). -/
def digitByte (t : Ty) (xs : List Nat) : Nat :=
  if !t.float then 0xFF
  else match xs with
    | [_] => (tyFmt t).prec
    | xs =>
      if t.packed then min (digCount (tyFmt t) (xs.map (fun x => x % 2 ^ 16)))
        (digCount (tyFmt t) (xs.map (fun x => x / 2 ^ 16 % 2 ^ 16)))
      else digCount (tyFmt t) (xs.map (fun x => x % 2 ^ t.width))

/-- One format value of a DIGEST load given to three siblings (03 R67); an exact zero is +0 (notes/assumptions/111.md). -/
def digestLoad (f : Fmt) (m d : Nat) : List Nat :=
  match fval f m with
  | .fin n q =>
    if q.zero then [0, 0, 0]
    else if f.prec ≤ d then [m, m, m]
    else
      let delta : SQ := ⟨false, Q.shift ⟨1, 1⟩ (q.ilogb - d)⟩
      let near (v : SQ) : Nat := if v.isZero then 0 else (roundTo f .rne v.neg v.q).1
      [near (SQ.add ⟨n, q⟩ ⟨true, delta.q⟩), m, near (SQ.add ⟨n, q⟩ delta)]
  | _ => [m, m, m]

/-- What a triad's siblings receive from a DIGEST page (03 R67). -/
def digestSpread (t : Ty) (m d : Nat) : List Nat :=
  if t.packed then
    List.zipWith (fun a b => joinHalves [a, b]) (digestLoad (tyFmt t) (m % 2 ^ 16) d)
      (digestLoad (tyFmt t) (m / 2 ^ 16 % 2 ^ 16) d)
  else digestLoad (tyFmt t) m d

/-- A loaded value as a register pattern (04 R71, 12 R219). -/
def loadExtend (t : Ty) (x : Nat) : Nat := if t.signed && decide (t.width < 32) then wrapN (sextN x t.width) 32 else x

end Sys2Proof.Machine
end

