-- ==== Sys2Proof/Machine/Ops.lean ====
section
/-!
DEFINITION. The shared operations of the machine: issuing an instruction for the members of an issue, retiring it (spec 02 R24,
R31 to R34; 03 R49), numerical-instability causes (03 R59 to R62), the issue tables (15 R263), ending a grid (15 R255, 19 R340),
taking a trap (19 R338 to R347) and returning from one (19 R355, R359).
-/
namespace Sys2Proof.Machine

/-- Bits of each control register that a write reaches; the others are RO or Z (03 R47, 04 R86, 07 R154, 19 R340). -/
def ctlMask (n : Nat) : W32 :=
  match n with
  | 0 => 0x3F | 1 => 0xFF | 2 => 0x3F | 3 => 0xFFFF_FFFF | 6 => 0xFFFF_FFFF | 7 => 0x01FF_FFFF | 8 => 0xFFFF_FFFF
  | 9 => 0xFFFF_FFFF | 10 => 0xFFFF_FFFF | 11 => 1 | 12 => 0xFF | _ => 0

/-- Bits of each control register that exist, RO ones included. -/
def ctlField (n : Nat) : W32 :=
  match n with
  | 4 => 0xFFFF_FFFF | 5 => 0xFFFF_FFFF | 13 => 0xFFFF_FFFF | 14 => 0x01FF_FFFF | n => ctlMask n

def setCtls (c : SMap W32) (ws : List (Nat × W32)) : SMap W32 := ws.foldl (fun c w => SMap.set 0 c w.1 w.2) c

/-- Control registers at thread creation (03 R47, 04 R86, 07 R154, 19 R340). -/
def ctlReset (seed : W64) (handler : Nat) : SMap W32 :=
  let rs : W64 := seed ^^^ 0x9E37_79B9_7F4A_7C15
  let h : W64 := BitVec.ofNat 64 (handler % 2 ^ 57)
  setCtls [] [(4, seed.setWidth 32), (5, (seed >>> 32).setWidth 32), (8, rs.setWidth 32), (9, (rs >>> 32).setWidth 32),
    (13, h.setWidth 32), (14, (h >>> 32).setWidth 32)]

/-- Registers of a new thread (15 R260). -/
def Regs.new (seed : W64) (handler : Nat) : Regs := { Regs.zero with c := ctlReset seed handler }

/-- The region's memory-resident fields: device-written fields are mirrored into the control block (15 R252, 19 R339). -/
def devField (s : State) (r off n value : Nat) : State :=
  { s with mem := Memory.write s.mem ((s.region r).paddr + off) (leBytes n value) }

/-- Set bits of STATUS (15 R252); the host clears SLICE_RAISED in memory. -/
def orStatus (s : State) (r bits : Nat) : State :=
  let v := Memory.nat s.mem ((s.region r).paddr + 28) 4 ||| bits
  devField (s.setRegion r { s.region r with status := v }) r 28 4 v

/-- A code of the trap table (19 R338). -/
def Cause.code : Cause → Nat
  | .fetchSplit => 1 | .illegalInstruction => 2 | .misalignedPc => 3 | .stallUndersized => 4 | .bounds => 5
  | .recordInvalid => 6 | .addrRange => 7 | .syncSpace => 8 | .misalignedAddr => 9 | .translationFault => 0x0A
  | .accessFault => 0x0B | .atomPlace => 0x0C | .syncKind => 0x0D | .walkDescriptor => 0x0E | .walkerType => 0x0F
  | .ownerState => 0x10 | .tagRange => 0x11 | .queueRange => 0x12 | .remoteFault => 0x13 | .numericalInstability => 0x14
  | .matrixStrict => 0x15 | .remoteStore => 0x16 | .regrant => 0x17 | .software => 0x18 | .breakpoint => 0x19
  | .queueError => 0x1A | .step => 0x1B | .save => 0x20

/-- KIND of a frame (19 R338, R344): precise, after, imprecise, asynchronous, save. -/
def Cause.kind : Cause → Nat
  | .numericalInstability | .matrixStrict | .software | .breakpoint | .step => 1
  | .remoteStore => 2 | .queueError => 3 | .save => 4 | _ => 0

/-- Codes written only to the fault fields (19 R338). -/
def codeContextLost : Nat := 0x21
def codeHandlerLimit : Nat := 0x22
def codeFrameSize : Nat := 0x23

/-- Fields of `n` bytes from (offset, length, value) entries; bytes not named are 0 (19 R344). -/
def fieldBytes (n : Nat) (fs : List (Nat × Nat × Nat)) : List Byte :=
  leBytes n (fs.foldl (fun a f => a + f.2.2 % 2 ^ (8 * f.2.1) * 2 ^ (8 * f.1)) 0)
def fieldAt (bs : List Byte) (off n : Nat) : Nat := leNat ((bs.drop off).take n)

/-- The bytes of an instruction word with the fields `x` (02 R22). -/
def instrBytes (major : Nat) (x : Ext) : List Byte := wordBytes (encodeExt major x)

/-- The grant function (06 R125): M, N, K, RUSED, STATUS. `fuel` bounds the loop, which takes at most 24 + 24 steps. -/
def grantLoop (budget : Nat) : Nat → Nat → Nat → Nat × Nat
  | 0, mg, ng => (mg, ng)
  | fuel + 1, mg, ng =>
    if decide (8 ≤ mg) && decide (8 ≤ ng) && decide (budget < mg * ng) then
      if mg ≤ ng then grantLoop budget fuel mg (ng - 8) else grantLoop budget fuel (mg - 8) ng
    else (mg, ng)

def shapeGrant (req : W64) (tb live : Nat) : Nat × Nat × Nat × Nat × Nat :=
  let r := req.toNat
  let m := bitsAt r 0 16
  let n := bitsAt r 16 16
  let k := bitsAt r 32 16
  let budget := bitsAt r 48 8
  if m == 0 || n == 0 || k == 0 || budget == 0 || decide (128 < bitsAt r 56 7 + budget) || bitN r 63 then (0, 0, 0, 0, 3)
  else
    let mr := 8 * ceilDiv m 8
    let nr := 8 * ceilDiv n 8
    let kr := 8 * ceilDiv k 8
    let kg := min kr 1024
    let (mg, ng) := grantLoop (tb * budget) 64 (min mr (8 * (live / 8))) (min nr 192)
    if mg < 8 || ng < 8 then (0, 0, 0, 0, 2)
    else (mg, ng, kg, ceilDiv (mg * ng) tb, if mg == mr && ng == nr && kg == kr then 0 else 1)

/-- The grant word with VALID (06 R124). -/
def grantWord (req : W64) (tb live : Nat) : W64 :=
  let (m, n, k, used, st) := shapeGrant req tb live
  BitVec.ofNat 64 (m + n * 2 ^ 16 + k * 2 ^ 32 + used % 256 * 2 ^ 48 + st * 2 ^ 56 + 2 ^ 63)

def CoreSt.liveRows (C : CoreSt) : Nat := 192 - C.rowsFenced.length

def Block.shape (B : Block) (n : Nat) : ShapeReg := SMap.get ShapeReg.zero B.sh (n % 8)
def ShapeReg.valid (h : ShapeReg) : Bool := bitN h.grant.toNat 63

/-- Re-grant every valid shape register for a core's live rows; changed ones get their SHCHANGED bit (19 R359). -/
def regrant (s : State) (b : Nat) : State :=
  let live := (s.core (s.block b).core).liveRows
  s.setBlock b ((List.range 8).foldl (fun (B : Block) n =>
    let h := B.shape n
    if h.valid then
      let g := grantWord h.req B.tb live
      if g = h.grant then B
      else { B with sh := SMap.put B.sh n { h with grant := g }, shChanged := setBitN B.shChanged n }
    else B) (s.block b))

/-- Which members of a core's quarter hold a lane: an entry with the block and PC and no thread in the member's lanes. -/
def entryTakes (s : State) (b pc : Nat) (m : Member) (e : Entry) : Bool :=
  e.blk == b && e.pc == pc && e.mems.all (fun j => (s.member b j).laneMask &&& m.laneMask == 0)

/-- Insert a member in increasing lane order. -/
def laneInsert (s : State) (b i : Nat) : List Nat → List Nat
  | [] => [i]
  | j :: r => if (s.member b i).lane ≤ (s.member b j).lane then i :: j :: r else j :: laneInsert s b i r

/-- The table after a thread has joined the first entry of its block and PC whose lanes are free (15 R263). -/
def addToEntry (s : State) (b i pc : Nat) (m : Member) : List Entry → Option (List Entry)
  | [] => none
  | e :: r =>
    if entryTakes s b pc m e then some ({ e with mems := laneInsert s b i e.mems } :: r)
    else (addToEntry s b i pc m r).map (e :: ·)

/-- Put a thread into its quarter's issue table: into an entry that takes it, else into a free entry of the 64 when no thread waits for one,
else into the pending list (15 R263). -/
def enterTable (s : State) (b i : Nat) : State :=
  let B := s.block b
  let m := B.member i
  let C := s.core B.core
  let q := m.quarter
  let t := SMap.get [] C.tables q
  match addToEntry s b i m.pc m t with
  | some t' => s.setCore B.core { C with tables := SMap.put C.tables q t' }
  | none =>
    if t.length < 64 && SMap.get [] C.pending q == [] then
      s.setCore B.core { C with tables := SMap.put C.tables q (t ++ [{ blk := b, pc := m.pc, mems := [i], age := 0, idle := 0 }]) }
    else s.setCore B.core { C with pending := SMap.put C.pending q (SMap.get [] C.pending q ++ [(b, i)]) }

/-- Take members of a block out of every entry and pending list of its core; an empty entry is freed (15 R263). -/
def leaveTables (s : State) (b : Nat) (out : Nat → Bool) : State :=
  let c := (s.block b).core
  let C := s.core c
  let clean (t : List Entry) : List Entry :=
    (t.map (fun e => if e.blk == b then { e with mems := e.mems.filter (fun i => !out i) } else e)).filter
      (fun e => e.mems != [])
  s.setCore c { C with
    tables := C.tables.map (fun kv => (kv.1, clean kv.2))
    pending := C.pending.map (fun kv => (kv.1, kv.2.filter (fun p => !(p.1 == b && out p.2)))) }

/-- Whether a thread belongs in an issue table: live, its block running, and no wait at a blocking point (15 R263). -/
def tabled (B : Block) (m : Member) : Bool := m.live && B.state == .running && m.wait.isNone

/-- Threads that leave an issue move to the entries of their next PCs (15 R263). -/
def reseat (s : State) (b : Nat) (mems : List Nat) : State :=
  let s := leaveTables s b (fun i => mems.contains i)
  mems.foldl (fun s i => if tabled (s.block b) (s.member b i) then enterTable s b i else s) s

/-- The slot and lane of the lowest-lane thread of a cause group (19 R346). -/
def lowestOf (B : Block) (mems : List Nat) : Member :=
  match mems with
  | [] => Member.none
  | i :: r => r.foldl (fun a j => if (B.member j).lane < a.lane then B.member j else a) (B.member i)

/-- Whether the region's debug descriptor applies to a block, with one of its ENABLE bits set (20 R360). -/
def State.debugOn (s : State) (B : Block) (bit : Nat) : Bool :=
  B.dbg && (s.region B.region).descr.isSome && bitN (s.debug B.region).enable bit

/-- A device-written counter of the debug descriptor, mirrored into its 128 bytes (20 R360). -/
def debugField (s : State) (r off value : Nat) : State :=
  match (s.region r).descr with
  | some pa => { s with mem := Memory.write s.mem (pa + off) (leBytes 4 value) }
  | none => s

/-- Write record `wr` of a ring; the answer says whether it was written (20 R360, 18 R382). -/
def ringPut (s : State) (r die base log wr : Nat) (bytes : List Byte) : State × Bool :=
  match writeRange s (keystoneOf r die) (base + bytes.length * (wr % 2 ^ log)) bytes with
  | (s, some _) => (s, false)
  | (s, none) => (s, true)

/-- One trace record (20 R368). -/
def tracePut (s : State) (b kind quarter mask icount pc other : Nat) : State :=
  let B := s.block b
  if !s.debugOn B 1 then s
  else
    let D := s.debug B.region
    let rec_ := other % 2 ^ 57 + pc % 2 ^ 57 * 2 ^ 64 + icount % 2 ^ 32 * 2 ^ 140 + kind * 2 ^ 172 + quarter * 2 ^ 174 +
      mask * 2 ^ 176 + B.core % 256 * 2 ^ 224 + B.blk % 2 ^ 24 * 2 ^ 232
    match ringPut s B.region (coreDie B.core) D.trBase D.trLog D.trWr (leBytes 32 rec_) with
    | (s, false) => s
    | (s, true) =>
      let n := (D.trWr + 1) % 2 ^ 32
      debugField (s.setDebug B.region { s.debug B.region with trWr := n }) B.region 36 n

/-- Lane mask and lowest-lane icount of members in their quarter. -/
def lanesOf (B : Block) (mems : List Nat) : Nat := mems.foldl (fun a i => a ||| (B.member i).laneMask) 0
def icountOf (B : Block) (mems : List Nat) : Nat := (lowestOf B mems).icount.toNat

/-- Distinct values in order of first appearance. -/
def distinct : List Nat → List Nat
  | [] => []
  | a :: r => a :: (distinct r).filter (fun b => b != a)

/-- RECONVERGE records of threads that have entered their entries in the given order: those that came from one PC and joined an entry which
held threads from another (20 R368; notes/assumptions/115.md). -/
def traceJoins (s : State) (b : Nat) (placed : List Nat) : State :=
  let B := s.block b
  if placed == [] || !s.debugOn B 1 then s
  else
    (s.core B.core).tables.foldl (fun s kv => (kv.2.filter (fun e => e.blk == b)).foldl (fun s e =>
      let mine := placed.filter (fun i => e.mems.contains i)
      let old := e.mems.filter (fun i => !placed.contains i)
      (distinct (mine.map (fun i => (B.member i).came))).foldl (fun s p =>
        let joining := mine.filter (fun i => (B.member i).came == p)
        let before := old ++ mine.takeWhile (fun i => (B.member i).came != p)
        if before.any (fun i => (B.member i).came != p) then tracePut s b 1 kv.1 (lanesOf B joining) (icountOf B joining) e.pc p
        else s) s) s) s

/-- Enter every live member of a block that waits in no instruction, lowest slot first (15 R263; 20 R368). -/
def seatBlock (s : State) (b : Nat) : State :=
  let out := (s.block b).members.filter (fun kv => tabled (s.block b) kv.2)
  let placed := (List.range 12).flatMap (fun n => (out.filter (fun kv => kv.2.slot == n)).map Prod.fst)
  traceJoins (placed.foldl (fun s i => enterTable s b i) s) b placed

/-- Where a course lies in its slot: each of two courses takes half (20 R361; notes/assumptions/13.md). -/
def courseAddr (D : Debug) (slot number : Nat) : Nat := D.snapBase + D.snapSize * slot + number % 2 * (D.snapSize / 2)

/-- A log entry's 16 bytes (20 R363). -/
def LogEntry.bytes (e : LogEntry) : List Byte :=
  leBytes 16 (e.count % 2 ^ 40 + e.sib % 4 * 2 ^ 40 + e.member % 2 ^ 12 * 2 ^ 42 + e.part % 4 * 2 ^ 54 + e.dest % 256 * 2 ^ 56 +
    e.value.toNat * 2 ^ 64)

/-- The entries that a course's half holds after the snapshot (20 R361, R362; notes/assumptions/13.md). -/
def logRoom (D : Debug) (c : Course) : Nat := (D.snapSize / 2 - c.snap.length) / 16

/-- A course has begun when its snapshot has been taken (20 R362). -/
def Course.begun (c : Course) : Bool := c.snap != []

/-- Write the log of a block's current course, if one has begun, into the course area (20 R361, R363). -/
def writeLog (s : State) (b : Nat) : State :=
  let B := s.block b
  match B.course.filter (fun c => c.current.begun) with
  | none => s
  | some c =>
    let D := s.debug B.region
    (writeRange s (keystoneOf B.region (coreDie B.core)) (courseAddr D c.slot c.current.number + c.current.snap.length)
      ((c.current.log.take (logRoom D c.current)).flatMap LogEntry.bytes)).1

/-- Frames of a region's frame area in use; a frame is freed by its end (19 R346, R348). Frames belong to the region whose
control block gives FRAMEBASE (19 R339). -/
def freeFrame (s : State) (r n : Nat) : State :=
  let o := effOwner s.regions 4 s.regions.length r
  s.setRegion o { s.region o with frames := (s.region o).frames.filter (fun k => k != n) }

/-- Free an area (15 R384). -/
def freeArea (s : State) (o base r : Nat) : State :=
  let R := s.region o
  match R.areas.find? (fun a => a.1 == base && a.2.2 == r) with
  | some a => s.setRegion o { R with areas := R.areas.erase a }
  | none => s

/-- Whether a block is resident: it holds slots, lane store, scratchpad and tags (15 R266). -/
def Block.resident (B : Block) : Bool :=
  match B.state with
  | .running | .frameWait _ | .handled _ _ | .gangWait | .stopping | .heldForStop _ => true
  | _ => false

/-- Resident blocks of a core. -/
def residents (s : State) (c : Nat) : List Block := (s.blocks.filter (fun kv => kv.2.core == c && kv.2.resident)).map Prod.snd

/-- Lanes and slots that a block's members hold (01 R14). -/
def Block.lanesSlots (B : Block) : List (Nat × Nat) :=
  B.members.flatMap (fun kv => (List.range kv.2.nsib).map (fun k => (kv.2.lane + k, kv.2.slot)))

/-- A core in service (15 R257; 18 R332). -/
def coreLive (s : State) (c : Nat) : Bool :=
  let D := s.die (coreDie c)
  decide (c < 256) && !(s.core c).fenced && !D.fencedCompute && !D.fencedFull

/-- When a resident block leaves its core, its region is charged the core time that the block took beyond what was paid in advance, or gets
the rest of it back (15 R270; notes/assumptions/54.md). -/
def chargeCore (s : State) (b : Nat) : State :=
  let B := s.block b
  if B.resident && B.handler.isNone then
    { s with turns := SMap.set 0 s.turns B.region (SMap.get 0 s.turns B.region + B.paid - ((s.reft.toNat : Int) - B.placed)) }
  else s

/-- Remove a block and everything it occupies (15 R255): places, a handler's frame (19 R348), a saved block's area (15 R384). The log of
its last course is kept (20 R361). -/
def discardBlock (s : State) (b : Nat) : State :=
  let s := leaveTables (chargeCore (writeLog s b) b) b (fun _ => true)
  let B := s.block b
  let s := match B.handler with
    | some hd => freeFrame s B.region hd.frameIdx
    | none => s
  let s := match B.state with
    | .saved o area _ => freeArea s o area B.region
    | _ => s
  s.setBlock b { s.block b with members := [], state := .ended, handler := none }

/-- Blocks of a grid that have neither ended nor been lost, handlers included. -/
def gridBlocks (s : State) (g : Nat) : List Nat :=
  (s.blocks.filter (fun kv => kv.2.grid == g && kv.2.state != .ended && kv.2.state != .lost)).map Prod.fst

/-- End a grid with a status unless it has one: its blocks are discarded (15 R255, 19 R340). -/
def endGrid (s : State) (g status : Nat) : State :=
  let s := (gridBlocks s g).foldl discardBlock s
  if (s.grid g).status.isSome then s else s.setGrid g { s.grid g with status := some status }

/-- The region's fault fields (19 R339): code, whether a handler raised it, block index, address. -/
def faultFields (s : State) (r code : Nat) (inHandler : Bool) (blk addr : Nat) : State :=
  let v := code % 256 + boolN inHandler * 256 + blk % 2 ^ 23 * 512
  let s := s.setRegion r { s.region r with faultCode := v, faultAddr := addr }
  devField (devField s r 116 4 v) r 120 8 addr

/-- Record a fault in the region's fault fields and set STATUS.FAULTED (19 R339, R340). -/
def recordFault (s : State) (r code : Nat) (inHandler : Bool) (blk addr : Nat) : State :=
  orStatus (faultFields s r code inHandler blk addr) r 4

/-- A fault ends the grid of a block FAULTED (19 R340). -/
def faultGrid (s : State) (b code : Nat) (inHandler : Bool) (addr : Nat) : State :=
  let B := s.block b
  recordFault (endGrid s B.grid 6) B.region code inHandler B.blk addr

/-- A pending write list as frame entries: register, distance and value; the halves of a pair write are one entry (19 R345). -/
def pendEntries : List PendWrite → List (Nat × Nat × Nat)
  | [] => []
  | [e] => if e.reg < 256 then [(e.reg, e.rem, e.val.toNat)] else []
  | e :: f :: r =>
    if e.half == 1 && f.half == 2 && f.reg == e.reg + 1 && f.rem == e.rem then
      (e.reg, e.rem, e.val.toNat + f.val.toNat * 2 ^ 32) :: pendEntries r
    else if e.reg < 256 then (e.reg, e.rem, e.val.toNat) :: pendEntries (f :: r)
    else pendEntries (f :: r)

/-- Widths of the entries of `pendEntries`: a pair, or one register (notes/assumptions/9.md). -/
def pendWide : List PendWrite → List Bool
  | [] => []
  | [e] => if e.reg < 256 then [false] else []
  | e :: f :: r =>
    if e.half == 1 && f.half == 2 && f.reg == e.reg + 1 && f.rem == e.rem then true :: pendWide r
    else if e.reg < 256 then false :: pendWide (f :: r)
    else pendWide (f :: r)

def Member.walker (m : Member) (w : Nat) : Walker := SMap.get Walker.none m.walkers (w % 8)

/-- A walker's 128 bytes in a thread record (19 R344). -/
def walkerFields (w : Walker) : List (Nat × Nat × Nat) :=
  [(0, 32, w.record.toNat), (32, 4, wrapN w.a0 32), (36, 4, wrapN w.a1 32)] ++
  (w.dims.zipIdx.flatMap (fun dk =>
    [(40 + 2 * dk.2, 2, dk.1.count - 1), (48 + 8 * dk.2, 4, wrapN dk.1.s0 32), (52 + 8 * dk.2, 4, wrapN dk.1.s1 32)])) ++
  [(80, 2, w.dims.zipIdx.foldl (fun a dk => a + dk.1.pred % 8 * 2 ^ (3 * dk.2)) 0), (82, 1, w.ty.code),
   (83, 1, boolN w.bound), (88, 8, w.next)]

/-- PC and icount that a thread record holds: of the next instruction to issue, and the instructions retired so far (19 R344); a thread
in a replay entry goes on after it. -/
def Member.recordPc (m : Member) : Nat :=
  match m.cap with
  | some c => c.nextPc
  | .none => m.pc
def Member.recordIcount (m : Member) : W64 :=
  match m.cap with
  | some c => c.icount
  | .none => m.icount

/-- A thread record of sibling `sib` (19 R344). `abusy` marks registers whose value is undefined, `undef` their free value. -/
def threadRecord (m : Member) (sib : Nat) (inGroup : Bool) (abusy : Nat → Bool) (undef : Nat → Nat) : List Byte :=
  let r := m.sibs.getD sib Regs.zero
  let state := boolN m.live + 2 * boolN inGroup + 4 * boolN m.exited + 8 * boolN m.cap.isSome + 16 * boolN m.hold +
    32 * boolN m.step + 64 * boolN (m.pendCause != [])
  fieldBytes 2048 (
    (List.range 128).map (fun n => (4 * n, 4, if abusy n then undef n else (r.lane n).toNat)) ++
    (List.range 15).map (fun n => (512 + 4 * n, 4, (r.ctl n).toNat)) ++
    [(768, 8, m.recordPc), (776, 8, m.recordIcount.toNat),
     (784, 1, (List.range 7).foldl (fun a n => a + boolN (r.pred n) * 2 ^ n) 0), (785, 1, m.slot), (786, 1, m.lane + sib),
     (787, 1, state), (788, 1, match m.pendCause with | t :: _ => t.cause.code | [] => 0)] ++
    ((pendEntries r.pend).take 12).zipIdx.flatMap (fun ek =>
      [(816 + 16 * ek.2, 1, if ek.1.1 < 135 then ek.1.1 else 0), (817 + 16 * ek.2, 1, ek.1.2.1), (818 + 16 * ek.2, 1, 1),
       (824 + 16 * ek.2, 8, ek.1.2.2)]) ++
    (List.range 8).flatMap (fun w => (walkerFields (m.walker w)).map (fun f => (1024 + 128 * w + f.1, f.2.1, f.2.2))))

/-- Numbers of the unfinished replay-class issues of a block, in issue order (19 R341, R342). -/
def seqInsert (n : Nat) : List Nat → List Nat
  | [] => [n]
  | k :: r => if n == k then k :: r else if n < k then n :: k :: r else k :: seqInsert n r
def replaySeqs (B : Block) : List Nat :=
  B.members.foldl (fun a kv => match kv.2.cap with | some c => seqInsert c.seq a | none => a) []

/-- Members of one unfinished issue, in increasing lane order. -/
def replayMembers (B : Block) (seq : Nat) : List Nat :=
  (B.members.filter (fun kv => match kv.2.cap with | some c => c.seq == seq | none => false)).foldl
    (fun a kv =>
      let rec ins : List Nat → List Nat
        | [] => [kv.1]
        | j :: r => if kv.2.lane ≤ (B.member j).lane then kv.1 :: j :: r else j :: ins r
      ins a) []

/-- Micro-step of a member that waits in an expansion, else 0xFF (19 R344). -/
def Member.micro (m : Member) : Nat :=
  match m.wait with
  | some (.mq step _ _ _) => step
  | _ => 0xFF

/-- A replay entry (19 R344): lane i holds its captured sources and its result or fault reply. -/
def replayEntry (B : Block) (mems : List Nat) (cause : Bool) (seq : Nat) : List Byte :=
  let m0 := B.member (mems.headD 0)
  match m0.cap with
  | none => []
  | some c0 =>
    let lanes := mems.flatMap (fun i =>
      let m := B.member i
      match m.cap with
      | none => []
      | some c => (List.range m.nsib).map (fun sib =>
          (m.lane % 48 + sib, c.srcs.getD sib [], (c.result.map (fun r => r.getD sib 0)), c.faultReply)))
    let lm := lanes.foldl (fun a l => setBitN a l.1) 0
    let dm := lanes.foldl (fun a l => if l.2.2.1.isSome then setBitN a l.1 else a) 0
    let sent := mems.any (fun i => match (B.member i).cap with | some c => c.requests != [] | none => false)
    let waits := mems.any (fun i => (B.member i).wait.isSome)
    fieldBytes 2368 ([(0, 8, m0.pc), (8, 8, m0.icount.toNat), (16, 20, leNat c0.words), (36, 1, m0.micro),
      (37, 1, boolN cause + 2 * boolN waits + 4 * boolN sent), (38, 1, m0.quarter), (40, 8, lm), (48, 8, dm),
      (56, 4, if sent then seq else 0)] ++
      lanes.flatMap (fun l =>
        let o := 64 + 48 * l.1
        l.2.1.zipIdx.map (fun vk => (o + 8 * vk.2, 8, vk.1.toNat)) ++
        match l.2.2.1, l.2.2.2 with
        | some v, _ => [(o + 32, 8, v.toNat)]
        | none, some (addr, code) => [(o + 32, 8, addr), (o + 40, 4, code), (o + 47, 1, 1)]
        | none, none => []))

/-- Registers of a block's threads that a matrix operation in flight owns (07 R148, 19 R344). -/
def abusyRegs (s : State) (b : Nat) : Nat → Bool := fun n =>
  (s.core (s.block b).core).matq.any (fun o =>
    o.blk == b && o.kind == .matx && o.slot == 0xFFFF &&
      decide (bitsAt o.shape.req.toNat 56 7 ≤ n) && decide (n < bitsAt o.shape.req.toNat 56 7 + bitsAt o.shape.grant.toNat 48 8))

/-- The first request's sequence number of an unfinished remote issue. -/
def sentSeq (s : State) (B : Block) (mems : List Nat) : Nat :=
  match (B.member (mems.headD 0)).cap with
  | some c => match s.outs.find? (fun o => c.requests.contains o.id) with | some o => o.wireSeq | none => 0
  | none => 0

/-- NTHREAD of a frame: one record per member, three per triad (19 R344). -/
def Block.nthread (B : Block) : Nat := (if B.triad then 3 else 1) * B.tb

/-- Header FLAGS of a frame: TRIAD, and REGRANTED while a re-grant's changes stand; `flags` holds the other bits, 2 for a frame given to a
handler and 8 for a rebuilt one (19 R344; 20 R365; notes/assumptions/97.md). -/
def frameFlags (B : Block) (flags : Nat) : Nat := boolN B.triad + 4 * boolN (B.shChanged != 0) + flags

/-- The bytes of a frame (19 R344). -/
def frameBytes (s : State) (b : Nat) (t : Trap) (flags : Nat) : List Byte :=
  let B := s.block b
  let nt := B.nthread
  let seqs := (replaySeqs B).take 256
  let busy := abusyRegs s b
  let header := fieldBytes 256 [(0, 1, t.cause.code), (1, 1, t.cause.kind), (2, 1, frameFlags B flags), (3, 1, t.quarter),
    (4, 4, t.fcode), (8, 8, t.pc), (16, 8, t.icount.toNat), (24, 20, leNat t.words), (44, 1, t.micro), (45, 1, t.tag),
    (48, 8, t.addr), (56, 8, t.lanes), (64, 8, t.done), (72, 4, B.blk), (76, 4, B.grid), (80, 2, B.core),
    (82, 2, seqs.length), (84, 4, nt)]
  let section_ := fieldBytes 1792 (
    (List.range 8).flatMap (fun n => [(16 * n, 8, (B.shape n).req.toNat), (16 * n + 8, 8, (B.shape n).grant.toNat)]) ++
    (List.range 64).map (fun n => (128 + 4 * n, 4, (SMap.get 0 B.k n).toNat)) ++
    (List.range 32).map (fun n => (384 + 32 * n, 32, (SMap.get 0 B.buf n).toNat)) ++
    [(1408, 8, (List.range 64).foldl (fun a n => a + boolN (SMap.get false B.tags n) * 2 ^ n) 0),
     (1416, 4, B.sample.toNat), (1420, 1, B.shChanged),
     (1424, 16, (List.range 128).foldl (fun a n => a + boolN (busy n) * 2 ^ n) 0)])
  let undef (i n : Nat) : Nat := (Config.freeValue (s.choice + 128 * i + n)).toNat
  let records := (List.range nt).flatMap (fun k =>
    let i := if B.triad then k / 3 else k
    threadRecord (B.member i) (if B.triad then k % 3 else 0) (t.mems.contains i) busy (undef k))
  let replays := seqs.flatMap (fun q =>
    let ms := replayMembers B q
    replayEntry B ms (ms.any t.mems.contains) (sentSeq s B ms))
  header ++ section_ ++ records ++ replays

/-- The size by which a frame is judged, with 256 replay entries (19 R344). -/
def frameSize (B : Block) : Nat := 2048 + 2048 * B.nthread + 2368 * 256

/-- Whether the region's effective handler fields deliver a cause (19 R340). -/
def delivered (s : State) (r : Nat) (c : Cause) : Bool :=
  let E := s.eff 4 r
  c == .step || (E.handler != 0 && bitN E.hmask.toNat c.code)

/-- Every issued instruction of a block completes: variable-latency results reach their registers (19 R342). -/
def Regs.settleAll (r : Regs) : Regs := r.infl.foldl (fun r e => r.settle e.1) { r with grp := [] }
def settleBlock (B : Block) : Block :=
  { B with members := B.members.map (fun kv => (kv.1, { kv.2 with
      sibs := kv.2.sibs.map Regs.settleAll
      walkers := kv.2.walkers.map (fun w => (w.1, { w.2 with ahead := [] })) })) }

/-- Lengths of a block's SAVE frame and of its images in a save area (19 R357; notes/assumptions/12.md). -/
def saveLen (B : Block) : Nat := 2048 + 2048 * B.nthread + 2368 * ((replaySeqs B).take 256).length
def imageLen (B : Block) : Nat :=
  B.spadSize + B.spadSize / 32 + B.spadSize / 4096 + B.members.foldl (fun n kv => n + kv.2.nsib * B.lsSize) 0

/-- The integrity tag of a save area or of an arrival record (19 R357). -/
def areaTag (s : State) (bytes : List Byte) : List Byte := Config.shake256 (Config.deviceKey s.host.starts ++ bytes) 8

/-- The bytes of an arrival record before its tag: a header of 16 bytes, then the data (notes/assumptions/64.md). -/
def arrivalBytes : Arrival → List Byte
  | .reply i result fault =>
    let (k, data) : Nat × List Byte := match result, fault with
      | some vs, _ => (0, vs.flatMap (fun v => leBytes 8 v.toNat))
      | none, some (a, c) => (1, leBytes 8 a ++ leBytes 8 c)
      | none, none => (2, [])
    fieldBytes 16 [(0, 1, 1), (1, 1, k), (4, 4, i), (8, 4, data.length)] ++ data
  | .spad off bs => fieldBytes 16 [(0, 1, 2), (4, 4, off), (8, 4, bs.length)] ++ bs
  | .tag n st set => fieldBytes 16 [(0, 1, 3), (1, 1, boolN set), (4, 4, n), (8, 4, 16)] ++ leBytes 16 st.toNat

/-- An arrival record from its bytes. -/
def arrivalOf (b : List Byte) : Arrival :=
  let k := fieldAt b 1 1
  let n := fieldAt b 4 4
  match fieldAt b 0 1 with
  | 1 => .reply n (if k == 0 then some ((List.range (fieldAt b 8 4 / 8)).map (fun j => BitVec.ofNat 64 (fieldAt b (16 + 8 * j) 8))) else none)
      (if k == 1 then some (fieldAt b 16 8, fieldAt b 24 8) else none)
  | 2 => .spad n (b.drop 16)
  | _ => .tag n (BitVec.ofNat 128 (fieldAt b 16 16)) (k == 1)

/-- The arrival records of a save area, each checked against its own tag (19 R357, R358). `fuel` bounds their number. -/
def arrivalsOf (s : State) : Nat → List Byte → Option (List Arrival)
  | 0, bs => if bs == [] then some [] else none
  | fuel + 1, bs =>
    if bs == [] then some []
    else
      let n := 16 + fieldAt bs 8 4
      if (bs.drop n).take 8 == areaTag s (bs.take n) && decide (n + 8 ≤ bs.length) then
        (arrivalsOf s fuel (bs.drop (n + 8))).map (arrivalOf (bs.take n) :: ·)
      else none

/-- Append an arrival record with its tag to a saved block's save area (19 R345, R357). -/
def arrivalPut (s : State) (b : Nat) (a : Arrival) : State :=
  let B := s.block b
  match B.state with
  | .saved o area _ =>
    let bytes := arrivalBytes a
    let all := bytes ++ areaTag s bytes
    let (s, _) := writeRange s (keystoneOf o (coreDie B.core)) (area + saveLen B + imageLen B + 8 + B.arrLen) all
    s.setBlock b { s.block b with arrLen := B.arrLen + all.length }
  | _ => s

/-- The images of a block: scratchpad with full/empty and owner bits, then every member's lane store (19 R357;
notes/assumptions/12.md). -/
def imageBytes (B : Block) : List Byte :=
  storeRead B.spad 0 B.spadSize ++
  (List.range (B.spadSize / 32)).map (fun k =>
    BitVec.ofNat 8 ((List.range 8).foldl (fun a i => a + boolN (SMap.get false B.full (8 * k + i)) * 2 ^ i) 0)) ++
  (List.range (B.spadSize / 4096)).map (fun n => if SMap.get Owner.threads B.own n == .threads then 0 else 1) ++
  B.members.flatMap (fun kv => kv.2.sibs.flatMap (fun r => storeRead r.ls 0 B.lsSize))

/-- The cause of a SAVE frame (19 R344). -/
def saveTrap : Trap :=
  { cause := .save, fcode := 0, addr := 0, pc := 0, icount := 0, words := [], micro := 0xFF, tag := 0, quarter := 0,
    lanes := 0, done := 0, mems := [] }

/-- A block's snapshot and the bytes of its save area before the integrity tag (19 R357, 20 R362). -/
def saveBytes (s : State) (b : Nat) : List Byte := frameBytes s b saveTrap 0 ++ imageBytes (s.block b)

/-- End the current course of a block, if one has begun: its log enters the course area (20 R361, R362). -/
def closeCourse (s : State) (b : Nat) : State :=
  let s := writeLog s b
  let B := s.block b
  match B.course with
  | none => s
  | some c =>
    if c.current.begun then s.setBlock b { B with course := some { c with
      before := some c.current, current := Course.new (c.current.number + 1) B.members } }
    else s

/-- Begin the current course of a block: its snapshot is taken and written (20 R362). -/
def startCourse (s : State) (b : Nat) : State :=
  let B := s.block b
  match B.course with
  | none => s
  | some c =>
    let D := s.debug B.region
    let bytes := saveBytes s b
    let (s, _) := writeRange s (keystoneOf B.region (coreDie B.core)) (courseAddr D c.slot c.current.number) (bytes.take (D.snapSize / 2))
    s.setBlock b { s.block b with course := some { c with current := { Course.new c.current.number B.members with snap := bytes } } }

/-- Stop a block: no further entry is taken and issued instructions complete (19 R342). -/
def stopBlock (s : State) (b : Nat) : State :=
  let s := leaveTables s b (fun _ => true)
  closeCourse (s.setBlock b (settleBlock (s.block b))) b

/-- The lowest frame of a region's area not in use (19 R339, R346). -/
def pickFrame (s : State) (r : Nat) : Option Nat :=
  let E := s.eff 4 r
  (List.range E.nframe).find? (fun n => !E.frames.contains n)

/-- The record that B31 of a handler holds (19 R346). -/
def handlerRecord (frame size : Nat) : BitVec 256 := mkRecord frame 0 size 1 0 0 0 0 0 0

/-- A handler block for a frame (19 R346, R347), which runs from `handler`. `handled` is the stopped block. -/
def handlerBlock (s : State) (handler region grid blk core lane slot : Nat) (handled : Option Nat) (frame idx size head : Nat)
    (cause : Cause) (addr : Nat) (seed : W64) : Block :=
  let r0 := Regs.new seed handler
  let r := ((r0.writeNow (.reg 0 (BitVec.ofNat 32 frame))).writeNow (.reg 1 (BitVec.ofNat 32 (frame / 2 ^ 32)))).writeNow
    (.reg 2 (BitVec.ofNat 32 head))
  let m : Member := { Member.none with live := true, pc := handler, lane := lane, slot := slot, sibs := [r] }
  { Block.none with
    grid := grid, blk := blk, region := region, core := core, tb := 1, members := [(0, m)], state := .running,
    buf := [(31, handlerRecord frame size)],
    handler := some { block := handled, frame := frame, frameIdx := idx, cause := cause, addr := addr, started := s.reft.toNat } }

/-- Start a handler block in the machine. Its block's stop synchronizes-with its first event at device scope (19 R349). -/
def startHandler (s : State) (H : Block) : State :=
  let h := s.nextBlock
  enterTable (flushL1 ({ s with nextBlock := h + 1 }.setBlock h H) H.core) h 0

/-- Write the frame of a stopped block into a free frame and start the handler, or leave the block waiting for a frame
(19 R346). Frames are reached under the block's region (18 R382). -/
def deliverFrame (s : State) (b : Nat) (t : Trap) : State :=
  let B := s.block b
  let o := effOwner s.regions 4 s.regions.length B.region
  let E := s.region o
  match pickFrame s B.region with
  | none => s.setBlock b { B with state := .frameWait t }
  | some n =>
    let addr := E.frameBase + E.frameSize * n
    let bytes := frameBytes s b t 2
    let s := { s with choice := s.choice + 128 * B.nthread }
    let w := keystoneOf B.region (coreDie B.core)
    match checkRange s w addr bytes.length .write with
    | (s, some _) => faultGrid s b t.cause.code false addr
    | (s, none) =>
      let (s, _) := writeRange s w addr bytes
      let s := s.setRegion o { s.region o with frames := n :: (s.region o).frames }
      let low := lowestOf B t.mems
      let H := handlerBlock s E.handler B.region B.grid B.blk B.core low.lane low.slot (some b) addr n E.frameSize (fieldAt bytes 0 4)
        t.cause t.addr (s.grid B.grid).seed
      let h := s.nextBlock
      let clear := if t.cause == .regrant then { s.block b with shChanged := 0 } else s.block b
      startHandler (s.setBlock b { clear with state := .handled n h }) H

/-- The ASYNC frame of a QUEUE_ERROR whose handler runs on `core` (21 R373). -/
def asyncBytes (e : QueueErr) (core : Nat) : List Byte :=
  fieldBytes 256 ([(0, 1, Cause.code .queueError), (1, 1, 3), (4, 4, e.record), (44, 1, 0xFF), (48, 8, e.paddr), (80, 2, core)] ++
    match e.bad with
    | some (a, c) => [(24, 8, a), (32, 4, c)]
    | none => [])

/-- A place for an asynchronous handler: a core in service of the die and a lane and slot of it that no resident block holds, as a free
number chooses (01 R14, R17; 19 R347; notes/assumptions/35.md). -/
def asyncPlace (s : State) (die v : Nat) : Option (Nat × Nat × Nat) :=
  let cores : List Nat := ((List.range 64).map (fun k => 64 * die + k)).filter (coreLive s)
  match cores[v % 2 ^ 8 % max 1 cores.length]? with
  | none => none
  | some c =>
    let taken := (residents s c).flatMap Block.lanesSlots
    let free : List (Nat × Nat) :=
      ((List.range 192).flatMap (fun l => (List.range 12).map (fun n => (l, n)))).filter (fun a => !taken.contains a)
    (free[v / 2 ^ 8 % 2 ^ 16 % max 1 free.length]?).map (fun a => (c, a.1, a.2))

/-- Deliver a QUEUE_ERROR into a free frame and start its handler on a core of the engine's die; or leave it waiting for a frame or a
place (19 R347; 21 R373). -/
def deliverAsync (s : State) (e : QueueErr) : State :=
  if !delivered s e.region .queueError then s
  else
    let o := effOwner s.regions 4 s.regions.length e.region
    let E := s.region o
    match pickFrame s e.region with
    | none => { s with asyncs := s.asyncs ++ [e] }
    | some n =>
      let (v, s) := s.free
      let (seed, s) := s.free
      match asyncPlace s e.die v.toNat with
      | none => { s with asyncs := s.asyncs ++ [e] }
      | some (core, lane, slot) =>
        let addr := E.frameBase + E.frameSize * n
        let bytes := asyncBytes e core
        match writeRange s (keystoneOf e.region e.die) addr bytes with
        | (s, some _) => faultFields s e.region (Cause.code .queueError) false 0 addr
        | (s, none) =>
          let s := wakeCore (s.setRegion o { s.region o with frames := n :: (s.region o).frames }) core
          startHandler s (handlerBlock s E.handler e.region 0 0 core lane slot none addr n 256 (fieldAt bytes 0 4) .queueError e.paddr seed)

/-- Blocks and asynchronous causes of a region's frame area that wait for a frame, after one was freed: the first takes it
(19 R346, R347). -/
def frameFreed (s : State) (r : Nat) : State :=
  let o := effOwner s.regions 4 s.regions.length r
  match s.blocks.find? (fun kv => match kv.2.state with
    | .frameWait _ => effOwner s.regions 4 s.regions.length kv.2.region == o
    | _ => false) with
  | some (b, B) => match B.state with
    | .frameWait t => deliverFrame s b t
    | _ => s
  | none => match s.asyncs.find? (fun e => effOwner s.regions 4 s.regions.length e.region == o) with
    | some e => deliverAsync { s with asyncs := s.asyncs.erase e } e
    | none => s

/-- A fault raised in a handler: the handled block's grid ends FAULTED with FAULTCODE bit 8, an asynchronous handler ends, and
the frame is freed (19 R348). -/
def handlerFault (s : State) (h : Nat) (hd : Handler) (code addr : Nat) : State :=
  let H := s.block h
  let s := match hd.block with
    | some b => faultGrid s b code true addr
    | none => discardBlock s h
  frameFreed (freeFrame s H.region hd.frameIdx) H.region

/-- A handler that ends without RETT (19 R348): EXIT of a block handler ends the block's grid FAULTED under the frame's cause; an
asynchronous handler ends. -/
def handlerExit (s : State) (h : Nat) (hd : Handler) : State :=
  let H := s.block h
  let s := match hd.block with
    | some b => faultGrid s b hd.cause.code false hd.addr
    | none => discardBlock s h
  frameFreed (freeFrame s H.region hd.frameIdx) H.region

/-- A block ends when all its threads have exited (04 R100, 15 R255). -/
def endBlock (s : State) (b : Nat) : State :=
  let B := s.block b
  if B.state == .running && B.members.all (fun kv => !kv.2.live) then
    match B.handler with
    | some hd => handlerExit s b hd
    | none =>
      let s := discardBlock s b
      s.setGrid B.grid { s.grid B.grid with exited := (s.grid B.grid).exited + 1 }
  else s

/-- A thread's STEP bit clears when its STEP trap is taken (19 R353). -/
def clearStep (s : State) (b : Nat) (mems : List Nat) : State :=
  mems.foldl (fun s i => s.setMember b i { s.member b i with step := false }) s

/-- TAKE A TRAP (19 R338 to R346). The block stops; a delivered cause writes the frame and starts the handler on the block's
core; an undelivered one ends the grid FAULTED, but REGRANT clears the changed bits and BREAKPOINT does nothing. A fault that a handler
raises is one in a handler (19 R348; notes/assumptions/22.md). -/
def takeTrap (s : State) (b : Nat) (t : Trap) : State :=
  let B := s.block b
  if delivered s B.region t.cause then
    match B.handler with
    | some hd => handlerFault s b hd t.cause.code t.addr
    | none =>
      let s := stopBlock (if t.cause == .step then clearStep s b t.mems else s) b
      if (s.eff 4 B.region).frameSize < frameSize B then faultGrid s b codeFrameSize false t.addr
      else deliverFrame s b t
  else match t.cause, B.handler with
    | .regrant, _ => s.setBlock b { B with shChanged := 0 }
    | .breakpoint, _ | .queueError, _ | .step, _ => s
    | c, some hd => handlerFault s b hd c.code t.addr
    | c, none => faultGrid s b c.code false t.addr

/-- Pending writes of a thread record: invalid register numbers are dropped (19 R355); a pair takes the width of the write it
was saved from (notes/assumptions/9.md). -/
def restorePend (rec_ : List Byte) (old : List PendWrite) : List PendWrite :=
  let wide := pendWide old
  (List.range 12).flatMap (fun k =>
    let o := 816 + 16 * k
    let reg := fieldAt rec_ o 1
    let rem := fieldAt rec_ (o + 1) 1
    let x := fieldAt rec_ (o + 8) 8
    if fieldAt rec_ (o + 2) 1 % 2 == 0 || decide (135 ≤ reg) then []
    else if wide.getD k false && decide (reg < 127) then
      [{ reg := reg, val := BitVec.ofNat 32 x, rem := rem, half := 1 },
       { reg := reg + 1, val := BitVec.ofNat 32 (x / 2 ^ 32), rem := rem, half := 2 }]
    else [{ reg := reg, val := BitVec.ofNat 32 x, rem := rem, half := 0 }]) ++
  old.filter (fun e => decide (256 ≤ e.reg))

/-- A walker from a thread record; a record that breaks R191 leaves it unbound (19 R355). -/
def restoreWalker (bs : List Byte) : Walker :=
  let record := BitVec.ofNat 256 (fieldAt bs 0 32)
  let pred := fieldAt bs 80 2
  { bound := fieldAt bs 83 1 % 2 == 1 && recordOk record
    record := record
    ty := Ty.ofCode (fieldAt bs 82 1 % 16)
    a0 := sextN (fieldAt bs 32 4) 32
    a1 := sextN (fieldAt bs 36 4) 32
    dims := (List.range 4).map (fun d =>
      { count := fieldAt bs (40 + 2 * d) 2 + 1, s0 := sextN (fieldAt bs (48 + 8 * d) 4) 32,
        s1 := sextN (fieldAt bs (52 + 8 * d) 4) 32, pred := bitsAt pred (3 * d) 3 })
    next := fieldAt bs 88 8
    ahead := [] }

/-- Registers of one thread from its record, those marked busy kept (19 R355). -/
def restoreRegs (rec_ : List Byte) (busy : Nat → Bool) (old : Regs) : Regs :=
  { old with
    v := (List.range 128).foldl (fun v n => if busy n then v else SMap.set 0 v n (BitVec.ofNat 32 (fieldAt rec_ (4 * n) 4)))
      old.v
    p := (List.range 7).foldl (fun p n => SMap.set false p n (bitN (fieldAt rec_ 784 1) n)) []
    c := (List.range 15).foldl (fun c n =>
      SMap.set 0 c n (BitVec.ofNat 32 (fieldAt rec_ (512 + 4 * n) 4) &&& ctlField n)) []
    pend := restorePend rec_ old.pend
    infl := []
    grp := [] }

/-- One lane of a replay entry as an edit of its member's captured state (19 R345, R355): an entry without SENT issues its requests again.
`nextPc` and `icount` are those of the thread record. -/
def restoreCap (m : Member) (c : Captured) (e : List Byte) (nextPc : Nat) (icount : W64) : Captured :=
  let lane (sib : Nat) : Nat := 64 + 48 * (m.lane % 48 + sib)
  let done := bitN (fieldAt e 48 8) (m.lane % 48)
  let flt := fieldAt e (lane 0 + 47) 1 == 1
  { c with
    nextPc := nextPc
    icount := icount
    requests := if bitN (fieldAt e 37 1) 2 then c.requests else []
    words := ((e.drop 16).take 20).take c.words.length
    srcs := (List.range m.nsib).map (fun sib =>
      (List.range 4).map (fun k => BitVec.ofNat 64 (fieldAt e (lane sib + 8 * k) 8)))
    result := if done then some ((List.range m.nsib).map (fun sib => BitVec.ofNat 64 (fieldAt e (lane sib + 32) 8))) else none
    faultReply := if !done && flt then some (fieldAt e (lane 0 + 32) 8, fieldAt e (lane 0 + 40) 4) else none }

/-- A member from its thread records and, when it is in a replay entry, from that entry, which issues again with its icount at issue
(19 R355). The fields that identify the live thread are not taken from the frame; causes raised since the frame was written are held
(notes/assumptions/119.md); no stall spacing is left, for which a frame has no field
(notes/assumptions/98.md). -/
def restoreMember (B : Block) (frame : List Byte) (seqs : List Nat) (busy : Nat → Bool) (i : Nat) (m : Member) : Member :=
  let rec_ (sib : Nat) : List Byte := (frame.drop (2048 + 2048 * (if B.triad then 3 * i + sib else i))).take 2048
  let pc := medianBy unsignedV ((List.range m.nsib).map (fun sib => fieldAt (rec_ sib) 768 8)) % 2 ^ 57
  let st := fieldAt (rec_ 0) 787 1
  let icount := BitVec.ofNat 64 (fieldAt (rec_ 0) 776 8)
  let entry (c : Captured) : Option (List Byte) :=
    (seqs.idxOf? c.seq).map (fun k => (frame.drop (2048 + 2048 * B.nthread + 2368 * k)).take 2368)
  let cap := m.cap.map (fun c => match entry c with
    | none => { c with nextPc := pc, icount := icount }
    | some e => restoreCap m c e pc icount)
  { m with
    pc := if m.cap.isSome then m.pc else pc
    icount := match m.cap with
      | none => icount
      | some c => match entry c with
        | some e => BitVec.ofNat 64 (fieldAt e 8 8)
        | none => m.icount
    sibs := m.sibs.zipIdx.map (fun rk => restoreRegs (rec_ rk.2) busy rk.1)
    walkers := (List.range 8).map (fun w => (w, restoreWalker (((rec_ 0).drop (1024 + 128 * w)).take 128)))
    cap := cap
    hold := bitN st 4
    step := bitN st 5
    pendCause := (if bitN st 6 then m.pendCause else []) ++ m.late
    late := []
    space := 0 }

/-- The issue of one replay entry (19 R355). -/
def replayTask (B : Block) (b seq : Nat) : List Task :=
  match replayMembers B seq with
  | [] => []
  | i :: r => [.issue { blk := b, mems := i :: r, words := (B.member i).cap.map Captured.words }]

/-- Reload a stopped block from a frame (19 R355, R359): thread records, replay entries, block registers, re-granted shapes. -/
def reload (s : State) (b : Nat) (frame : List Byte) : State :=
  let B := s.block b
  let seqs := (replaySeqs B).take 256
  let busy := fun n => bitN (fieldAt frame 1680 16) n
  let B := { B with
    members := B.members.map (fun kv => (kv.1, if kv.2.live then restoreMember B frame seqs busy kv.1 kv.2 else kv.2))
    k := (List.range 64).foldl (fun k n => SMap.set 0 k n (BitVec.ofNat 32 (fieldAt frame (384 + 4 * n) 4))) []
    buf := (List.range 32).foldl (fun k n => SMap.set 0 k n (BitVec.ofNat 256 (fieldAt frame (640 + 32 * n) 32))) []
    sh := (List.range 8).foldl (fun k n => SMap.set ShapeReg.zero k n
      { req := BitVec.ofNat 64 (fieldAt frame (256 + 16 * n) 8), grant := BitVec.ofNat 64 (fieldAt frame (264 + 16 * n) 8) }) []
    sample := BitVec.ofNat 32 (fieldAt frame 1672 4)
    state := .running }
  regrant (s.setBlock b B) b

/-- Let a reloaded block run (19 R355): its replay entries in order, then the threads. A waiting member keeps its wait, which its
entry takes up again. -/
def resumeBlock (s : State) (b : Nat) : State :=
  let B := s.block b
  let tasks := (replaySeqs B).flatMap (replayTask B b)
  let s := startCourse (s.setBlock b { B with state := .running }) b
  seatBlock { s with agenda := s.agenda ++ tasks } b

/-- Rebuild a stopped block from a frame and let it run (19 R355). -/
def rebuild (s : State) (b : Nat) (frame : List Byte) : State := resumeBlock (reload s b frame) b

/-- Whether a frame's live thread records name a misaligned PC (19 R355). -/
def framePcOk (B : Block) (frame : List Byte) : Bool :=
  B.members.all (fun kv => !kv.2.live ||
    medianBy unsignedV ((List.range kv.2.nsib).map (fun sib =>
      fieldAt frame (2048 + 2048 * (if B.triad then 3 * kv.1 + sib else kv.1) + 768) 8)) % 4 == 0)

/-- RETURN FROM A TRAP (19 R355): the handler ends, its block is rebuilt from the frame, and the frame is freed. A frame that
cannot be read, or a misaligned PC in it, is a fault of the handler. -/
def returnTrap (s : State) (h : Nat) (hd : Handler) : State :=
  let H := s.block h
  match hd.block with
  | none => frameFreed (freeFrame (discardBlock s h) H.region hd.frameIdx) H.region
  | some b =>
    let B := s.block b
    match readRange s (keystoneOf B.region (coreDie B.core)) hd.frame
        (2048 + 2048 * B.nthread + 2368 * ((replaySeqs B).take 256).length) with
    | (s, .error f) => handlerFault s h hd f.cause.code f.addr
    | (s, .ok frame) =>
      if framePcOk B frame then
        frameFreed (freeFrame (rebuild (discardBlock s h) b frame) H.region hd.frameIdx) H.region
      else handlerFault s h hd Cause.misalignedPc.code
        ((B.members.findSome? (fun kv =>
          let pc := medianBy unsignedV ((List.range kv.2.nsib).map (fun sib =>
            fieldAt frame (2048 + 2048 * (if B.triad then 3 * kv.1 + sib else kv.1) + 768) 8))
          if kv.2.live && pc % 4 != 0 then some pc else none)).getD 0)

end Sys2Proof.Machine
end

