-- ==== Sys2Proof/Machine/Debug.lean ====
section
/-!
DEFINITION. The debug facilities that observe execution: ring records, traces of divergence and reconvergence, plumb words,
sampled requests, and the end of a course at an instruction boundary (spec 20 R360 to R363, R368 to R371).
-/
namespace Sys2Proof.Machine

/-- DIVERGE and RECONVERGE records of one issue: the states before and after it (20 R368). -/
def traceMoves (s0 s : State) (b : Nat) (mems : List Nat) : State :=
  let B0 := s0.block b
  if !s0.debugOn B0 1 then s
  else
    let B := s.block b
    let pc0 := (B0.member (mems.headD 0)).pc
    let q := (B0.member (mems.headD 0)).quarter
    let moved := mems.filter (fun i => (B.member i).live && (B.member i).icount != (B0.member i).icount)
    let nexts := distinct (moved.map (fun i => (B.member i).pc))
    let going (pc : Nat) : List Nat := moved.filter (fun i => (B.member i).pc == pc)
    let s := if nexts.length ≤ 1 then s
      else nexts.foldl (fun s pc => tracePut s b 0 q (lanesOf B0 (going pc)) (icountOf B0 (going pc)) pc0 pc) s
    traceJoins s b moved

/-- CRC-32C, reflected (20 R369). -/
def crcBit (c : Nat) : Nat := if c % 2 == 1 then (c / 2) ^^^ 0x82F6_3B78 else c / 2
def crcByte (c : Nat) (b : Byte) : Nat := (List.range 8).foldl (fun c _ => crcBit c) (c ^^^ b.toNat)
def crc32c (bs : List Byte) : Nat := bs.foldl crcByte 0xFFFF_FFFF ^^^ 0xFFFF_FFFF

/-- The plumb word of one sibling (20 R369); a register that an operation in flight owns contributes 0. -/
def plumbWord (busy : List Nat) (icount : W64) (r : Regs) : Nat :=
  crc32c ((List.range 128).flatMap (fun n => leBytes 4 (if busy.contains n then 0 else (r.lane n).toNat)) ++
    leBytes 1 ((List.range 7).foldl (fun a n => a + boolN (r.pred n) * 2 ^ n) 0) ++ leBytes 8 icount.toNat)

/-- The plumb records of a member's BAR.ARRIVE that returned `phase` (20 R369, R370). -/
def plumbArrive (s : State) (b i phase : Nat) : State :=
  let B := s.block b
  if !s.debugOn B 2 then s
  else
    let m := B.member i
    let busy := (List.range 128).filter (abusyRegs s b)
    m.sibs.zipIdx.foldl (fun s rk =>
      let w := plumbWord busy m.icount rk.1
      let D := s.debug B.region
      let s := match (s.block b).course with
        | none => s
        | some c => s.setBlock b { s.block b with course := some { c with current := { c.current with
            log := c.current.log ++ [{ value := BitVec.ofNat 64 w, dest := 135, part := 0, member := i, sib := rk.2,
                                       count := SMap.get 0 c.current.retired i + 1, late := false }]
            plumbs := c.current.plumbs ++ [{ mem := i, sib := rk.2, count := SMap.get 0 c.current.retired i + 1, icount := m.icount
                                             busy := busy }] } } }
      let rec_ := m.icount.toNat % 2 ^ 40 + B.blk % 2 ^ 24 * 2 ^ 40 + rk.2 % 4 * 2 ^ 66 + i % 2 ^ 12 * 2 ^ 68 +
        phase % 2 ^ 16 * 2 ^ 80 + w * 2 ^ 96
      match ringPut s B.region (coreDie B.core) D.plBase D.plLog D.plWr (leBytes 16 rec_) with
      | (s, false) => s
      | (s, true) =>
        let n := (D.plWr + 1) % 2 ^ 32
        debugField (s.setDebug B.region { s.debug B.region with plWr := n }) B.region 52 n) s

/-- A duration of a sampled request: free, in ns (20 R371; notes/assumptions/2.md). -/
def freeNs (s : State) (stage : Bool) : State × Nat :=
  if stage then let (x, s) := s.free; (s, x.toNat % 2 ^ 32) else (s, 0)

/-- Write one sample record (20 R371): a request of kind 0 load, 1 store, 2 atomic, 3 remote, 4 engine. -/
def samplePut (s : State) (r die core kind pc blk : Nat) (q : Req) : State :=
  let D := s.debug r
  let key := q.line * 128
  let sync := decide (2 ^ 49 ≤ key)
  let vault := decide (2 ^ 48 ≤ key) && !sync
  let local_ := decide (key < 2 ^ 38)
  let stages := if kind == 3 then [false, true, true, false, false, false, false, true]
    else [q.cached && kind == 0, kind != 4, (keyTarget q.place key).2 != some die, local_, local_, vault, sync || q.keystone, false]
  let (s, total) := freeNs s true
  let (s, waits) := stages.foldl (fun (acc : State × List Nat) st =>
    let (s, w) := freeNs acc.1 st
    (s, acc.2 ++ [w])) (s, [])
  let bytes := fieldBytes 64 ([(0, 8, pc), (8, 4, blk), (12, 2, core), (14, 1, kind), (16, 8, q.va), (24, 4, total)] ++
    waits.zipIdx.map (fun wk => (32 + 4 * wk.2, 4, wk.1)))
  match ringPut s r die D.smBase D.smLog D.smWr bytes with
  | (s, false) => s
  | (s, true) =>
    let n := (D.smWr + 1) % 2 ^ 32
    debugField (s.setDebug r { s.debug r with smWr := n }) r 68 n

/-- Whether the next request that a core counts is a sampled one, and the count after it. -/
def sampleNext (s : State) (r core : Nat) : State × Bool :=
  let D := s.debug r
  let n := SMap.get 0 D.sampled core + 1
  (s.setDebug r { D with sampled := SMap.set 0 D.sampled core (n % D.speriod) }, n % D.speriod == 0)

/-- Count and sample the requests of one agent's step for a block, or for a queue packet (20 R371). -/
def sampleReqs (s : State) (r die core pc blk : Nat) (kind : Option Nat) (qs : List Req) : State :=
  qs.foldl (fun s q =>
    let (s, hit) := sampleNext s r core
    if hit then samplePut s r die core (kind.getD q.kind) pc blk q else s) s

/-- Whether SAMPLE is enabled for a region. -/
def sampling (s : State) (r : Nat) : Bool := (s.region r).descr.isSome && bitN (s.debug r).enable 3

/-- Requests of an engine operation that a thread's command caused (20 R371). -/
def sampleEngine (s : State) (B : Block) (pc : Nat) : State :=
  if s.debugOn B 3 then sampleReqs s B.region (coreDie B.core) B.core pc B.blk (some 4) s.reqs else s

/-- Operations of a block in flight in the matrix and selection queues, the copy queue and the collective unit (20 R362). -/
def opsInFlight (s : State) (b : Nat) (coll : Bool) : Bool :=
  let C := s.core (s.block b).core
  let D := s.die (coreDie (s.block b).core)
  C.matq.any (fun o => o.blk == b) || C.selq.any (fun o => o.blk == b) || D.copyq.any (fun o => o.blk == b) ||
    (coll && s.dies.any (fun kv => kv.2.collq.any (fun o => o.blk == b)))

/-- Whether the current course ends at this instruction boundary (20 R362): its instructions are retired and no operation is in flight, or
its log half is full. -/
def courseDone (s : State) (b : Nat) : Bool :=
  let B := s.block b
  match B.course with
  | none => false
  | some c =>
    let D := s.debug B.region
    let retired := c.current.retired.foldl (fun a kv => a + kv.2) 0
    (decide (D.courseLen ≤ retired) && !opsInFlight s b true) ||
      (c.current.log != [] && decide (logRoom D c.current ≤ c.current.log.length))

/-- A running block stops at an instruction boundary and its next course begins (20 R362). -/
def nextCourse (s : State) (b : Nat) : State := seatBlock (startCourse (stopBlock s b) b) b

/-- COURSE_END (20 R362). -/
def endCourse (s : State) (b : Nat) : State := if (s.block b).state == .running && courseDone s b then nextCourse s b else s

/-- A course that has ended does so in a step before any other. -/
def courseCheck (s : State) (b : Nat) : State :=
  if (s.block b).state == .running && courseDone s b then { s with agenda := s.agenda ++ [.courseEnd b] } else s

/-- Whether a block's course would pass the end of its log half with `n` more entries: it is full for them, unless it is empty
(20 R362; notes/assumptions/13.md). -/
def logFull (s : State) (b n : Nat) : Bool :=
  match (s.block b).course with
  | none => false
  | some c => (s.block b).state == .running && c.current.log != [] &&
      decide (logRoom (s.debug (s.block b).region) c.current < c.current.log.length + n)

/-- Make room in the log for `n` entries that come together (20 R362; notes/assumptions/13.md). -/
def logSpace (s : State) (b n : Nat) : State := if logFull s b n then nextCourse s b else s

/-- Entries that one issue adds at most: 12 in each of its lanes (20 R363; notes/assumptions/13.md). -/
def issueEntries (s : State) (b : Nat) (mems : List Nat) : Nat := mems.foldl (fun n i => n + 12 * (s.member b i).nsib) 0

/-- Sample the requests of lanes, for a block whose descriptor says so (20 R371). -/
def sampleLanes (s : State) (B : Block) (pc : Nat) : State :=
  if s.debugOn B 3 then
    sampleReqs s B.region (coreDie B.core) B.core pc B.blk none (s.reqs.filter (fun q => q.agent == B.core))
  else s

/-- What follows every issue: trace records, samples, and the end of a course (20 R362, R368, R371). -/
def afterIssue (s0 s : State) (b : Nat) (mems : List Nat) : State :=
  let B0 := s0.block b
  let s := traceMoves s0 s b mems
  let s := if s0.debugOn B0 3 then
      sampleReqs s B0.region (coreDie B0.core) B0.core (B0.member (mems.headD 0)).pc B0.blk none
        (s.reqs.filter (fun q => q.agent == B0.core))
    else s
  courseCheck s b

end Sys2Proof.Machine
end

