-- ==== Sys2Proof/Machine/Issue.lean ====
section
/-!
DEFINITION. How an instruction word executes for the members of an issue: lane instructions member by member (spec 02 R24, R29 to
R34; 04 R73), memory instructions lane by lane with a done mask (12 R220), and instructions accepted once per issue (12 R239,
15 R262); numerical-instability events (03 R59 to R62), retirement and the causes it raises (19 R343, R353).
-/
namespace Sys2Proof.Machine

abbrev Result := Host.Outcome State Fault Refusal

/-- Perform an issue: an instruction word executes only for the members of a selected issue; debug facilities follow it. -/
def withIssue (s : State) (k : Issue → State → State) : Result :=
  match s.cur with
  | none => .fault .noIssue
  | some is => .next (afterIssue s (k is { s with cur := none, issues := s.issues + 1, reqs := [] }) is.blk is.mems)

/-- What one thread or sibling of a lane instruction receives: a register write, flags for ctl.fpstatus, control-register
writes, and whether the course log records the write (20 R363). -/
structure SibOut where
  out : Out
  flags : Nat
  ctl : List (Nat × W32)
  logged : Bool
  deriving DecidableEq, Repr

def SibOut.write (o : Out) : SibOut := { out := o, flags := 0, ctl := [], logged := false }
def SibOut.flagged (o : Out) (f : Nat) : SibOut := { out := o, flags := f, ctl := [], logged := false }
def SibOut.log (o : Out) : SibOut := { out := o, flags := 0, ctl := [], logged := true }

/-- A cause event: code, VALUE, DSRC and DRES of its log record (03 R59, R61). -/
structure NiEvent where
  code : Nat
  value : W64
  dsrc : Nat
  dres : Nat
  deriving DecidableEq, Repr

def niCancel : Nat := 0
def niCompare : Nat := 1
def niDivzero : Nat := 2
def niSteer : Nat := 3

/-- A STEER event for the first of several sources whose sibling values differ bitwise; its value is sibling 0's bits
(03 R59, R61). -/
def steerEvent : List (List Nat) → Option NiEvent
  | [] => none
  | xs :: r =>
    if xs.length == 3 && !allEqual xs then
      some { code := niSteer, value := BitVec.ofNat 64 (xs.headD 0), dsrc := 0xFF, dres := 0xFF }
    else steerEvent r

/-- What a lane instruction does to one member: each sibling's results, a cause event, a uniform write, a fault that keeps it
from retiring, the PC it goes to when that is not the next instruction, and whether it marks the thread as spin-waiting (02 R41). -/
structure LaneOut where
  sibs : List SibOut
  ni : Option NiEvent
  uni : Option (Nat × W32)
  flt : Option Flt
  next : Option Nat
  spin : Bool
  deriving DecidableEq, Repr

def LaneOut.of (sibs : List SibOut) : LaneOut :=
  { sibs := sibs, ni := none, uni := none, flt := none, next := none, spin := false }

/-- What a lane instruction of one member reads. -/
structure LaneIn where
  s : State
  is : Issue
  B : Block
  i : Nat
  m : Member

def LaneIn.src (l : LaneIn) (wide : Bool) (o : Opnd) : List Nat := srcs l.B l.m wide o
def LaneIn.tid (l : LaneIn) : Nat := l.B.tid l.i

/-- Members of the issue whose guard is true. -/
def guarded (B : Block) (x : Ext) (mems : List Nat) : List Nat := mems.filter (fun i => (B.member i).guard x)

/-- The running result of an issue: the state, its precise cause if any, and causes raised after retirement. -/
structure Acc where
  s : State
  precise : Option Trap
  after : List (Nat × Trap)
  deriving DecidableEq, Repr

def Acc.start (s : State) : Acc := { s := s, precise := none, after := [] }

/-- A cause of one member at its present instruction (19 R344). -/
def trapOf (m : Member) (i major : Nat) (x : Ext) (f : Flt) : Trap :=
  { cause := f.cause, fcode := f.fcode, addr := f.addr, pc := m.pc, icount := m.icount, words := instrBytes major x,
    micro := 0xFF, tag := 0, quarter := m.quarter, lanes := m.laneMask, done := 0, mems := [i] }

/-- Add a member's precise cause: the first decides, members with the same cause join its group (19 R343, R344). -/
def Acc.raise (a : Acc) (t : Trap) : Acc :=
  match a.precise with
  | none => { a with precise := some t }
  | some u =>
    if u.cause == t.cause then { a with precise := some { u with lanes := u.lanes ||| t.lanes, mems := u.mems ++ t.mems } }
    else a

/-- The count within the course of a member's present instruction (20 R363). -/
def courseCount (c : Course) (i : Nat) : Nat := SMap.get 0 c.retired i + 1

/-- Append log entries to the current course, if it has begun (20 R362, R363). -/
def courseLog (B : Block) (es : Course → List LogEntry) : Block :=
  match B.course with
  | none => B
  | some c => if !c.current.begun then B else { B with course := some { c with current := { c.current with log := c.current.log ++ es c.current } } }

/-- DEST and value of a logged register write (20 R363). -/
def Out.entry : Out → Option (Nat × W64)
  | .reg n x => some (n, x.setWidth 64)
  | .pair n x => some (n, x)
  | .pred n b => if n % 8 == 7 then .none else some (predReg n, if b then 1 else 0)
  | _ => .none

def logOuts (B : Block) (i : Nat) (os : List SibOut) : Block :=
  courseLog B (fun c => os.zipIdx.filterMap (fun ok =>
    if ok.1.logged then ok.1.out.entry.map (fun e =>
      { value := e.2, dest := e.1, part := 0, member := i, sib := ok.2, count := courseCount c i, late := false }) else none))

/-- DEST, PART and value of the register writes of one result: 128 bits give two parts (20 R363). -/
def outEntries : List Out → List (Nat × Nat × W64)
  | [.reg d x0, .reg _ x1, .reg _ x2, .reg _ x3] => [(d, 0, x1 ++ x0), (d, 1, x3 ++ x2)]
  | os => os.filterMap (fun o => o.entry.map (fun e => (e.1, 0, e.2)))

/-- Log entries of the writes that an access delivers to each sibling (20 R363). -/
def logWrites (B : Block) (i : Nat) (outs : List (List Out)) : Block :=
  courseLog B (fun c => outs.zipIdx.flatMap (fun ok => (outEntries ok.1).map (fun e =>
    { value := e.2.2, dest := e.1, part := e.2.1, member := i, sib := ok.2, count := courseCount c i, late := false })))

/-- Log reads of block registers written within the course: uniform registers by operand, a pair when either was written (20 R363). -/
def logUni (B : Block) (i : Nat) (m : Member) (reads : List (Bool × Opnd)) : Block :=
  courseLog B (fun c => reads.flatMap (fun r =>
    match r.2 with
    | .uni n =>
      if c.written.contains (136 + n) || (r.1 && c.written.contains (137 + n)) then
        m.sibs.zipIdx.map (fun rk => { value := BitVec.ofNat 64 (opRead B rk.1 r.1 (.uni n)), dest := 136 + n, part := 0,
                                       member := i, sib := rk.2, count := courseCount c i, late := false })
      else []
    | _ => []))

/-- Mark a block register as written within the course (20 R363). -/
def courseWrote (B : Block) (dest : Nat) : Block :=
  { B with course := B.course.map (fun c => { c with current := { c.current with written := dest :: c.current.written } }) }

/-- Note a retirement in the course (20 R362, R366). -/
def courseRetire (B : Block) (i : Nat) (m : Member) : Block :=
  { B with course := B.course.map (fun c =>
      let n := courseCount c.current i
      { c with current := { c.current with
          retired := SMap.put c.current.retired i n
          history := c.current.history ++ [{ mem := i, count := n, logged := c.current.log.length, state := m }] } }) }

/-- The last retirement of a member in a course leaves it in another state. -/
def amendLast (i : Nat) (m : Member) : List Retired → List Retired
  | [] => []
  | h :: r => if h.mem == i && !r.any (fun k => k.mem == i) then { h with state := m } :: r else h :: amendLast i m r

/-- What an instruction does to its thread after its retirement belongs to it (20 R366). -/
def courseAmend (B : Block) (i : Nat) (m : Member) : Block :=
  { B with course := B.course.map (fun c => { c with current := { c.current with history := amendLast i m c.current.history } }) }

/-- Apply one sibling's results: flags and control registers at once, the register write at its latency (02 R32, R34). -/
def SibOut.apply (lat : Option Nat) (o : SibOut) (r : Regs) : Regs :=
  let r := if o.flags == 0 then r else r.setCtl 0 (r.ctl 0 ||| BitVec.ofNat 32 o.flags)
  let r := { r with c := setCtls r.c o.ctl }
  match lat with
  | some l => r.writeFixed l o.out
  | none => r.writeAll [o.out]

/-- Apply results sibling by sibling. -/
def applyOuts (lat : Option Nat) : List SibOut → List Regs → List Regs
  | o :: os, r :: rs => o.apply lat r :: applyOuts lat os rs
  | _, rs => rs

/-- The PC after an instruction of `len` bytes (04 R99). -/
def nextPc (pc len : Nat) : Nat := (pc + len) % 2 ^ 57

/-- Retire an instruction: PC, icount (03 R49; not in a handler), issue spacing and declared distance (02 R31, R32). -/
def Member.retire (m : Member) (handler : Bool) (stall pc : Nat) : Member :=
  let d := max stall 1
  { m with
    pc := match m.cap with | some c => c.nextPc | .none => pc
    came := m.pc
    icount := if handler then m.recordIcount else m.recordIcount + 1
    sibs := m.sibs.map (Regs.age d)
    space := d
    cap := .none
    wait := .none }

/-- Retire a member in the machine and raise STEP when it is set (19 R353). `t` is the cause the STEP trap would report. -/
def Acc.retire (a : Acc) (b i : Nat) (x : Ext) (major : Nat) (m : Member) (pc : Nat) : Acc :=
  let B := a.s.block b
  let m' := m.retire B.handler.isSome x.stall pc
  let B := courseRetire (B.setMember i m') i m'
  { a with
    s := a.s.setBlock b B
    after := if m.step then a.after ++ [(i, trapOf m i major x { cause := .step, fcode := 0, addr := 0 })] else a.after }

/-- An instability log record (03 R61). -/
def niRecord (B : Block) (m : Member) (x : Ext) (e : NiEvent) : Nat :=
  m.icount.toNat + m.pc % 2 ^ 57 * 2 ^ 64 + e.code % 4 * 2 ^ 121 + x.ty.code % 16 * 2 ^ 124 + e.dres % 256 * 2 ^ 128 +
    e.dsrc % 256 * 2 ^ 136 + B.core % 256 * 2 ^ 144 + m.lane % 256 * 2 ^ 152 + m.slot % 16 * 2 ^ 160 +
    B.blk % 2 ^ 24 * 2 ^ 168 + e.value.toNat * 2 ^ 192

/-- Append a record to the instability log ring of the region that gives the log fields, or count it as dropped (03 R62,
15 R254, 18 R382). -/
def appendLog (s : State) (region die : Nat) (record : Nat) : State :=
  let o := effOwner s.regions 9 s.regions.length region
  let R := s.region o
  let drop (s : State) : State :=
    let n := min ((s.region o).logDrop + 1) 0xFFFF_FFFF
    devField (s.setRegion o { s.region o with logDrop := n }) o 68 4 n
  let rd := Memory.nat s.mem (R.paddr + 64) 4
  if R.logBase == 0 || (R.logWr + 2 ^ 32 - rd) % 2 ^ 32 == 2 ^ R.logN then drop s
  else
    match writeRange s (keystoneOf o die) (R.logBase + 32 * (R.logWr % 2 ^ R.logN)) (leBytes 32 record) with
    | (s, some _) => drop s
    | (s, none) =>
      let n := (R.logWr + 1) % 2 ^ 32
      devField (s.setRegion o { s.region o with logWr := n }) o 60 4 n

/-- The action that ctl.nimode gives a cause (03 R59, R60). -/
def niAction (m : Member) (code : Nat) : Nat := bitsAt (m.first.ctl 1).toNat (2 * code) 2

/-- ctl.nicount rises by one in each sibling and saturates (03 R59, R60). -/
def niCount (r : Regs) : Regs := r.setCtl 3 (if r.ctl 3 = 0xFFFF_FFFF then 0xFFFF_FFFF else r.ctl 3 + 1)

/-- A cause event of a member whose instruction has retired; `m` is the member at issue (03 R60, R62), whose
ctl.nimode gives the action also where the instruction itself writes it (notes/assumptions/110.md). -/
def Acc.instability (a : Acc) (b i : Nat) (x : Ext) (major : Nat) (m : Member) (e : NiEvent) : Acc :=
  let act := niAction m e.code
  if act == 0 then a
  else
    let B := a.s.block b
    let m' := B.member i
    let m'' := { m' with sibs := m'.sibs.map niCount }
    let s := a.s.setBlock b (courseAmend (B.setMember i m'') i m'')
    if act == 1 then { a with s := s }
    else if act == 2 then { a with s := appendLog s B.region (coreDie B.core) (niRecord B m x e) }
    else { a with s := s
                  after := a.after ++ [(i, trapOf m i major x { cause := .numericalInstability, fcode := e.code, addr := 0 })] }

/-- Whether the frame or save area of a stopped block has been written (19 R343, R344). -/
def Block.framed (B : Block) : Bool :=
  match B.state with
  | .handled _ _ | .saved _ _ _ => true
  | _ => false

/-- Keep a cause pending in its thread, raised at the first boundary after resumption (19 R343); one that comes after the block's frame was
written stays beside it (notes/assumptions/119.md). -/
def holdCause (s : State) (b i : Nat) (t : Trap) : State :=
  let m := s.member b i
  if !m.live then s
  else if (s.block b).framed then s.setMember b i { m with late := m.late ++ [t] }
  else s.setMember b i { m with pendCause := m.pendCause ++ [t] }

/-- Hold causes after retirement in their threads. -/
def holdAll (s : State) (b : Nat) (ts : List (Nat × Trap)) : State := ts.foldl (fun s it => holdCause s b it.1 it.2) s

/-- Causes after retirement in order: an instruction's own causes before STEP (19 R353). -/
def Acc.ordered (a : Acc) : List (Nat × Trap) :=
  a.after.filter (fun it => it.2.cause != .step) ++ a.after.filter (fun it => it.2.cause == .step)

/-- The causes after retirement that a block raises: a BREAKPOINT that is not delivered is none (19 R340). -/
def raisedAfter (s : State) (b : Nat) (ts : List (Nat × Trap)) : List (Nat × Trap) :=
  ts.filter (fun it => it.2.cause != .breakpoint || delivered s (s.block b).region .breakpoint)

/-- End an issue: threads move to the entries of their next PCs, then the earliest cause stops the block and the other causes
after retirement are held in their threads (15 R263; 19 R343). -/
def Acc.finish (a : Acc) (b : Nat) (mems : List Nat) : State :=
  let s := reseat a.s b mems
  match a.precise, raisedAfter s b a.ordered with
  | some t, ts => takeTrap (holdAll s b ts) b t
  | none, [] => s
  | none, it :: ts =>
    let s := holdAll s b ts
    if (s.block b).state == .running && (s.member b it.1).live then takeTrap s b it.2 else holdCause s b it.1 it.2

/-- Register numbers that an instruction reads. -/
def readRegs (reads : List (Bool × Opnd)) : List Nat := reads.flatMap (fun r => r.2.regs r.1)

/-- Whether a read meets an invisible latest write under ctl.stallchk (02 R33). -/
def undersized (m : Member) (regs : List Nat) : Bool :=
  m.first.ctl 11 != 0 && m.sibs.any (fun r => r.pend.any (fun e => regs.contains e.reg))

/-- Registers of the guard. -/
def guardRegs (x : Ext) : List Nat := if x.guard % 8 == 7 then [] else [predReg x.guard]

def stallFault : Flt := { cause := .stallUndersized, fcode := 0, addr := 0 }

/-- The block registers and course after a lane instruction of member `i`: its uniform write (04 R83), which
the other threads see at once (notes/assumptions/25.md), and log entries (20 R363). -/
def laneBlock (B : Block) (i : Nat) (m : Member) (reads : List (Bool × Opnd)) (o : LaneOut) : Block :=
  let B := logOuts (logUni B i m reads) i o.sibs
  match o.uni with
  | some (n, v) => courseWrote { B with k := SMap.set 0 B.k n v } (136 + n)
  | none => B

/-- A lane instruction of one member (02 R24, R29, R33; 04 R73). -/
def laneStep (x : Ext) (major : Nat) (lat : Option Nat) (reads : List (Bool × Opnd)) (f : LaneIn → LaneOut) (b : Nat)
    (is : Issue) (s0 : State) (a : Acc) (i : Nat) : Acc :=
  let B := a.s.block b
  let m := B.member i
  let pc := nextPc m.pc x.len
  if undersized m (guardRegs x) then a.raise (trapOf m i major x stallFault)
  else if !m.guard x then a.retire b i x major m pc
  else if undersized m (readRegs reads) then a.raise (trapOf m i major x stallFault)
  else
    let o := f { s := s0, is := is, B := s0.block b, i := i, m := m }
    match o.flt with
    | some flt => a.raise (trapOf m i major x flt)
    | none =>
      let a := { a with s := a.s.setBlock b (laneBlock B i m reads o) }
      let a := a.retire b i x major { m with sibs := applyOuts lat o.sibs m.sibs, spin := if o.spin then 65 else m.spin }
        (o.next.getD pc)
      match o.ni with
      | some e => a.instability b i x major m e
      | none => a

/-- A lane instruction: every member of the issue in increasing lane order. Each reads the state before the issue. -/
def laneRun (x : Ext) (major : Nat) (lat : Option Nat) (reads : List (Bool × Opnd)) (f : LaneIn → LaneOut) (s : State) :
    Result :=
  withIssue s fun is s =>
    (is.mems.foldl (laneStep x major lat reads f is.blk is s) (Acc.start s)).finish is.blk is.mems

/-- What a member of a memory or engine instruction reads: captured sources A, B, C, D of each sibling (02 R29, 19 R345). -/
structure MemIn where
  b : Nat
  i : Nat
  m : Member
  x : Ext
  vals : List (List Nat)
  first : Bool

/-- Source `k` (0 to 3 for A to D) of every sibling. -/
def MemIn.src (l : MemIn) (k : Nat) : List Nat := l.vals.map (fun v => v.getD k 0)

/-- How an access of one member ends: each sibling's value, a fault, a wait, or not ready (15 R264). -/
inductive MemRes where
  | done (vals : List Nat)
  | fault (f : Flt)
  | wait (k : WaitKind)
  | notReady
  deriving DecidableEq, Repr

/-- Capture a member's four sources. -/
def captureSrcs (B : Block) (m : Member) (reads : List (Bool × Opnd)) : List (List W64) :=
  match m.cap with
  | some c => c.srcs
  | none => m.sibs.map (fun r => reads.map (fun w => BitVec.ofNat 64 (opRead B r w.1 w.2)))

/-- A member in an unfinished replay-class issue (19 R341). -/
def capture (s : State) (b i : Nat) (x : Ext) (major : Nat) (seq : Nat) (reads : List (Bool × Opnd)) (res : Option (List W64))
    (w : Option WaitKind) : State :=
  let B := s.block b
  let m := B.member i
  let c : Captured := match m.cap with
    | some c => c
    | none => { seq := seq, x := x, major := major, words := instrBytes major x, srcs := captureSrcs B m reads, result := none,
                faultReply := none, requests := [], nextPc := nextPc m.pc x.len, icount := m.icount }
  let sent := match w with
    | some (.remote _ ids) => ids
    | _ => c.requests
  s.setMember b i { m with cap := some { c with result := res, requests := sent }, wait := w }

/-- The four source positions of an instruction, which of them steer (03 R56), and further registers that it reads. -/
structure MemOps where
  reads : List (Bool × Opnd)
  steer : List Nat
  more : List Nat := []

/-- Reads that no instruction field names. -/
def noRead : Bool × Opnd := (false, .const 0)

/-- The running result of a memory instruction. -/
structure MemAcc where
  a : Acc
  done : List (Nat × List Nat × Option NiEvent)
  faults : List (Nat × Flt)
  waits : List (Nat × WaitKind)
  stuck : Bool

/-- One member of a memory instruction: guard, stall check, sources, access (12 R219, R220). -/
def memStep (x : Ext) (major : Nat) (ops : MemOps) (body : MemIn → State → State × MemRes) (b : Nat) (r : MemAcc) (i : Nat) :
    MemAcc :=
  let B := r.a.s.block b
  let m := B.member i
  let replay := m.cap.isSome
  if !replay && undersized m (guardRegs x) then { r with faults := r.faults ++ [(i, stallFault)] }
  else if !replay && !m.guard x then { r with a := r.a.retire b i x major m (nextPc m.pc x.len) }
  else if !replay && undersized m (readRegs ops.reads ++ ops.more) then { r with faults := r.faults ++ [(i, stallFault)] }
  else
    let caps := captureSrcs B m ops.reads
    let vals := caps.map (fun v => v.map BitVec.toNat)
    let ev := steerEvent (ops.steer.map (fun k => vals.map (fun v => v.getD k 0)))
    match m.cap.bind Captured.result with
    | some res => { r with done := r.done ++ [(i, res.map BitVec.toNat, ev)] }
    | none =>
      let l : MemIn := { b := b, i := i, m := m, x := x, vals := vals, first := r.done.isEmpty && r.faults.isEmpty }
      let s := if B.course.isNone || replay then r.a.s else r.a.s.setBlock b (logUni B i m ops.reads)
      match body l s with
      | (s, .done vs) => { r with a := { r.a with s := s }, done := r.done ++ [(i, vs, ev)] }
      | (s, .fault f) => { r with a := { r.a with s := s }, faults := r.faults ++ [(i, f)] }
      | (s, .wait k) => { r with a := { r.a with s := s }, waits := r.waits ++ [(i, k)] }
      | (s, .notReady) => { r with a := { r.a with s := s }, stuck := true }

/-- Lane mask of members in their quarter. -/
def groupMask (B : Block) (mems : List Nat) : Nat := mems.foldl (fun a i => a ||| (B.member i).laneMask) 0

/-- The cause of a group with faulting lanes: its first fault, all lanes of the group, and those that took effect (12 R220,
19 R344). -/
def groupTrap (B : Block) (x : Ext) (major : Nat) (done faulted : List Nat) (i : Nat) (f : Flt) : Trap :=
  let t := trapOf (B.member i) i major x f
  { t with lanes := groupMask B (done ++ faulted), done := groupMask B done, mems := faulted ++ done }

/-- Complete one member: its destination, its course log entries, retirement and its cause event. -/
def memComplete (x : Ext) (major : Nat) (logged : Bool) (dest : Member → Nat → Nat → List Out) (b : Nat) (a : Acc)
    (d : Nat × List Nat × Option NiEvent) : Acc :=
  let B := a.s.block b
  let m := B.member d.1
  let outs := m.sibs.zipIdx.map (fun rk => dest m rk.2 (d.2.1.getD rk.2 0))
  let B := if logged then logWrites B d.1 outs else B
  let a := { a with s := a.s.setBlock b B }
  let sibs := m.sibs.zipIdx.map (fun rk => rk.1.writeAll (outs.getD rk.2 []))
  let a := a.retire b d.1 x major { m with sibs := sibs } (nextPc m.pc x.len)
  match d.2.2 with
  | some e => a.instability b d.1 x major m e
  | none => a

/-- The claim of a waiting DEQ, which stays with the thread when its ring access faults (15 R275). -/
def claimed : Option WaitKind → Option WaitKind
  | some (.deq q i off) => some (.deq q i off)
  | _ => none

/-- End a memory instruction: with a fault the whole group traps, done lanes keep their values, and lanes whose remote requests are sent
are among the done ones (16 R294); otherwise done members retire and waiting members stay (12 R220, 15 R265, 19 R341). -/
def MemAcc.finish (r : MemAcc) (x : Ext) (major : Nat) (ops : MemOps) (logged : Bool) (dest : Member → Nat → Nat → List Out)
    (b : Nat) (mems : List Nat) : State :=
  let seq := r.a.s.issues
  let a := { r.a with s := r.waits.foldl (fun s w => capture s b w.1 x major seq ops.reads none (some w.2)) r.a.s }
  match r.faults with
  | [] => ((r.done.foldl (memComplete x major logged dest b) a).finish b mems)
  | (i, f) :: _ =>
    let dn := r.done.map Prod.fst ++ r.waits.filterMap (fun w => match w.2 with | .remote _ _ => some w.1 | _ => none)
    let s := r.done.foldl (fun s d => capture s b d.1 x major seq ops.reads (some (d.2.1.map (BitVec.ofNat 64))) none) a.s
    let s := r.faults.foldl (fun s d => capture s b d.1 x major seq ops.reads none (claimed (s.member b d.1).wait)) s
    { a with s := s, precise := some (groupTrap (s.block b) x major dn (r.faults.map Prod.fst) i f) }.finish b mems

/-- One issue of a memory instruction, lane by lane (12 R219, R220). An instruction that is not ready has no effect and stays in its entry. -/
def memIssue (x : Ext) (major : Nat) (ops : MemOps) (logged : Bool) (dest : Member → Nat → Nat → List Out)
    (body : MemIn → State → State × MemRes) (is : Issue) (s0 : State) : State :=
  let r := is.mems.foldl (memStep x major ops body is.blk)
    { a := Acc.start s0, done := [], faults := [], waits := [], stuck := false }
  if r.stuck then reseat s0 is.blk is.mems else r.finish x major ops logged dest is.blk is.mems

/-- A memory instruction (12 R219, R220). -/
def memRun (x : Ext) (major : Nat) (ops : MemOps) (logged : Bool) (dest : Member → Nat → Nat → List Out)
    (body : MemIn → State → State × MemRes) (s : State) : Result :=
  withIssue s (memIssue x major ops logged dest body)

/-- An instruction accepted once per issue: the body runs for the lowest member with a true guard that has no result yet, and
every member with a true guard shares its outcome (12 R239, 15 R262, R275; 16 R301). `also` is what the outcome does to each of the other
members, as an acquire discards what their walkers fetched ahead (10 R195). -/
def onceStep (x : Ext) (major : Nat) (ops : MemOps) (also : Nat → List Nat → State → Nat → State) (body : MemIn → State → State × MemRes)
    (b : Nat) (r : MemAcc) (i : Nat) : MemAcc :=
  let m := (r.a.s.block b).member i
  let replay := m.cap.isSome
  if r.stuck || (!replay && undersized m (guardRegs x)) || (!replay && !m.guard x) ||
      (!replay && undersized m (readRegs ops.reads ++ ops.more)) || (m.cap.bind Captured.result).isSome then
    memStep x major ops body b r i
  else match r.done.find? (fun d => ((r.a.s.block b).member d.1).cap.bind Captured.result == none), r.faults, r.waits with
    | _, (_, f) :: _, _ => { r with faults := r.faults ++ [(i, f)] }
    | _, _, (_, k) :: _ => { r with waits := r.waits ++ [(i, k)] }
    | some d, _, _ =>
      let s := if (r.a.s.block b).course.isNone || replay then r.a.s else r.a.s.setBlock b (logUni (r.a.s.block b) i m ops.reads)
      let vals := (captureSrcs (r.a.s.block b) m ops.reads).map (fun v => v.map BitVec.toNat)
      { r with
        a := { r.a with s := also b d.2.1 s i }
        done := r.done ++ [(i, d.2.1, steerEvent (ops.steer.map (fun k => vals.map (fun v => v.getD k 0))))] }
    | none, _, _ => memStep x major ops body b r i

/-- The outcome of an instruction accepted once changes nothing in the other members but their results. -/
def noMore : Nat → List Nat → State → Nat → State := fun _ _ s _ => s

def onceRun (x : Ext) (major : Nat) (ops : MemOps) (logged : Bool) (dest : Member → Nat → Nat → List Out)
    (body : MemIn → State → State × MemRes) (s : State) (also : Nat → List Nat → State → Nat → State := noMore) : Result :=
  withIssue s fun is s0 =>
    let r := is.mems.foldl (onceStep x major ops also body is.blk)
      { a := Acc.start s0, done := [], faults := [], waits := [], stuck := false }
    if r.stuck then reseat s0 is.blk is.mems else r.finish x major ops logged dest is.blk is.mems

/-- End an instruction that is not replay-class: members that fault keep their PC at it, the others retire (19 R341, R343). -/
def MemAcc.finishDrain (r : MemAcc) (x : Ext) (major : Nat) (logged : Bool) (dest : Member → Nat → Nat → List Out) (b : Nat)
    (mems : List Nat) : State :=
  let a := r.done.foldl (memComplete x major logged dest b) r.a
  (r.faults.foldl (fun a f => a.raise (trapOf ((a.s.block b).member f.1) f.1 major x f.2)) a).finish b mems

/-- An instruction that is not replay-class, member by member, or accepted once per issue. -/
def drainRun (x : Ext) (major : Nat) (once : Bool) (ops : MemOps) (logged : Bool) (dest : Member → Nat → Nat → List Out)
    (body : MemIn → State → State × MemRes) (s : State) : Result :=
  withIssue s fun is s0 =>
    let r := is.mems.foldl ((if once then onceStep x major ops noMore else memStep x major ops) body is.blk)
      { a := Acc.start s0, done := [], faults := [], waits := [], stuck := false }
    if r.stuck then reseat s0 is.blk is.mems else r.finishDrain x major logged dest is.blk is.mems

/-- Take up the issue of a replay entry: for the members that still wait in it, while their block runs, with room in the log of its course
(20 R362). -/
def startIssue (s : State) (k : Issue) : State :=
  let ms := k.mems.filter (fun i => (s.member k.blk i).live && (s.member k.blk i).cap.isSome)
  if (s.block k.blk).state == .running && ms != [] then
    { logSpace { s with reqs := [] } k.blk (issueEntries s k.blk ms) with cur := some { k with mems := ms } }
  else s

/-- A waiting instruction is taken up again, by every member of its issue that still waits (15 R265). -/
def wakeGroup (s : State) (b i : Nat) : State :=
  let B := s.block b
  match (B.member i).cap with
  | some c =>
    if B.state == .running && (B.member i).wait.isSome then
      let waiting := (replayMembers B c.seq).filter (fun j => (B.member j).wait.isSome)
      { s with agenda := s.agenda ++ [.issue { blk := b, mems := waiting, words := some c.words }] }
    else s
  | none => s

end Sys2Proof.Machine
end

