-- ==== Sys2Proof/Machine/Integer.lean ====
section
/-!
DEFINITION. Integer arithmetic, logic, shifts, bit fields, compare and select, moves, special and control registers
(spec 04 R75 to R86), with the fixed latencies of 02 R34.
-/
namespace Sys2Proof.Machine

/-- Latency of IMUL, IMULH and IMAD (02 R34). -/
def mulLat (t : Ty) : Nat := if t.wide then 6 else 4

/-- A two-source integer operation on exact integers; the width is given to the operation (04 R75). -/
def intBin (x : Ext) (op : Nat → Int → Int → Int) (l : LaneIn) : LaneOut :=
  LaneOut.of (List.zipWith (fun a b =>
    SibOut.write (outTy x.ty.wide x.d (putInt x.ty (op x.ty.width (ival x.ty a) (ival x.ty b)))))
    (l.src x.ty.wide (opA x)) (l.src x.ty.wide (opB x)))

/-- A one-source integer operation (04 R75). -/
def intUn (x : Ext) (op : Int → Int) (l : LaneIn) : LaneOut :=
  LaneOut.of ((l.src x.ty.wide (opA x)).map (fun a => SibOut.write (outTy x.ty.wide x.d (putInt x.ty (op (ival x.ty a))))))

def readsA (x : Ext) : List (Bool × Opnd) := [(x.ty.wide, opA x)]
def readsAB (x : Ext) : List (Bool × Opnd) := [(x.ty.wide, opA x), (x.ty.wide, opB x)]
def readsABC (x : Ext) : List (Bool × Opnd) := [(x.ty.wide, opA x), (x.ty.wide, opB x), (x.ty.wide, opC x)]

/-- IADD (04 R75). -/
def execIadd (x : Ext) (s : State) : Result := laneRun x 1 (some 2) (readsAB x) (intBin x fun _ a b => a + b) s
def execIaddBase (x : Base) (s : State) : Result := execIadd (Base.toExt 1 x) s
/-- ISUB (04 R75). -/
def execIsub (x : Ext) (s : State) : Result := laneRun x 2 (some 2) (readsAB x) (intBin x fun _ a b => a - b) s
def execIsubBase (x : Base) (s : State) : Result := execIsub (Base.toExt 2 x) s
/-- IMUL (04 R75). -/
def execImul (x : Ext) (s : State) : Result := laneRun x 3 (some (mulLat x.ty)) (readsAB x) (intBin x fun _ a b => a * b) s
def execImulBase (x : Base) (s : State) : Result := execImul (Base.toExt 3 x) s
/-- IMULH: the high half, signed or unsigned by TYPE (04 R75). -/
def execImulh (x : Ext) (s : State) : Result :=
  laneRun x 3 (some (mulLat x.ty)) (readsAB x) (intBin x fun w a b => (a * b) / (2 ^ w : Int)) s
/-- IMAD (04 R75). -/
def execImad (x : Ext) (s : State) : Result :=
  laneRun x 4 (some (mulLat x.ty)) (readsABC x) (fun l =>
    LaneOut.of (List.zipWith (fun ab c =>
      SibOut.write (outTy x.ty.wide x.d (putInt x.ty (ival x.ty ab.1 * ival x.ty ab.2 + ival x.ty c))))
      (List.zip (l.src x.ty.wide (opA x)) (l.src x.ty.wide (opB x))) (l.src x.ty.wide (opC x)))) s
def execImadBase (x : Base) (s : State) : Result := execImad (Base.toExt 4 x) s

/-- Quotient and remainder with their cases for a zero divisor (04 R75). -/
def idivOp (w : Nat) (a b : Int) : Int := if b = 0 then (2 ^ w : Int) - 1 else Int.tdiv a b
def iremOp (_ : Nat) (a b : Int) : Int := if b = 0 then a else a - b * Int.tdiv a b

/-- IDIV, variable-latency (04 R75). -/
def execIdiv (x : Ext) (s : State) : Result := laneRun x 5 none (readsAB x) (intBin x idivOp) s
def execIdivBase (x : Base) (s : State) : Result := execIdiv (Base.toExt 5 x) s
/-- IREM, variable-latency (04 R75). -/
def execIrem (x : Ext) (s : State) : Result := laneRun x 5 none (readsAB x) (intBin x iremOp) s
/-- IMIN (04 R75). -/
def execImin (x : Ext) (s : State) : Result := laneRun x 6 (some 2) (readsAB x) (intBin x fun _ a b => min a b) s
def execIminBase (x : Base) (s : State) : Result := execImin (Base.toExt 6 x) s
/-- IMAX (04 R75). -/
def execImax (x : Ext) (s : State) : Result := laneRun x 6 (some 2) (readsAB x) (intBin x fun _ a b => max a b) s
/-- IABS (04 R75). -/
def execIabs (x : Ext) (s : State) : Result := laneRun x 7 (some 2) (readsA x) (intUn x fun a => (a.natAbs : Int)) s
def execIabsBase (x : Base) (s : State) : Result := execIabs (Base.toExt 7 x) s
/-- INEG (04 R75). -/
def execIneg (x : Ext) (s : State) : Result := laneRun x 7 (some 2) (readsA x) (intUn x fun a => -a) s

/-- A bitwise operation on the operand width (04 R76). -/
def bitBin (x : Ext) (op : Nat → Nat → Nat) (l : LaneIn) : LaneOut :=
  LaneOut.of (List.zipWith (fun a b => SibOut.write (outTy x.ty.wide x.d (op a b)))
    (l.src x.ty.wide (opA x)) (l.src x.ty.wide (opB x)))
def bitUn (x : Ext) (op : Nat → Nat) (l : LaneIn) : LaneOut :=
  LaneOut.of ((l.src x.ty.wide (opA x)).map (fun a => SibOut.write (outTy x.ty.wide x.d (op a))))

/-- not x on w bits. -/
def notN (w x : Nat) : Nat := 2 ^ w - 1 - x % 2 ^ w

/-- AND (04 R76). -/
def execAndL (x : Ext) (s : State) : Result := laneRun x 8 (some 2) (readsAB x) (bitBin x fun a b => a &&& b) s
def execAndBase (x : Base) (s : State) : Result := execAndL (Base.toExt 8 x) s
/-- OR (04 R76). -/
def execOrL (x : Ext) (s : State) : Result := laneRun x 8 (some 2) (readsAB x) (bitBin x fun a b => a ||| b) s
/-- XOR (04 R76). -/
def execXorL (x : Ext) (s : State) : Result := laneRun x 8 (some 2) (readsAB x) (bitBin x fun a b => a ^^^ b) s
/-- ANDN (04 R76). -/
def execAndn (x : Ext) (s : State) : Result :=
  laneRun x 8 (some 2) (readsAB x) (bitBin x fun a b => a &&& notN x.ty.width b) s
/-- NOT (04 R76). -/
def execNotL (x : Ext) (s : State) : Result := laneRun x 8 (some 2) (readsA x) (bitUn x fun a => notN x.ty.width a) s

/-- A shift: the amount is B[7:0] of a 32-bit operand (04 R76). -/
def shiftRun (x : Ext) (op : Nat → Nat → Nat → Nat) (s : State) : Result :=
  laneRun x 9 (some 2) [(x.ty.wide, opA x), (false, opB x)] (fun l =>
    LaneOut.of (List.zipWith (fun a b => SibOut.write (outTy x.ty.wide x.d (op x.ty.width a (b % 256))))
      (l.src x.ty.wide (opA x)) (l.src false (opB x)))) s

def shlOp (w a n : Nat) : Nat := if n < w then a * 2 ^ n % 2 ^ w else 0
def shrOp (w a n : Nat) : Nat := if n < w then a / 2 ^ n else 0
def sarOp (w a n : Nat) : Nat := wrapN (sextN a w / (2 ^ (min n w) : Int)) w
def rotOp (w a n : Nat) : Nat := (a * 2 ^ (n % w) ||| a / 2 ^ (w - n % w)) % 2 ^ w

/-- SHL (04 R76). -/
def execShl (x : Ext) (s : State) : Result := shiftRun x shlOp s
def execShlBase (x : Base) (s : State) : Result := execShl (Base.toExt 9 x) s
/-- SHR (04 R76). -/
def execShr (x : Ext) (s : State) : Result := shiftRun x shrOp s
/-- SAR (04 R76). -/
def execSar (x : Ext) (s : State) : Result := shiftRun x sarOp s
/-- ROT (04 R76). -/
def execRot (x : Ext) (s : State) : Result := shiftRun x rotOp s

/-- pos and effective length of a bit-field descriptor (04 R77). -/
def fieldPos (b : Nat) : Nat := bitsAt b 0 5
def fieldLen (b : Nat) : Nat := min (bitsAt b 8 6) (32 - fieldPos b)

def bfxOp (t : Ty) (a b : Nat) : Nat :=
  let n := fieldLen b
  let v := bitsAt a (fieldPos b) n
  if n == 0 then 0 else if t.signed then wrapN (sextN v n) 32 else v
def bfiOp (a b c : Nat) : Nat :=
  let n := fieldLen b
  let p := fieldPos b
  c % 2 ^ p + a % 2 ^ n * 2 ^ p + c / 2 ^ (p + n) * 2 ^ (p + n)

/-- BFX (04 R77). -/
def execBfx (x : Ext) (s : State) : Result := laneRun x 10 (some 2) (readsAB x) (bitBin x (bfxOp x.ty)) s
def execBfxBase (x : Base) (s : State) : Result := execBfx (Base.toExt 10 x) s

/-- Three-source bit operations on 32 bits. -/
def bitTern (x : Ext) (op : Nat → Nat → Nat → Nat) (l : LaneIn) : LaneOut :=
  LaneOut.of (List.zipWith (fun ab c => SibOut.write (outTy false x.d (op ab.1 ab.2 c)))
    (List.zip (l.src false (opA x)) (l.src false (opB x))) (l.src false (opC x)))

/-- BFI (04 R77). -/
def execBfi (x : Ext) (s : State) : Result := laneRun x 10 (some 2) (readsABC x) (bitTern x bfiOp) s

/-- Number of 1 bits among the low `w`. -/
def popcN (x : Nat) : Nat → Nat
  | 0 => 0
  | w + 1 => boolN (bitN x w) + popcN x w
def clzOp (w a : Nat) : Nat := if a % 2 ^ w == 0 then w else w - 1 - Nat.log2 (a % 2 ^ w)
def brevOp (a : Nat) : Nat → Nat
  | 0 => 0
  | w + 1 => boolN (bitN a w) + 2 * brevOp a w

/-- POPC: a 32-bit count, also for n64 (04 R78). -/
def execPopc (x : Ext) (s : State) : Result :=
  laneRun x 11 (some 2) (readsA x) (fun l =>
    LaneOut.of ((l.src x.ty.wide (opA x)).map (fun a => SibOut.write (outTy false x.d (popcN a x.ty.width))))) s
def execPopcBase (x : Base) (s : State) : Result := execPopc (Base.toExt 11 x) s
/-- CLZ: a 32-bit count, also for n64 (04 R78). -/
def execClz (x : Ext) (s : State) : Result :=
  laneRun x 11 (some 2) (readsA x) (fun l =>
    LaneOut.of ((l.src x.ty.wide (opA x)).map (fun a => SibOut.write (outTy false x.d (clzOp x.ty.width a))))) s
/-- BREV (04 R78). -/
def execBrev (x : Ext) (s : State) : Result :=
  laneRun x 11 (some 2) (readsA x) (bitUn x fun a => brevOp a x.ty.width) s

/-- One result byte of PERM (04 R79). -/
def permByte (a b e : Nat) : Nat :=
  let v := bitsAt (a + b * 2 ^ 32) (8 * (e % 8)) 8
  if 8 ≤ e then (if 128 ≤ v then 255 else 0) else v
def permOp (a b c : Nat) : Nat :=
  permByte a b (bitsAt c 0 4) + permByte a b (bitsAt c 4 4) * 2 ^ 8 + permByte a b (bitsAt c 8 4) * 2 ^ 16 +
    permByte a b (bitsAt c 12 4) * 2 ^ 24

/-- PERM (04 R79). -/
def execPerm (x : Ext) (s : State) : Result := laneRun x 12 (some 2) (readsABC x) (bitTern x permOp) s
def execPermBase (x : Base) (s : State) : Result := execPerm (Base.toExt 12 x) s

/-- The ICMP condition in MINOR (04 R80). -/
def icmpOp (cond : Nat) (a b : Int) : Bool :=
  match cond with
  | 0 => decide (a = b) | 1 => decide (a ≠ b) | 2 => decide (a < b) | 3 => decide (a ≤ b) | 4 => decide (b < a)
  | _ => decide (b ≤ a)

/-- The COMPARE event of three sibling results (03 R59, R61). -/
def compareEvent (rs : List Bool) : Option NiEvent :=
  if rs.length == 3 && !allEqual (rs.map boolN) then
    some { code := niCompare, value := BitVec.ofNat 64 (rs.zipIdx.foldl (fun a rk => a + boolN rk.1 * 2 ^ rk.2) 0),
           dsrc := 0xFF, dres := 0xFF }
  else none

/-- ICMP (04 R80). -/
def execIcmp (x : Ext) (s : State) : Result :=
  laneRun x 13 (some 2) (readsAB x) (fun l =>
    let rs := List.zipWith (fun a b => icmpOp x.minor (ival x.ty a) (ival x.ty b)) (l.src x.ty.wide (opA x))
      (l.src x.ty.wide (opB x))
    { LaneOut.of (rs.map (fun r => SibOut.write (.pred x.d r))) with ni := compareEvent rs }) s
def execIcmpBase (x : Base) (s : State) : Result := execIcmp (Base.toExt 13 x) s

/-- ISEL: each sibling selects by its own p(C) (04 R81). -/
def execIsel (x : Ext) (s : State) : Result :=
  laneRun x 14 (some 2) [(x.ty.wide, opA x), (x.ty.wide, opB x), (false, .pred x.c)] (fun l =>
    LaneOut.of (List.zipWith (fun ab c => SibOut.write (outTy x.ty.wide x.d (if c == 1 then ab.1 else ab.2)))
      (List.zip (l.src x.ty.wide (opA x)) (l.src x.ty.wide (opB x))) (l.src false (.pred x.c)))) s
def execIselBase (x : Base) (s : State) : Result := execIsel (Base.toExt 14 x) s
/-- PLOP, latency 1 (04 R81). -/
def execPlop (x : Ext) (s : State) : Result :=
  laneRun x 14 (some 1) [(false, .pred x.a), (false, opB x), (false, .pred x.c)] (fun l =>
    LaneOut.of (List.zipWith (fun ab c => SibOut.write (.pred x.d (bitN ab.2 (2 * ab.1 + c))))
      (List.zip (l.src false (.pred x.a)) (l.src false (opB x))) (l.src false (.pred x.c)))) s

/-- MOV (04 R82). -/
def execMov (x : Ext) (s : State) : Result := laneRun x 15 (some 2) (readsA x) (bitUn x id) s
def execMovBase (x : Base) (s : State) : Result := execMov (Base.toExt 15 x) s
/-- MOVI (04 R82). -/
def execMovi (x : Ext) (s : State) : Result :=
  laneRun x 15 (some 2) [] (fun l =>
    LaneOut.of ((l.src x.ty.wide (opB x)).map (fun b => SibOut.write (outTy x.ty.wide x.d b)))) s

/-- MOVK: the uniform register of the block takes the value of the lowest lane's member, in a triad the unsigned median; the
writer sees it at latency 2 (04 R83). -/
def execMovk (x : Ext) (s : State) : Result :=
  laneRun x 15 (some 2) [(false, opA x)] (fun l =>
    let v := medianBy unsignedV (l.src false (opA x))
    let runs (j : Nat) : Bool := !undersized (l.B.member j) (guardRegs x ++ readRegs [(false, opA x)])
    let lead := (guarded l.B x l.is.mems).find? runs == some l.i
    { LaneOut.of (l.m.sibs.map (fun _ => SibOut.write (.uni x.d (SMap.get 0 l.B.k (x.d % 64))))) with
        uni := if lead then some (x.d % 64, BitVec.ofNat 32 v) else none }) s

/-- MOVS (04 R84). -/
def execMovs (x : Ext) (s : State) : Result :=
  laneRun x 15 (some 2) [] (fun l =>
    LaneOut.of (l.m.sibs.zipIdx.map (fun rk =>
      { SibOut.write (outTy x.ty.wide x.d (special l.s l.B l.i l.m rk.2 x.a).toNat) with logged := specialLogged x.a }))) s

/-- GETC, latency 4 (04 R85). -/
def execGetc (x : Ext) (s : State) : Result :=
  laneRun x 15 (some 4) [] (fun l => LaneOut.of (l.m.sibs.map (fun r => SibOut.write (.reg x.d (r.ctl x.a))))) s

/-- The value a control register holds after a write (03 R47, 04 R85). -/
def ctlWrite (n : Nat) (old new : W32) : W32 := (old &&& ~~~(ctlMask n)) ||| (new &&& ctlMask n)

/-- SETC: reconciled but for ctl.fpstatus, and a steering point even where the write is ignored (03 R56, 04 R85). -/
def execSetc (x : Ext) (s : State) : Result :=
  laneRun x 15 none [(false, opA x)] (fun l =>
    let vs := l.src false (opA x)
    let m := medianBy unsignedV vs
    { LaneOut.of (List.zipWith (fun r v =>
        { SibOut.write .none with
            ctl := [(x.d, ctlWrite x.d (r.ctl x.d) (BitVec.ofNat 32 (if x.d == 0 then v else m)))] }) l.m.sibs vs) with
        ni := if x.d == 0 then none else steerEvent [vs] }) s

end Sys2Proof.Machine
end

