-- ==== Sys2Proof/Machine/Control.lean ====
section
/-!
DEFINITION. Control flow, ELECT and VOTE, YIELD and WAITC, EXIT, NOP and the hint space (spec 02 R36, R40, R41; 04 R99 to R102).
-/
namespace Sys2Proof.Machine

/-- A jump to a target in every sibling, or MISALIGNED_PC with the target (02 R36). -/
def jumpOut (outs : List SibOut) (target : Nat) (ni : Option NiEvent) : LaneOut :=
  if target % 4 == 0 then { LaneOut.of outs with next := some target, ni := ni }
  else { LaneOut.of outs with flt := some { cause := .misalignedPc, fcode := 0, addr := target } }

def noOuts (l : LaneIn) : List SibOut := l.m.sibs.map (fun _ => SibOut.write .none)

/-- An address plus four times the signed word offset, modulo 2^57 (04 R99). -/
def offsetTarget (base : Nat) (x : Ext) : Nat := wrapN (base + 4 * x.simm) 57

/-- BRA (04 R99). -/
def execBra (x : Ext) (s : State) : Result :=
  laneRun x 32 none [] (fun l => jumpOut (noOuts l) (offsetTarget (nextPc l.m.pc x.len) x) none) s
def execBraBase (x : Base) (s : State) : Result := execBra (Base.toExt 32 x) s
/-- JMP: a register target is reconciled by median before it is checked (02 R36, 04 R99). -/
def execJmp (x : Ext) (s : State) : Result :=
  laneRun x 32 none [(true, opA x)] (fun l =>
    let vs := l.src true (opA x)
    jumpOut (noOuts l) (offsetTarget (medianBy unsignedV vs % 2 ^ 57) x) (steerEvent [vs])) s
/-- CALL: D takes the return address (04 R99). -/
def execCall (x : Ext) (s : State) : Result :=
  laneRun x 33 none (if x.m0 then [(true, opA x)] else []) (fun l =>
    let next := nextPc l.m.pc x.len
    let outs := l.m.sibs.map (fun _ => SibOut.write (.pair x.d (BitVec.ofNat 64 next)))
    if x.m0 then
      let vs := l.src true (opA x)
      jumpOut outs (medianBy unsignedV vs % 2 ^ 57) (steerEvent [vs])
    else jumpOut outs (offsetTarget next x) none) s
def execCallBase (x : Base) (s : State) : Result := execCall (Base.toExt 33 x) s
/-- RET (04 R99). -/
def execRet (x : Ext) (s : State) : Result :=
  laneRun x 33 none [(true, opA x)] (fun l =>
    let vs := l.src true (opA x)
    jumpOut (noOuts l) (medianBy unsignedV vs % 2 ^ 57) (steerEvent [vs])) s

/-- EXIT of one member: it retires and ends, its registers are discarded (04 R100). -/
def exitStep (x : Ext) (b : Nat) (a : Acc) (i : Nat) : Acc :=
  let m := (a.s.block b).member i
  let pc := nextPc m.pc x.len
  if undersized m (guardRegs x) then a.raise (trapOf m i 34 x stallFault)
  else if !m.guard x then a.retire b i x 34 m pc
  else
    let a := a.retire b i x 34 m pc
    let m := (a.s.block b).member i
    let m := { m with live := false, exited := true, sibs := m.sibs.map (fun _ => Regs.zero) }
    { a with s := a.s.setBlock b (courseAmend ((a.s.block b).setMember i m) i m) }

/-- EXIT (04 R100). -/
def execExitT (x : Ext) (s : State) : Result :=
  withIssue s fun is s => endBlock ((is.mems.foldl (exitStep x is.blk) (Acc.start s)).finish is.blk is.mems) is.blk
def execExitBase (x : Base) (s : State) : Result := execExitT (Base.toExt 34 x) s

/-- ELECT: true in the member of the lowest lane with a true guard (04 R101). -/
def execElect (x : Ext) (s : State) : Result :=
  laneRun x 35 (some 4) [] (fun l =>
    let lead := (guarded l.B x l.is.mems).head? == some l.i
    LaneOut.of (l.m.sibs.map (fun _ => SibOut.log (.pred x.d lead)))) s
def execElectBase (x : Base) (s : State) : Result := execElect (Base.toExt 35 x) s

/-- pA of every sibling of the members with a true guard, with the sibling's place in the quarter (04 R101). -/
def votes (l : LaneIn) (x : Ext) : List (Nat × Bool) :=
  (guarded l.B x l.is.mems).flatMap (fun i =>
    let m := l.B.member i
    m.sibs.zipIdx.map (fun rk => (m.lane % 48 + rk.2, rk.1.pred x.a)))

/-- VOTE.any, .all and .ballot (04 R101). -/
def execVote (x : Ext) (s : State) : Result :=
  laneRun x 35 (some 4) [(false, .pred x.a)] (fun l =>
    let vs := votes l x
    let out : Out :=
      if x.mod == 2 then .pair x.d (BitVec.ofNat 64 (vs.foldl (fun a v => if v.2 then setBitN a v.1 else a) 0))
      else if x.mod == 1 then .pred x.d (vs.all Prod.snd) else .pred x.d (vs.any Prod.snd)
    LaneOut.of (l.m.sibs.map (fun _ => SibOut.log out))) s

def noDest : Member → Nat → Nat → List Out := fun _ _ _ => []

/-- YIELD: a NOP unless the slice of the block has ended, when it is a blocking point whose condition is true (04 R102). -/
def execYield (x : Ext) (s : State) : Result :=
  memRun x 36 { reads := [], steer := [] } false noDest (fun l s =>
    if (s.block l.b).sliceEnded && l.m.wait.isNone then (s, .wait .yield) else (s, .done [])) s
def execYieldBase (x : Base) (s : State) : Result := execYield (Base.toExt 36 x) s
/-- WAITC: until REFT reaches the greatest of the siblings' values (04 R102). -/
def execWaitc (x : Ext) (s : State) : Result :=
  memRun x 36 { reads := [(true, opA x)], steer := [] } false noDest (fun l s =>
    let v := (l.src 0).foldl max 0
    if v ≤ s.reft.toNat then (s, .done []) else (s, .wait (.waitc v))) s
/-- WAITC_WAKE: REFT has reached the operand (04 R102). -/
def execWaitcWake (blk mem : Nat) (s : State) : Result :=
  .next (match (s.member blk mem).wait with
    | some (.waitc v) => if v ≤ s.reft.toNat then wakeGroup s blk mem else s
    | _ => s)

/-- NOP (02 R40). -/
def execNop (x : Ext) (s : State) : Result := laneRun x 63 none [] (fun l => LaneOut.of (noOuts l)) s
def execNopBase (x : Base) (s : State) : Result := execNop (Base.toExt 63 x) s
/-- HINT: 0x010 reads the die's frequency step, 0x020 marks the thread as spin-waiting, any other is a NOP (02 R41). -/
def execHint (x : Ext) (s : State) : Result :=
  laneRun x 63 (some 2) [] (fun l =>
    if x.minor == 0x10 then
      LaneOut.of (l.m.sibs.map (fun _ => SibOut.write (.reg x.d (BitVec.ofNat 32 (l.s.die (coreDie l.B.core)).step))))
    else if x.minor == 0x20 then { LaneOut.of (noOuts l) with spin := true }
    else LaneOut.of (noOuts l)) s
/-- SPIN_HINT_EXPIRY: the thread's quarter has issued in the last of the 64 core cycles of a hint (02 R41). -/
def execSpinHintExpiry (blk mem : Nat) (s : State) : Result :=
  .next (let m := s.member blk mem
    let c := (s.block blk).core
    if m.spin == 1 && (s.core c).issued.lookup m.quarter == some (s.die (coreDie c)).cyc then s.setMember blk mem { m with spin := 0 } else s)

end Sys2Proof.Machine
end

