-- ==== Sys2Proof/Machine/Fetch.lean ====
section
/-!
DEFINITION. Fetching an instruction (spec 02 R35, R37, R38) and the placing of one instruction where the next step fetches it.
-/
namespace Sys2Proof.Machine

/-- The master of a block's own accesses: kind THREAD, K pages only in a handler (18 R317, R321; 19 R346). -/
def threadOf (B : Block) : Who :=
  { region := B.region, kind := 0, priv := B.handler.isSome, core := some B.core, die := some (coreDie B.core), src := 0 }

/-- Code address of a block's code: of its stage, of its grid, or of the handler (15 R256, R271; 19 R346). -/
def codeOf (s : State) (B : Block) : Nat :=
  match B.handler with
  | some _ => (s.eff 4 B.region).handler
  | none => match (s.grid B.grid).stages[B.stage]? with
    | some st => st.code
    | none => (s.grid B.grid).code

/-- Cores of a die that hold a resident block with a code address; every launched grid has the device's code stamp (02 R37, 18 R325). -/
def coresWithCode (s : State) (die code : Nat) : List Nat :=
  (s.blocks.filter (fun kv => coreDie kv.2.core == die && kv.2.resident && codeOf s kv.2 == code)).foldl
    (fun a kv => if a.contains kv.2.core then a else a ++ [kv.2.core]) []

def findLine (s : State) (B : Block) (line : Nat) : Option CodeLine :=
  (s.core B.core).icache.find? (fun l => l.region == B.region && l.code == codeOf s B && l.va == line)

/-- Fill one 64-byte line and multicast it to the cores of the die with the same code (02 R37). A core holds 128 KiB of lines, the newest
ones (01 R17; notes/assumptions/15.md); a line is found under the region that fetched it. -/
def fillLine (s : State) (B : Block) (line : Nat) : State × Except Flt (List Byte) :=
  if windowOf line != .translated then (s, .error { cause := .addrRange, fcode := 0, addr := line })
  else match reach s (threadOf B) line 64 .fetch 1 with
    | (s, .error f) => (s, .error f)
    | (s, .ok p) =>
      let bytes := Memory.read s.mem p.key 64
      let s := countReq s { threadOf B with core := none } p p.key 0
      let l : CodeLine := { region := B.region, code := codeOf s B, va := line, bytes := bytes }
      ((coresWithCode s (coreDie B.core) l.code).foldl (fun s c =>
        let C := s.core c
        s.setCore c { C with icache := (l :: C.icache.filter (fun k =>
          !(k.region == l.region && k.code == l.code && k.va == l.va))).take 2048 }) s, .ok bytes)

/-- The 64-byte line that holds the PC. -/
def fetchLine (s : State) (B : Block) (pc : Nat) : State × Except Flt (List Byte) :=
  match findLine s B (pc - pc % 64) with
  | some l => (s, .ok l.bytes)
  | none => fillLine s B (pc - pc % 64)

/-- The bytes of the instruction of an issue: those of a replay entry, or those at the PC up to the end of the line. -/
def fetchBytes (s : State) (is : Issue) : State × Except Flt (List Byte) :=
  match is.words with
  | some w => (s, .ok w)
  | none =>
    let B := s.block is.blk
    let pc := (B.member (is.mems.headD 0)).pc
    match fetchLine s B pc with
    | (s, .error f) => (s, .error f)
    | (s, .ok l) => (s, .ok (l.drop (pc % 64)))

/-- A fault of the whole issue before the instruction executes: fetch and decode faults, every lane in the group (02 R38). -/
def fetchTrap (s : State) (is : Issue) (words : List Byte) (f : Flt) : State :=
  let B := s.block is.blk
  let m := B.member (is.mems.headD 0)
  let t : Trap := { cause := f.cause, fcode := f.fcode, addr := f.addr, pc := m.pc, icount := m.icount, words := words,
                    micro := 0xFF, tag := 0, quarter := m.quarter, lanes := groupMask B is.mems, done := 0, mems := is.mems }
  takeTrap (reseat { s with cur := none } is.blk is.mems) is.blk t

/-- Where `placeWord` puts things: control block, tables, code (notes/assumptions/10.md). -/
def placedRegion : Region := { Region.none with
  paddr := 0x1000, ovr := 0x3FF, weight := 1, cores := 256, slots := 589824, slice := 10, grace := 1, vquota := 2 ^ 40,
  dquota := 2 ^ 40, root := 0x10000, live := true, effSlice := 10 }

/-- Five tables that map virtual address 0x100000 to device memory at 0x100000 (18 R315, R316): V R W X A D. -/
def placedTables : List (Nat × Nat) :=
  [(0x10000, 0x11001), (0x11000, 0x12001), (0x12000, 0x13001), (0x13000, 0x14001), (0x14080, 0x100000 * 2 + 0x6F)]

def placedMember : Member :=
  { Member.none with live := true, pc := 0x100000, sibs := [Regs.new 0 0] }

/-- A running block of one solo thread at 0x100000 on core 0, its region, its page tables and its access-table entry, with
the bytes stored at 0x100000 and the thread selected for issue. -/
def placeWord (s : State) (bytes : List Byte) : State :=
  let b := s.nextBlock
  let g := s.nextGrid
  let mem := placedTables.foldl (fun m t => Memory.write m t.1 (leBytes 8 t.2)) (Memory.write s.mem 0x100000 bytes)
  let B : Block := { Block.none with
    grid := g, region := 1, tb := 1, members := [(0, placedMember)], state := .running, spadSize := 4096, lsSize := 16 }
  let G : Grid := { Grid.none with region := 1, code := 0x100000, nblocks := 1, nextBlk := 1, complete := false }
  { s with
    mem := mem
    nextBlock := b + 1
    nextGrid := g + 1
    regions := SMap.put s.regions 1 placedRegion
    grids := SMap.put s.grids g G
    blocks := SMap.put s.blocks b B
    atab := SMap.put s.atab 0 (BitVec.ofNat 128 (1 + 15 * 2 ^ 32 + 0x3FFFFF * 2 ^ 96))
    cur := some { blk := b, mems := [0], words := none } }

end Sys2Proof.Machine
end

