-- ==== Sys2Proof/Machine/Data.lean ====
section
/-!
DEFINITION. One member's accesses to the six kinds of memory: windows, checks in the order of spec 10 R193, lane store, scratchpad
and translated pages by their representation (03 R63 to R68, 10 R177 to R180, 12 R219), and what an ordering code does to the
caches (10 R186, R195).
-/
namespace Sys2Proof.Machine

def fltOf (c : Cause) (a : Int) : Flt := { cause := c, fcode := 0, addr := wrapN a 64 }

/-- The block whose scratchpad partition a block reaches: a handler reaches the stopped block's (19 R346). -/
def spadHome (s : State) (b : Nat) : Nat :=
  match (s.block b).handler with
  | some h => h.block.getD b
  | none => b

/-- Size of the reachable scratchpad partition; an asynchronous handler has none (19 R347). -/
def spadSizeOf (s : State) (b : Nat) : Nat := (s.block (spadHome s b)).spadSize

def spadRead (s : State) (b off n : Nat) : List Byte := storeRead (s.block (spadHome s b)).spad off n
def spadWrite (s : State) (b off : Nat) (bs : List Byte) : State :=
  let h := spadHome s b
  s.setBlock h { s.block h with spad := storeWrite (s.block h).spad off bs }

/-- Where a checked access of `w` bytes goes (10 R177 to R180, R189, R193). -/
inductive Place1 where
  | lane (off : Nat)
  | spad (off : Nat)
  | page (va : Nat)
  deriving DecidableEq, Repr

/-- A lane-store offset (10 R179). -/
def laneOff (B : Block) (off : Int) (w : Nat) : Except Flt Place1 :=
  if !(decide (0 ≤ off) && decide (off + w ≤ B.lsSize)) then .error (fltOf .addrRange (off + 0x01D0_0000_0000_0000))
  else if off % w != 0 then .error (fltOf .misalignedAddr (off + 0x01D0_0000_0000_0000))
  else .ok (.lane off.toNat)

/-- A scratchpad offset (10 R180). -/
def spadOff (size : Nat) (off : Int) (w : Nat) : Except Flt Place1 :=
  if !(decide (0 ≤ off) && decide (off + w ≤ size)) then .error (fltOf .addrRange (off + 0x01E0_0000_0000_0000))
  else if off % w != 0 then .error (fltOf .misalignedAddr (off + 0x01E0_0000_0000_0000))
  else .ok (.spad off.toNat)

/-- A full virtual address: range, sync space, alignment (10 R193 steps 3 to 5). -/
def placeVa (s : State) (b : Nat) (va : Int) (w : Nat) : Except Flt Place1 :=
  if va < 0 then .error (fltOf .addrRange va)
  else match windowOf va.toNat with
    | .outside => .error (fltOf .addrRange va)
    | .sync _ _ => .error (fltOf .syncSpace va)
    | .lane => laneOff (s.block b) (va % 2 ^ 12) w
    | .spad => spadOff (spadSizeOf s b) (va % 2 ^ 19) w
    | .translated =>
      if physHole s (threadOf (s.block b)) va.toNat w then .error (fltOf .addrRange va)
      else if va % w != 0 then .error (fltOf .misalignedAddr va) else .ok (.page va.toNat)

/-- Lane-store bytes of one sibling. -/
def lsRead (r : Regs) (off n : Nat) : List Byte := storeRead r.ls off n
def lsWrite (r : Regs) (off : Nat) (bs : List Byte) : Regs := { r with ls := storeWrite r.ls off bs }

/-- Virtual address of a digit byte (03 R66). -/
def digitVa (m : Member) (va : Nat) : Nat := (m.first.ctl64 6).toNat % 2 ^ 57 + va / 4

/-- Where a digit byte goes: like any byte access of the thread. -/
def digitPlace (s : State) (b : Nat) (m : Member) (va : Nat) : Except Flt Place1 := placeVa s b (digitVa m va) 1

/-- Check a digit byte's access, whatever the REP of its page (03 R66). -/
def digitCheck (s : State) (b : Nat) (m : Member) (va : Nat) (k : AccKind) : State × Except Flt (Place1 × Option Page) :=
  match digitPlace s b m va with
  | .error f => (s, .error f)
  | .ok (.page a) => match reach s (threadOf (s.block b)) a 1 k 1 with
    | (s, .error f) => (s, .error f)
    | (s, .ok p) => (s, .ok (.page a, some p))
  | .ok pl => (s, .ok (pl, none))

def digitStore (s : State) (b i : Nat) (pl : Place1 × Option Page) (d : Nat) : State :=
  let bs := [BitVec.ofNat 8 d]
  match pl with
  | (.lane off, _) =>
    let m := s.member b i
    s.setMember b i { m with sibs := m.sibs.map (fun r => lsWrite r off bs) }
  | (.spad off, _) => spadWrite s b off bs
  | (.page _, some p) => storeKey s (threadOf (s.block b)) p p.key bs
  | (.page _, none) => s

def digitLoad (s : State) (b : Nat) (m : Member) (pl : Place1 × Option Page) : State × Nat :=
  match pl with
  | (.lane off, _) => (s, leNat (lsRead m.first off 1))
  | (.spad off, _) => (s, leNat (spadRead s b off 1))
  | (.page _, some p) => let (s, bs) := loadKey s (threadOf (s.block b)) p p.key 1; (s, leNat bs)
  | (.page _, none) => (s, 0)

/-- Word addresses that an access touches (03 R66). -/
def touchedWords (va n : Nat) : List Nat := (List.range ((va % 4 + n + 3) / 4)).map (fun k => va / 4 * 4 + 4 * k)

/-- Load a value of TYPE for every sibling of a member (03 R64, R65, R67; 10 R179, R180). -/
def loadPlace (s : State) (b : Nat) (m : Member) (t : Ty) (pl : Place1) : State × Except Flt (List Nat) :=
  let w := tyBytes t
  let n := m.nsib
  match pl with
  | .lane off => (s, .ok (m.sibs.map (fun r => leNat (lsRead r off w))))
  | .spad off => (s, .ok (List.replicate n (leNat (spadRead s b off w))))
  | .page va =>
    let who := threadOf (s.block b)
    match reach s who va w .read n with
    | (s, .error f) => (s, .error f)
    | (s, .ok p) =>
      if p.rep == 1 && n == 3 then
        let (s, vs) := (List.range 3).foldl (fun (acc : State × List Nat) k =>
          let (s, bs) := loadKey acc.1 who p (p.plane k) w
          (s, acc.2 ++ [leNat bs])) (s, [])
        (s, .ok vs)
      else if p.rep == 2 && n == 3 && t.float then
        match digitCheck s b m (va / 4 * 4) .read with
        | (s, .error f) => (s, .error f)
        | (s, .ok dp) =>
          let (s, bs) := loadKey s who p p.key w
          let (s, d) := digitLoad s b m dp
          (s, .ok (digestSpread t (leNat bs) d))
      else
        let (s, bs) := loadKey s who p p.key w
        (s, .ok (List.replicate n (leNat bs)))

/-- Check every digit byte of a store before anything is written (03 R66). -/
def digitChecks (s : State) (b : Nat) (m : Member) : List Nat → State × Except Flt (List (Place1 × Option Page))
  | [] => (s, .ok [])
  | va :: r =>
    match digitCheck s b m va .write with
    | (s, .error f) => (s, .error f)
    | (s, .ok pl) =>
      match digitChecks s b m r with
      | (s, .error f) => (s, .error f)
      | (s, .ok ps) => (s, .ok (pl :: ps))

/-- Store the siblings' values of TYPE (03 R64 to R66; 10 R179, R180). -/
def storePlace (s : State) (b i : Nat) (t : Ty) (pl : Place1) (vs : List Nat) : State × Option Flt :=
  let w := tyBytes t
  let m := s.member b i
  let bytes (v : Nat) : List Byte := leBytes w v
  match pl with
  | .lane off =>
    (s.setMember b i { m with sibs := m.sibs.zipIdx.map (fun rk => lsWrite rk.1 off (bytes (vs.getD rk.2 0))) }, none)
  | .spad off => (spadWrite s b off (bytes (tyStored t vs)), none)
  | .page va =>
    let who := threadOf (s.block b)
    match reach s who va w .write 3 with
    | (s, .error f) => (s, some f)
    | (s, .ok p) =>
      if p.rep == 1 then
        ((List.range 3).foldl (fun s k => storeKey s who p (p.plane k) (bytes (vs.getD k (vs.headD 0)))) s, none)
      else if p.rep == 2 then
        match digitChecks s b m (touchedWords va w) with
        | (s, .error f) => (s, some f)
        | (s, .ok dps) =>
          let s := storeKey s who p p.key (bytes (tyStored t vs))
          (dps.foldl (fun s dp => digitStore s b i dp (digitByte t vs)) s, none)
      else (storeKey s who p p.key (bytes (tyStored t vs)), none)

/-- Lines of the core's L1 are invalidated by an acquire or an SC fence of scope die or wider (10 R186), and elements that the
thread's walkers hold ahead are discarded by an acquire or fence wider than thread (10 R195). -/
def MOrd.acquires : MOrd → Bool
  | .acquire | .acqRel | .sc => true
  | _ => false
def Scope.wide : Scope → Bool
  | .die | .device | .fabric | .system => true
  | _ => false
def dropAhead (s : State) (b i : Nat) : State :=
  let m := s.member b i
  if m.walkers.any (fun w => w.2.ahead != []) then
    s.setMember b i { m with walkers := m.walkers.map (fun w => (w.1, { w.2 with ahead := [] })) }
  else s
def acquireEffect (s : State) (b i : Nat) (o : MOrd) (sc : Scope) : State :=
  if MOrd.acquires o && sc != .thread then
    let s := dropAhead s b i
    if Scope.wide sc then flushL1 s (s.block b).core else s
  else s

/-- A store with ORD sc is an SC event, which orders later loads of the thread after SC events that precede it: no line of the L1 filled
before it serves them (11 R202 case 2, R205; 10 R186). -/
def storeEffect (s : State) (b : Nat) (o : MOrd) (sc : Scope) : State :=
  if o == .sc && Scope.wide sc then flushL1 s (s.block b).core else s

/-- Coordinates and record of a record access: the record in B, index A or the immediate, i1 in C under MOD[1]
(12 R218, R219). -/
def indexReads (x : Ext) : Bool × Opnd := if x.m0 then noRead else (false, opA x)
def Block.buffer (B : Block) (n : Nat) : BitVec 256 := SMap.get 0 B.buf (n % 32)

/-- Where a record access of one member goes: `.ok none` is out of bounds under ZERO (10 R192, R193). -/
def recordPlace (s : State) (b : Nat) (rec_ : BitVec 256) (i0 i1 : Int) (w : Nat) : Except Flt (Option Place1) :=
  match addressOf rec_ i0 i1 0 w with
  | .outOfBounds => if recBounds rec_ == 1 then .ok none else .error (fltOf .bounds 0)
  | .invalid => .error (fltOf .recordInvalid 0)
  | .addr a => (placeVa s b a w).map some

/-- i0 of a member: reconciled index plus the immediate (12 R219). -/
def indexOf (x : Ext) (l : MemIn) : Int :=
  if x.m0 then x.simm else sextN (medianBy (signedV 32) (l.src 0)) 32 + x.simm
def coord1 (x : Ext) (l : MemIn) : Int := if x.m1 then sextN (medianBy (signedV 32) (l.src 2)) 32 else 0

/-- A window offset of a member: reconciled register plus the immediate, or the immediate (12 R219). -/
def windowOffset (x : Ext) (l : MemIn) : Int :=
  if x.m0 then x.simm else (medianBy unsignedV (l.src 0) : Int) + x.simm

/-- A full address of a member: reconciled pair plus the immediate (12 R226). -/
def addressOfPair (x : Ext) (l : MemIn) : Int := (medianBy unsignedV (l.src 0) : Int) + x.simm

/-- Log a block register's value after a write to it in the course, part by part for every sibling (20 R363). -/
def logBlockReg (s : State) (b i dest parts : Nat) (value : Nat) : State :=
  let B := s.block b
  match B.course with
  | none => s
  | some c =>
    if c.current.written.contains dest then
      s.setBlock b (courseLog B (fun c => (List.range (B.member i).nsib).flatMap (fun sib =>
        (List.range parts).map (fun p => { value := BitVec.ofNat 64 (value / 2 ^ (64 * p)), dest := dest, part := p,
                                           member := i, sib := sib, count := courseCount c i, late := false }))))
    else s
/-- Log what an instruction reads of a block register, once for an instruction that is taken up again (20 R363). -/
def logBlockRead (s : State) (b i dest parts : Nat) (value : Nat) : State :=
  if (s.member b i).cap.isNone then logBlockReg s b i dest parts value else s
def useBuffer (s : State) (b i n : Nat) : State × BitVec 256 :=
  let r := (s.block b).buffer n
  (logBlockRead s b i (200 + n % 32) 4 r.toNat, r)

end Sys2Proof.Machine
end

