-- ==== Sys2Proof/Machine/MemInstr.lean ====
section
/-!
DEFINITION. Loads, stores, LDBUF, PRF, full/empty words and walkers (spec 10 R194 to R196; 12 R219 to R228).
-/
namespace Sys2Proof.Machine

/-- Destination D of TYPE, extended (04 R71). -/
def loadDest (x : Ext) : Member → Nat → Nat → List Out := fun _ _ v => [outTy x.ty.wide x.d (loadExtend x.ty v)]

/-- Sources of a record access: index in A, i1 in C under MOD[1], data in D for a store (12 R218). -/
def recordReads (x : Ext) (store : Bool) : List (Bool × Opnd) :=
  [indexReads x, noRead, if x.m1 then (false, .lane x.c) else noRead, if store then (x.ty.wide, .lane x.d) else noRead]

def resOf (r : State × Except Flt (List Nat)) : State × MemRes :=
  match r with
  | (s, .ok vs) => (s, .done vs)
  | (s, .error f) => (s, .fault f)
def resOfStore (r : State × Option Flt) : State × MemRes :=
  match r with
  | (s, none) => (s, .done [])
  | (s, some f) => (s, .fault f)

/-- LD (12 R219, R220). An acquire takes its effect on the caches before and after the access (10 R186). -/
def execLd (x : Ext) (s : State) : Result :=
  memRun x 40 { reads := recordReads x false, steer := [0, 2] } true (loadDest x) (fun l s =>
    let (s, r) := useBuffer s l.b l.i x.b
    match recordPlace s l.b r (indexOf x l) (coord1 x l) (tyBytes x.ty) with
    | .error f => (s, .fault f)
    | .ok none => (s, .done (List.replicate l.m.nsib 0))
    | .ok (some pl) =>
      let s := acquireEffect s l.b l.i x.ord x.scope
      match loadPlace s l.b l.m x.ty pl with
      | (s, .error f) => (s, .fault f)
      | (s, .ok vs) => (acquireEffect s l.b l.i x.ord x.scope, .done vs)) s
def execLdBase (x : Base) (s : State) : Result := execLd (Base.toExt 40 x) s
/-- ST (12 R219, R220); with ORD sc an SC event (11 R202). -/
def execSt (x : Ext) (s : State) : Result :=
  memRun x 40 { reads := recordReads x true, steer := [0, 2] } false noDest (fun l s =>
    let (s, r) := useBuffer s l.b l.i x.b
    match recordPlace s l.b r (indexOf x l) (coord1 x l) (tyBytes x.ty) with
    | .error f => (s, .fault f)
    | .ok none => (s, .done [])
    | .ok (some pl) => match storePlace s l.b l.i x.ty pl (l.src 3) with
      | (s, some f) => (s, .fault f)
      | (s, none) => (storeEffect s l.b x.ord x.scope, .done [])) s

/-- Bytes at a checked place, of sibling 0 or plane 0. -/
def bytesAtPlace (s : State) (b : Nat) (m : Member) (n : Nat) (pl : Place1) : State × Except Flt (List Byte) :=
  match pl with
  | .lane off => (s, .ok (lsRead m.first off n))
  | .spad off => (s, .ok (spadRead s b off n))
  | .page va =>
    match reach s (threadOf (s.block b)) va n .read 1 with
    | (s, .error f) => (s, .error f)
    | (s, .ok p) => let (s, bs) := loadKey s (threadOf (s.block b)) p p.key n; (s, .ok bs)

/-- Write a buffer register of the block, with its course entries (12 R226, 20 R363). -/
def writeBuffer (s : State) (b i n : Nat) (r : BitVec 256) : State :=
  let B := s.block b
  let s := s.setBlock b (courseWrote { B with buf := SMap.set 0 B.buf (n % 32) r } (200 + n % 32))
  logBlockReg s b i (200 + n % 32) 4 r.toNat

/-- LDBUF (12 R226): once per issue, with the lowest lane's record. -/
def execLdbuf (x : Ext) (s : State) : Result :=
  onceRun x 40 { reads := [(true, opA x), noRead, noRead, noRead], steer := [0] } false noDest (fun l s =>
    match placeVa s l.b (addressOfPair x l) 32 with
    | .error f => (s, .fault f)
    | .ok pl =>
      match bytesAtPlace s l.b l.m 32 pl with
      | (s, .error f) => (s, .fault f)
      | (s, .ok bs) =>
        let r := BitVec.ofNat 256 (leNat bs)
        if recordOk r then (writeBuffer s l.b l.i x.d r, .done [])
        else (s, .fault (fltOf .recordInvalid (addressOfPair x l)))) s

/-- PRF (12 R225): a bounds, translation or access failure does nothing. -/
def execPrf (x : Ext) (s : State) : Result :=
  memRun x 40 { reads := recordReads x false, steer := [0, 2] } false noDest (fun l s =>
    let (s, r) := useBuffer s l.b l.i x.b
    match recordPlace s l.b r (indexOf x l) (coord1 x l) (tyBytes x.ty) with
    | .error f => if f.cause == .bounds then (s, .done []) else (s, .fault f)
    | .ok (some (.page va)) =>
      match reach s (threadOf (s.block l.b)) va (tyBytes x.ty) .read 1 with
      | (s, .error _) => (s, .done [])
      | (s, .ok p) =>
        if p.cached then ((loadKey s (threadOf (s.block l.b)) p p.key (tyBytes x.ty)).1, .done []) else (s, .done [])
    | .ok _ => (s, .done [])) s

/-- Sources of a window access: offset in A, data in D for a store (12 R218). -/
def windowReads (x : Ext) (store : Bool) : List (Bool × Opnd) :=
  [indexReads x, noRead, noRead, if store then (x.ty.wide, .lane x.d) else noRead]

/-- LDL and STL: the thread's lane-store partition (12 R221). -/
def execLdl (x : Ext) (s : State) : Result :=
  memRun x 41 { reads := windowReads x false, steer := [0] } true (loadDest x) (fun l s =>
    match laneOff (s.block l.b) (windowOffset x l) (tyBytes x.ty) with
    | .error f => (s, .fault f)
    | .ok pl => resOf (loadPlace s l.b (s.member l.b l.i) x.ty pl)) s
def execLdlBase (x : Base) (s : State) : Result := execLdl (Base.toExt 41 x) s
def execStl (x : Ext) (s : State) : Result :=
  memRun x 41 { reads := windowReads x true, steer := [0] } false noDest (fun l s =>
    match laneOff (s.block l.b) (windowOffset x l) (tyBytes x.ty) with
    | .error f => (s, .fault f)
    | .ok pl => resOfStore (storePlace s l.b l.i x.ty pl (l.src 3))) s

/-- LDS and STS: the block's scratchpad partition (12 R221). -/
def execLds (x : Ext) (s : State) : Result :=
  memRun x 42 { reads := windowReads x false, steer := [0] } true (loadDest x) (fun l s =>
    match spadOff (spadSizeOf s l.b) (windowOffset x l) (tyBytes x.ty) with
    | .error f => (s, .fault f)
    | .ok pl =>
      let s := acquireEffect s l.b l.i x.ord x.scope
      resOf (loadPlace s l.b l.m x.ty pl)) s
def execLdsBase (x : Base) (s : State) : Result := execLds (Base.toExt 42 x) s
def execSts (x : Ext) (s : State) : Result :=
  memRun x 42 { reads := windowReads x true, steer := [0] } false noDest (fun l s =>
    match spadOff (spadSizeOf s l.b) (windowOffset x l) (tyBytes x.ty) with
    | .error f => (s, .fault f)
    | .ok pl => resOfStore (storePlace s l.b l.i x.ty pl (l.src 3))) s

/-- Full/empty bit of a scratchpad word (10 R182). -/
def fullBit (s : State) (b off : Nat) : Bool := SMap.get false (s.block (spadHome s b)).full (off / 4)
def setFull (s : State) (b off : Nat) (v : Bool) : State :=
  let h := spadHome s b
  s.setBlock h { s.block h with full := SMap.set false (s.block h).full (off / 4) v }

/-- An aligned word of the partition. -/
def wordOff (s : State) (b : Nat) (x : Ext) (l : MemIn) : Except Flt Nat :=
  match spadOff (spadSizeOf s b) (windowOffset x l) 4 with
  | .error f => .error f
  | .ok (.spad off) => .ok off
  | .ok _ => .ok 0

/-- LDX: the word and its full/empty bit (12 R222). The bit travels above the 32 bits of data. -/
def execLdx (x : Ext) (s : State) : Result :=
  memRun x 42 { reads := windowReads x false, steer := [0] } true
    (fun _ _ v => [.reg x.d (BitVec.ofNat 32 v), .pred x.c (bitN v 32)]) (fun l s =>
    match wordOff s l.b x l with
    | .error f => (s, .fault f)
    | .ok off =>
      let v := leNat (spadRead s l.b off 4) + boolN (fullBit s l.b off) * 2 ^ 32
      (s, .done (List.replicate l.m.nsib v))) s

/-- LDF: waits until the word is full, then reads it and sets it empty (12 R223); like STE, TAGSET and TAGCLR an acquire at core scope
(11 R204), which discards elements that walkers hold ahead (10 R195). -/
def execLdf (x : Ext) (s : State) : Result :=
  memRun x 43 { reads := windowReads x false, steer := [0] } true (loadDest x) (fun l s =>
    match wordOff s l.b x l with
    | .error f => (s, .fault f)
    | .ok off =>
      if fullBit s l.b off then
        (acquireEffect (setFull s l.b off false) l.b l.i .acquire .core, .done (List.replicate l.m.nsib (leNat (spadRead s l.b off 4))))
      else (s, .wait (.ldf off))) s
def execLdfBase (x : Base) (s : State) : Result := execLdf (Base.toExt 43 x) s
/-- STE: waits until the word is empty, then writes it and sets it full (12 R223). -/
def execSte (x : Ext) (s : State) : Result :=
  memRun x 43 { reads := windowReads x true, steer := [0] } false noDest (fun l s =>
    match wordOff s l.b x l with
    | .error f => (s, .fault f)
    | .ok off =>
      let v := tyStored x.ty (l.src 3)
      if fullBit s l.b off then (s, .wait (.ste off (BitVec.ofNat 32 v)))
      else (acquireEffect (setFull (spadWrite s l.b off (leBytes 4 v)) l.b off true) l.b l.i .acquire .core, .done [])) s
/-- FULL_EMPTY_TRANSITION: a waiting LDF or STE finds its word in the awaited state and is taken up again (12 R223). -/
def execFullEmptyTransition (blk mem : Nat) (s : State) : Result :=
  .next (match (s.member blk mem).wait with
    | some (.ldf off) => if fullBit s blk off then wakeGroup s blk mem else s
    | some (.ste off _) => if fullBit s blk off then s else wakeGroup s blk mem
    | _ => s)

/-- TAGSET and TAGCLR (12 R224); the word count of a triad is reconciled too (notes/assumptions/109.md). -/
def tagRun (x : Ext) (v : Bool) (s : State) : Result :=
  memRun x 43 { reads := [indexReads x, if x.m1 then (false, .lane x.b) else noRead, noRead, noRead], steer := [0, 1] } false
    noDest (fun l s =>
      let n := if x.m1 then medianBy unsignedV (l.src 1) else 1
      let o := windowOffset x l
      if n == 0 || decide (1024 < n) then (s, .fault (fltOf .addrRange (o + 0x01E0_0000_0000_0000)))
      else match spadOff (spadSizeOf s l.b) o 4, spadOff (spadSizeOf s l.b) (o + 4 * ((n : Int) - 1)) 4 with
        | .ok (.spad off), .ok _ =>
          (acquireEffect ((List.range n).foldl (fun s k => setFull s l.b (off + 4 * k) v) s) l.b l.i .acquire .core, .done [])
        | .error f, .ok _ => (s, .fault f)
        | .ok _, .ok _ => (s, .done [])
        | .error f, .error g => (s, .fault (if f.cause == .misalignedAddr then g else f))
        | .ok _, .error f => (s, .fault f)) s
def execTagset (x : Ext) (s : State) : Result := tagRun x true s
def execTagclr (x : Ext) (s : State) : Result := tagRun x false s

/-- A walk descriptor (12 R227): whether its reserved fields are 0 and no two non-adjacent dimensions share a predicate. -/
def descOk (d : List Byte) : Bool :=
  let pred := fieldAt d 48 2
  let p (i : Nat) : Nat := bitsAt pred (3 * i) 3
  pred / 2 ^ 12 == 0 && fieldAt d 50 14 == 0 && !(p 0 == p 2 && p 0 != 7) && !(p 0 == p 3 && p 0 != 7) &&
    !(p 1 == p 3 && p 1 != 7)

def descWalker (d : List Byte) (r : BitVec 256) (t : Ty) : Walker :=
  { bound := true, record := r, ty := t, a0 := sextN (fieldAt d 0 4) 32, a1 := sextN (fieldAt d 4 4) 32
    dims := (List.range 4).map (fun k =>
      { count := fieldAt d (8 + 2 * k) 2 + 1, s0 := sextN (fieldAt d (16 + 8 * k) 4) 32,
        s1 := sextN (fieldAt d (20 + 8 * k) 4) 32, pred := bitsAt (fieldAt d 48 2) (3 * k) 3 })
    next := 0, ahead := [] }

/-- WALK.bind (12 R227). -/
def execWalkBind (x : Ext) (s : State) : Result :=
  memRun x 44 { reads := [(false, opA x), noRead, noRead, noRead], steer := [0] } false noDest (fun l s =>
    let off := medianBy unsignedV (l.src 0)
    if off % 64 != 0 || decide (spadSizeOf s l.b < off + 64) then
      (s, .fault (fltOf .addrRange (off + 0x01E0_0000_0000_0000)))
    else
      let d := spadRead s l.b off 64
      if !descOk d then (s, .fault (fltOf .walkDescriptor (off + 0x01E0_0000_0000_0000)))
      else
        let (s, r) := useBuffer s l.b l.i x.b
        let m := s.member l.b l.i
        (s.setMember l.b l.i { m with walkers := SMap.put m.walkers (x.d % 8) (descWalker d r x.ty) }, .done [])) s
def execWalkBindBase (x : Base) (s : State) : Result := execWalkBind (Base.toExt 44 x) s

/-- Elements of a walker's sequence (10 R194). -/
def Walker.total (w : Walker) : Nat := w.dims.foldl (fun a d => a * d.count) 1
/-- The index j_d of element `n` in each dimension. -/
def walkIndex : List WalkDim → Nat → List Nat
  | [], _ => []
  | d :: r, n => n % d.count :: walkIndex r (n / d.count)

/-- Load element `n` of a walker (10 R194). -/
def walkElement (s : State) (b : Nat) (m : Member) (w : Walker) (n : Nat) : State × Except Flt (List Nat) :=
  let js := walkIndex w.dims n
  let i0 := (List.zipWith (fun (d : WalkDim) (j : Nat) => (j : Int) * d.s0) w.dims js).foldl (· + ·) w.a0
  let i1 := (List.zipWith (fun (d : WalkDim) (j : Nat) => (j : Int) * d.s1) w.dims js).foldl (· + ·) w.a1
  match recordPlace s b w.record i0 i1 (tyBytes w.ty) with
  | .error f => (s, .error f)
  | .ok none => (s, .ok (List.replicate m.nsib 0))
  | .ok (some pl) => loadPlace s b m w.ty pl

/-- The predicates that a read of element `n` writes: true when every dimension up to d is at its last index; after the last
element all are true. A predicate of two dimensions takes the higher one's value (10 R194). -/
def walkPreds (w : Walker) (n : Nat) : List Out :=
  let js := walkIndex w.dims n
  let last := List.zipWith (fun (d : WalkDim) j => decide (j + 1 = d.count)) w.dims js
  w.dims.zipIdx.map (fun dk => .pred dk.1.pred (decide (w.total ≤ n) || (last.take (dk.2 + 1)).all id))

/-- WALK.next (12 R228). The element consumed is the one before the walker's next index. -/
def execWalkNext (x : Ext) (s : State) : Result :=
  let wn := x.a % 8
  memRun x 44 { reads := [], steer := [] } true
    (fun m _ v =>
      let w := m.walker wn
      if w.bound then outTy x.ty.wide x.d (loadExtend x.ty v) :: walkPreds w (w.next - 1)
      else [outTy x.ty.wide x.d 0]) (fun l s =>
      let m := s.member l.b l.i
      let w := m.walker wn
      if !w.bound then (s, .done (List.replicate m.nsib 0))
      else if w.ty != x.ty then (s, .fault (fltOf .walkerType 0))
      else
        let step (s : State) (w' : Walker) : State :=
          let m := s.member l.b l.i
          s.setMember l.b l.i { m with walkers := SMap.put m.walkers wn w' }
        if w.total ≤ w.next then (step s { w with next := w.total }, .done (List.replicate m.nsib 0))
        else match w.ahead with
          | some vs :: r => (step s { w with next := w.next + 1, ahead := r }, .done (vs.map BitVec.toNat))
          | _ =>
            match walkElement s l.b m w w.next with
            | (s, .error f) => (s, .fault f)
            | (s, .ok vs) => (step s { w with next := w.next + 1, ahead := w.ahead.drop 1 }, .done vs)) s

/-- WALKER_RUN_AHEAD: the address engine loads one more element ahead, at most 16 (10 R195). Its requests are the thread's; which PC
their sample records name is open (20 R371; notes/assumptions/100.md). -/
def execWalkerRunAhead (blk mem w : Nat) (s : State) : Result :=
  .next (
    let B := s.block blk
    let m := B.member mem
    let k := m.walker w
    let n := k.next + k.ahead.length
    if B.state == .running && m.live && k.bound && decide (k.ahead.length < 16) && decide (n < k.total) then
      let (s, r) := walkElement { s with reqs := [] } blk m k n
      let v := match r with
        | .ok vs => some (vs.map (BitVec.ofNat 64))
        | .error _ => none
      let m := s.member blk mem
      let s := s.setMember blk mem { m with walkers := SMap.put m.walkers (w % 8) { k with ahead := k.ahead ++ [v] } }
      sampleLanes s B m.pc
    else s)

end Sys2Proof.Machine
end

