-- ==== Sys2Proof/Machine/Atomic.lean ====
section
/-!
DEFINITION. Atomics, fences, sync space, tags, owner bits and the issue of copies (spec 12 R229 to R239; 10 R188, R189; 03 R68).
-/
namespace Sys2Proof.Machine

/-- The new value of an atomic (12 R229): add, min, max, and, or, xor, exch, cas by number. -/
def atomNew (op : Nat) (t : Ty) (old c d : Nat) : Nat :=
  let w := t.width
  let old := old % 2 ^ w
  let c := c % 2 ^ w
  match op with
  | 0 => (old + c) % 2 ^ w
  | 1 => if ival t c < ival t old then c else old
  | 2 => if ival t old < ival t c then c else old
  | 3 => old &&& c
  | 4 => old ||| c
  | 5 => old ^^^ c
  | 6 => c
  | _ => if old = d % 2 ^ w then c else old

/-- Whether a page's ATOM field has a place of atomics for its space (10 R188): CACHE 0, SYNC 1, SYSTEM 2, NONE 3. -/
def Page.atomOk (p : Page) : Bool :=
  if 2 ^ 48 ≤ p.key then decide (p.atom < 2) else if hostKey p.key then p.atom == 2 else decide (p.atom < 3)

/-- Translate an atomic, check its place, then its target at every plane (12 R229, 18 R322). -/
def reachAtomic (s : State) (w : Who) (va n planes : Nat) : State × Except Flt Page :=
  match translate s w va n .atomic with
  | (s, .error f) => (s, .error f)
  | (s, .ok p) => if p.atomOk then reach s w va n .atomic planes else (s, .error { cause := .atomPlace, fcode := 0, addr := va })

/-- The one value that a triad's atomic takes from its siblings (03 R68, 12 R229). -/
def atomMedian (t : Ty) (xs : List Nat) : Nat := medianBy (ival t) (xs.map (fun x => x % 2 ^ t.width))

/-- An atomic at a translated key: the old value. -/
def atomAt (s : State) (who : Who) (p : Page) (key : Nat) (op : Nat) (t : Ty) (c d : Nat) : State × Nat :=
  let old := Memory.nat s.mem key (tyBytes t)
  (atomicKey s who p key (leBytes (tyBytes t) (atomNew op t old c d)), old)

/-- An atomic of one member at a checked place: old values of the siblings (12 R229; 03 R65, R66, R68; 10 R179, R188). -/
def atomPlace (s : State) (b i : Nat) (op : Nat) (t : Ty) (pl : Place1) (cs ds : List Nat) : State × Except Flt (List Nat) :=
  let w := tyBytes t
  let m := s.member b i
  let n := m.nsib
  let c := atomMedian t cs
  let d := atomMedian t ds
  match pl with
  | .lane off =>
    let olds := m.sibs.map (fun r => leNat (lsRead r off w))
    let sibs := m.sibs.zipIdx.map (fun rk =>
      lsWrite rk.1 off (leBytes w (atomNew op t (olds.getD rk.2 0) (cs.getD rk.2 0) (ds.getD rk.2 0))))
    (s.setMember b i { m with sibs := sibs }, .ok olds)
  | .spad off =>
    let old := leNat (spadRead s b off w)
    (spadWrite s b off (leBytes w (atomNew op t old c d)), .ok (List.replicate n old))
  | .page va =>
    let who := threadOf (s.block b)
    match reachAtomic s who va w 3 with
    | (s, .error f) => (s, .error f)
    | (s, .ok p) =>
      if p.rep == 1 then
        let (s, olds) := (List.range 3).foldl (fun (acc : State × List Nat) k =>
          let (s, old) := if n == 3 then atomAt acc.1 who p (p.plane k) op t (cs.getD k 0) (ds.getD k 0)
            else
              let first := acc.2.headD (Memory.nat acc.1.mem p.key w)
              (atomicKey acc.1 who p (p.plane k) (leBytes w (atomNew op t first c d)), first)
          (s, acc.2 ++ [old])) (s, [])
        (s, .ok (olds.take n))
      else if p.rep == 2 then
        match digitChecks s b m (touchedWords va w) with
        | (s, .error f) => (s, .error f)
        | (s, .ok dps) =>
          let (s, old) := atomAt s who p p.key op t c d
          (dps.foldl (fun s dp => digitStore s b i dp 0xFF) s, .ok (List.replicate n old))
      else
        let (s, old) := atomAt s who p p.key op t c d
        (s, .ok (List.replicate n old))

/-- Sources of ATOM and RED: index A, data C, compare value D (12 R218). -/
def atomReads (x : Ext) : List (Bool × Opnd) :=
  [indexReads x, noRead, (x.ty.wide, if x.m1 then .uni x.c else .lane x.c),
   if x.minor % 8 == 7 then (x.ty.wide, .lane x.d) else noRead]

def atomBody (x : Ext) (l : MemIn) (s : State) : State × MemRes :=
  let (s, r) := useBuffer s l.b l.i x.b
  match recordPlace s l.b r (indexOf x l) 0 (tyBytes x.ty) with
  | .error f => (s, .fault f)
  | .ok none => (s, .done (List.replicate l.m.nsib 0))
  | .ok (some pl) =>
    let s := acquireEffect s l.b l.i x.ord x.scope
    match atomPlace s l.b l.i (x.minor % 8) x.ty pl (l.src 2) (l.src 3) with
    | (s, .error f) => (s, .fault f)
    | (s, .ok vs) => (acquireEffect s l.b l.i x.ord x.scope, .done vs)

/-- ATOM (12 R229). -/
def execAtom (x : Ext) (s : State) : Result :=
  memRun x 45 { reads := atomReads x, steer := [0] } true (loadDest x) (atomBody x) s
def execAtomBase (x : Base) (s : State) : Result := execAtom (Base.toExt 45 x) s
/-- RED (12 R229). -/
def execRed (x : Ext) (s : State) : Result :=
  memRun x 45 { reads := atomReads x, steer := [0] } false noDest (atomBody x) s

/-- FENCE (12 R230; 10 R186, R195). -/
def execFence (x : Ext) (s : State) : Result :=
  memRun x 46 { reads := [], steer := [] } false noDest (fun l s =>
    let s := if x.scope == .thread then s else dropAhead s l.b l.i
    (acquireEffect s l.b l.i x.ord x.scope, .done [])) s

/-- A sync word that an instruction names: die and offset (10 R189). -/
def syncPlace (va : Int) : Except Flt (Nat × Nat) :=
  if va < 0 then .error (fltOf .addrRange va)
  else match windowOf va.toNat with
    | .sync die off => if va % 8 != 0 then .error (fltOf .misalignedAddr va) else .ok (die, off)
    | _ => .error (fltOf .addrRange va)

/-- A sync word as the page of a request: sync space is never cached (10 R189). -/
def syncPage (va key : Nat) : Page := { va := va, key := key, size := 8, vault := false, cache := 1, rep := 0, atom := 1, place := 0 }

/-- Read a sync word under the access tables of its Keystone (12 R232); the request counts (20 R371). -/
def syncReach (s : State) (who : Who) (va : Int) (k : AccKind) : State × Except Flt (Nat × Nat) :=
  match syncPlace va with
  | .error f => (s, .error f)
  | .ok (die, off) =>
    let key := syncKey die off
    match checkTarget s who 0 key 8 va.toNat k with
    | (s, r) =>
      let s := countReq s who (syncPage va.toNat key) key k.req
      match r with
      | some f => (s, .error f)
      | none => (s, .ok (key, Memory.nat s.mem key 8))

/-- Write a sync word. -/
def syncWrite (s : State) (key v : Nat) : State := { s with mem := Memory.write s.mem key (leBytes 8 v) }

/-- Fields of a barrier word (12 R231). -/
def barPhase (w : Nat) : Nat := bitsAt w 0 16
def barArrived (w : Nat) : Nat := bitsAt w 16 16
def barExpect (w : Nat) : Nat := bitsAt w 32 16
def isBarrier (w : Nat) : Bool := bitsAt w 62 2 == 1
def mkBarrier (expect arrived phase : Nat) : Nat := phase % 2 ^ 16 + arrived % 2 ^ 16 * 2 ^ 16 + expect % 2 ^ 16 * 2 ^ 32 + 2 ^ 62
/-- Whether BAR.ARRIVE and BAR.WAIT accept a word (12 R232). -/
def barOk (w : Nat) : Bool := isBarrier w && barExpect w != 0 && decide (barArrived w < barExpect w)

/-- One arrival: the phase it belongs to and the word after it (12 R233). -/
def barArrive (w : Nat) : Nat × Nat :=
  (barPhase w,
   if barArrived w + 1 = barExpect w then mkBarrier (barExpect w) 0 (barPhase w + 1)
   else mkBarrier (barExpect w) (barArrived w + 1) (barPhase w))

/-- Address sources of the sync instructions. -/
def syncReads (x : Ext) (c d : Bool × Opnd) : List (Bool × Opnd) := [(true, opA x), noRead, c, d]

/-- The address that the lowest guarded member of the selected issue names, for trace records (20 R368). -/
def tracedAddr (s : State) (x : Ext) (is : Issue) : Nat × List Nat :=
  let B := s.block is.blk
  let ms := (guarded B x is.mems).filter (fun i => (B.member i).cap.isNone)
  let m := B.member (ms.headD 0)
  (wrapN ((medianBy unsignedV (srcs B m true (opA x)) : Int) + x.simm) 57, ms)

/-- The ARRIVE record of an issue (20 R368). -/
def traceArrive (x : Ext) (s : State) : State :=
  match s.cur with
  | none => s
  | some is =>
    let (va, ms) := tracedAddr s x is
    let B := s.block is.blk
    if ms == [] then s
    else tracePut s is.blk 2 (lowestOf B ms).quarter (lanesOf B ms) (icountOf B ms) (B.member (ms.headD 0)).pc va

/-- BAR.ARRIVE (12 R233, 20 R368 to R370). -/
def execBarArrive (x : Ext) (s : State) : Result :=
  memRun x 46 { reads := syncReads x noRead noRead, steer := [0] } true
    (fun _ _ v => [.reg x.d (BitVec.ofNat 32 v)]) (fun l s =>
      match syncReach s (threadOf (s.block l.b)) (addressOfPair x l) .atomic with
      | (s, .error f) => (s, .fault f)
      | (s, .ok (key, w)) =>
        if !barOk w then (s, .fault (fltOf .syncKind (addressOfPair x l)))
        else (plumbArrive (syncWrite s key (barArrive w).2) l.b l.i (barArrive w).1,
              .done (List.replicate l.m.nsib (barArrive w).1))) (traceArrive x s)

/-- The RELEASE record of the members of a BAR.WAIT that retired together, before those of the entries that they join (20 R368). -/
def traceRelease (x : Ext) (is : Issue) (s0 s : State) : State :=
  let B := s0.block is.blk
  let ms := is.mems.filter (fun i =>
    ((B.member i).cap.isSome || (B.member i).guard x) && (s.member is.blk i).icount != (B.member i).icount)
  if ms == [] then s
  else
    let m := B.member (ms.headD 0)
    let a := match m.cap with
      | some c => c.srcs.map (fun v => (v.getD 0 0).toNat)
      | none => srcs B m true (opA x)
    tracePut s is.blk 3 (lowestOf B ms).quarter (lanesOf B ms) (icountOf B ms) m.pc (wrapN ((medianBy unsignedV a : Int) + x.simm) 57)

/-- BAR.WAIT (12 R234): an acquire of its SCOPE when it retires. -/
def execBarWait (x : Ext) (s : State) : Result :=
  withIssue s fun is s0 => traceRelease x is s0 (memIssue x 46 { reads := syncReads x (false, .lane x.c) noRead, steer := [0, 2] } false
    noDest (fun l s =>
      match syncReach s (threadOf (s.block l.b)) (addressOfPair x l) .read with
      | (s, .error f) => (s, .fault f)
      | (s, .ok (_, w)) =>
        let phase := medianBy unsignedV (l.src 2) % 2 ^ 16
        if !barOk w then (s, .fault (fltOf .syncKind (addressOfPair x l)))
        else if barPhase w = phase then (s, .wait (.barWait (addressOfPair x l).toNat phase))
        else (acquireEffect s l.b l.i .acquire x.scope, .done [])) is s0)

/-- The word after a SYNCOP (12 R235). -/
def syncNew (op word c d : Nat) : Nat :=
  match op with
  | 0 => word
  | 1 => c
  | 2 => (word + c) % 2 ^ 64
  | 3 => word ||| c
  | 4 => word &&& c
  | 5 => c
  | 6 => if word = d then c else word
  | _ => mkBarrier c 0 (if isBarrier word then barPhase word else 0)

def syncKind (op : Nat) : AccKind := if op == 0 then .read else if op == 1 then .write else .atomic

/-- SYNCOP (12 R235). -/
def execSyncop (x : Ext) (s : State) : Result :=
  let op := x.b % 8
  memRun x 46 { reads := syncReads x (true, if x.m1 then .uni x.c else .lane x.c) (if op == 6 then (true, .lane x.d) else noRead),
                steer := [0, 2, 3] } (op != 1)
    (fun _ _ v => if op == 1 then [] else [.pair x.d (BitVec.ofNat 64 v)]) (fun l s =>
      let s := acquireEffect s l.b l.i x.ord x.scope
      match syncReach s (threadOf (s.block l.b)) (addressOfPair x l) (syncKind op) with
      | (s, .error f) => (s, .fault f)
      | (s, .ok (key, w)) =>
        let c := medianBy unsignedV (l.src 2)
        if op == 7 && c % 2 ^ 16 == 0 then (s, .fault (fltOf .syncKind (addressOfPair x l)))
        else
          let s := if op == 0 then s else syncWrite s key (syncNew op w c (medianBy unsignedV (l.src 3)))
          (acquireEffect s l.b l.i x.ord x.scope, .done (List.replicate l.m.nsib w))) s

/-- The mask of a tag instruction (12 R237): pair A, or one bit under MOD[0]. -/
def tagReads (x : Ext) : List (Bool × Opnd) := [if x.m0 then noRead else (true, opA x), noRead, noRead, noRead]
def tagMask (x : Ext) (l : MemIn) : Nat := if x.m0 then 2 ^ (x.imm % 64) else medianBy unsignedV (l.src 0)

/-- The block whose tags an instruction names. -/
def tagSet (B : Block) (n : Nat) : Bool := SMap.get false B.tags n
/-- Tags of a mask that are set, lowest first. -/
def maskTags (mask : Nat) : List Nat := (List.range 64).filter (fun n => bitN mask n)

/-- Tag waits: all, or any (12 R237). A completion wait is an acquire: it orders later loads and walker reads (10 R186, R195; 11 R202 case 3;
notes/assumptions/37.md). -/
def tagWait (x : Ext) (all : Bool) (s : State) : Result :=
  memRun x 57 { reads := tagReads x, steer := [0] } false noDest (fun l s =>
    let B := s.block l.b
    let mask := tagMask x l
    if 2 ^ B.tagN ≤ mask then (s, .fault (fltOf .tagRange 0))
    else
      let ts := maskTags mask
      if ts == [] then (s, .done [])
      else if (if all then ts.all (tagSet B) else ts.any (tagSet B)) then (acquireEffect s l.b l.i .acquire .die, .done [])
      else (s, .wait (.tags all mask))) s

/-- TWAITANY and TWAITALL (12 R237). -/
def execTwaitany (x : Ext) (s : State) : Result := tagWait x false s
def execTwaitanyBase (x : Base) (s : State) : Result := execTwaitany (Base.toExt 57 x) s
def execTwaitall (x : Ext) (s : State) : Result := tagWait x true s
/-- TFIRST (12 R237). -/
def execTfirst (x : Ext) (s : State) : Result :=
  memRun x 57 { reads := tagReads x, steer := [0] } true (fun _ _ v => [.reg x.d (BitVec.ofNat 32 v)]) (fun l s =>
    let B := s.block l.b
    let mask := tagMask x l
    if 2 ^ B.tagN ≤ mask then (s, .fault (fltOf .tagRange 0))
    else match (maskTags mask).find? (tagSet B) with
      | some n => (acquireEffect s l.b l.i .acquire .die, .done (List.replicate l.m.nsib n))
      | none => (s, .done (List.replicate l.m.nsib 0xFFFF_FFFF))) s

/-- Slot number of OWN.GIVE and OWN.TAKE (12 R238). -/
def slotReads (x : Ext) : List (Bool × Opnd) := [if x.m0 then noRead else (false, opA x), noRead, noRead, noRead]
def slotOf (x : Ext) (l : MemIn) : Nat := if x.m0 then x.imm % 128 else medianBy unsignedV (l.src 0)
def ownerOf (B : Block) (n : Nat) : Owner := SMap.get Owner.threads B.own n
def setOwner (s : State) (b n : Nat) (o : Owner) : State :=
  let h := spadHome s b
  s.setBlock h { s.block h with own := SMap.set Owner.threads (s.block h).own n o }

/-- A slot of the partition, or ADDR_RANGE at its scratchpad-window address (12 R238). -/
def slotFlt (n : Nat) : Flt := fltOf .addrRange (0x01E0_0000_0000_0000 + 4096 * n)

/-- OWN.GIVE (12 R238). -/
def execOwnGive (x : Ext) (s : State) : Result :=
  drainRun x 56 true { reads := slotReads x, steer := [0] } false noDest (fun l s =>
    let n := slotOf x l
    if spadSizeOf s l.b ≤ 4096 * n then (s, .fault (slotFlt n))
    else if ownerOf (s.block (spadHome s l.b)) n == .threads then (setOwner s l.b n .given, .done [])
    else (s, .fault (fltOf .ownerState 0))) s
/-- OWN.TAKE (12 R238): a bit that a copy has claimed is awaited. -/
def execOwnTake (x : Ext) (s : State) : Result :=
  onceRun x 56 { reads := slotReads x, steer := [0] } false noDest (fun l s =>
    let n := slotOf x l
    if spadSizeOf s l.b ≤ 4096 * n then (s, .fault (slotFlt n))
    else match ownerOf (s.block (spadHome s l.b)) n with
      | .claimed _ => (s, .wait (.ownTake n))
      | _ => (setOwner s l.b n .threads, .done [])) s

/-- Room for the next entry of a stage queue: the queue is not full, and the slot's previous entry is freed (15 R275). -/
def StageQueue.room (Q : StageQueue) : Bool :=
  decide (sextN (Q.write + 2 ^ 32 - Q.claim) 32 < 2 ^ Q.logN) &&
    !Q.published.any (fun j => j % 2 ^ Q.logN == Q.write % 2 ^ Q.logN)

/-- Whether every lane of an issue of remote requests has its reply (16 R293). -/
def repliesIn (B : Block) (seq : Nat) : Bool :=
  (replayMembers B seq).all (fun i => match (B.member i).cap with
    | some c => c.requests == [] || c.result.isSome || c.faultReply.isSome
    | none => true)

/-- Whether a waiting member's condition holds (15 R265); a wait whose barrier word or queue is gone is over, to meet its fault
(notes/assumptions/117.md). -/
def wakeReady (s : State) (b : Nat) : WaitKind → Bool
  | .barWait va phase =>
    match syncPlace va with
    | .ok (die, off) => barPhase (Memory.nat s.mem (syncKey die off) 8) != phase || !barOk (Memory.nat s.mem (syncKey die off) 8)
    | .error _ => true
  | .deq q i _ =>
    match (s.grid (s.block b).grid).queues[q]? with
    | some Q => Q.published.contains i
    | none => true
  | .enq q _ =>
    match (s.grid (s.block b).grid).queues[q]? with
    | some Q => Q.room
    | none => true
  | .ldf off => fullBit s b off
  | .ste off _ => !fullBit s b off
  | .tags all mask =>
    let ts := maskTags mask
    if all then ts.all (tagSet (s.block b)) else ts.any (tagSet (s.block b))
  | .ownTake n => match ownerOf (s.block (spadHome s b)) n with | .claimed _ => false | _ => true
  | .waitc v => decide (v ≤ s.reft.toNat)
  | .waith h => !s.homeOf h || !s.handleUsable h (s.block b).region || decide (3 ≤ (s.handle h).state)
  | .yield => true
  | .remote _ rs =>
    match (s.block b).members.findSome? (fun kv => kv.2.cap.bind (fun c => if c.requests.any rs.contains then some c.seq else none)) with
    | some seq => repliesIn (s.block b) seq
    | none => true
  | .mq _ _ _ _ => false

/-- BLOCKED_THREAD_WAKE: a member at a blocking point whose condition holds is taken up again (15 R265). -/
def execBlockedThreadWake (blk mem : Nat) (s : State) : Result :=
  .next (match (s.member blk mem).wait with
    | some k => if wakeReady s blk k then wakeGroup s blk mem else s
    | none => s)

end Sys2Proof.Machine
end

