-- ==== Sys2Proof/Machine/Float.lean ====
section
/-!
DEFINITION. Floating-point arithmetic, compare, classify, conversions, triad instructions and random words (spec 04 R87 to R93,
R95 to R98), with the directions of 03 R51 and the causes of 03 R59.
-/
namespace Sys2Proof.Machine

/-- Latencies of 02 R34. -/
def fltLat (t : Ty) : Nat := if t == .f64 then 8 else 4

/-- The draw word of a lane instruction (03 R51). -/
def drawWord (l : LaneIn) : Nat := draw (l.m.first.ctl64 4).toNat (l.tid % 2 ^ 32) (l.m.icount.toNat % 2 ^ 32)

/-- eff_mode for half `h` of sibling `k` (03 R51, R53; 04, helpers before R87). -/
def effMode (x : Ext) (l : LaneIn) (k h : Nat) : Mode :=
  rndMode x.rnd (if l.B.triad then some (bitN (drawWord l) (k + 3 * h)) else none)

/-- One sibling's result of a floating-point operation: each half on its own, flags joined (03 R44, R46). -/
def fltHalves (t : Ty) (op : Nat → List Nat → Nat × Nat) (args : List Nat) : Nat × Nat :=
  if t.packed then
    let lo := op 0 (args.map (fun x => x % 2 ^ 16))
    let hi := op 1 (args.map (fun x => x / 2 ^ 16 % 2 ^ 16))
    (joinHalves [lo.1, hi.1], orFlag lo.2 hi.2)
  else op 0 (args.map (fun x => x % 2 ^ t.width))

/-- Transpose sources into one argument list per sibling. -/
def perSib (n : Nat) (cols : List (List Nat)) : List (List Nat) :=
  (List.range n).map (fun k => cols.map (fun c => c.getD k 0))

/-- Results of a floating-point operation in every sibling: bits and flags. -/
def fltResults (x : Ext) (l : LaneIn) (op : Mode → List Nat → Nat × Nat) (cols : List (List Nat)) : List (Nat × Nat) :=
  (perSib l.m.nsib cols).zipIdx.map (fun ak => fltHalves x.ty (fun h a => op (effMode x l ak.2 h) a) ak.1)

def fltOut (x : Ext) (rs : List (Nat × Nat)) : LaneOut :=
  LaneOut.of (rs.map (fun r => SibOut.flagged (outTy x.ty.wide x.d r.1) r.2))

/-- Digits of one half of a source: p for a value equal in all siblings by its origin (03 R59). -/
def srcDigits (f : Fmt) (o : Opnd) (xs : List Nat) : Nat :=
  match o with
  | .lane _ => digCount f xs
  | _ => f.prec

/-- Half `h` of a register value of TYPE. -/
def halfOf (t : Ty) (h x : Nat) : Nat := if t.packed then x / 2 ^ (16 * h) % 2 ^ 16 else x % 2 ^ t.width

/-- The CANCEL condition of one half: the smallest source digits and the result digits when it is met (03 R59). -/
def cancelHalf (t : Ty) (thresh h : Nat) (ops : List Opnd) (cols : List (List Nat)) (res : List Nat) : Option (Nat × Nat) :=
  let f := tyFmt t
  let ds := List.zipWith (fun o c => srcDigits f o (c.map (halfOf t h))) ops cols
  let dr := digCount f (res.map (halfOf t h))
  if decide (dr < thresh) && ds.all (fun d => decide (thresh ≤ d)) then some (ds.foldl min (ds.headD 0), dr) else none

/-- The CANCEL event of an instruction (03 R59, R61). -/
def cancelEvent (x : Ext) (l : LaneIn) (ops : List Opnd) (cols : List (List Nat)) (res : List Nat) : Option NiEvent :=
  if l.m.nsib != 3 then none
  else
    let th := (l.m.first.ctl 2).toNat % 64
    let h0 := cancelHalf x.ty th 0 ops cols res
    let h1 := if x.ty.packed then cancelHalf x.ty th 1 ops cols res else none
    match h0, h1 with
    | some d, _ | none, some d =>
      some { code := niCancel, value := BitVec.ofNat 64 (res.headD 0), dsrc := d.1, dres := d.2 }
    | none, none => none

/-- The DIVZERO event on an operand with 0 digits (03 R59, R61). -/
def divzeroEvent (x : Ext) (l : LaneIn) (o : Opnd) (c : List Nat) : Option NiEvent :=
  if l.m.nsib == 3 && srcDigits (tyFmt x.ty) o (c.map (halfOf x.ty 0)) == 0 then
    some { code := niDivzero, value := BitVec.ofNat 64 (c.headD 0), dsrc := 0xFF, dres := 0 }
  else none

/-- An instruction checked for CANCEL (04 R87). -/
def fltCancel (x : Ext) (ops : List Opnd) (op : Mode → List FV → Nat × Nat) (l : LaneIn) : LaneOut :=
  let cols := ops.map (fun o => l.src x.ty.wide o)
  let rs := fltResults x l (fun md a => op md (a.map (fval (tyFmt x.ty)))) cols
  { fltOut x rs with ni := cancelEvent x l ops cols (rs.map Prod.fst) }

def opsAB (x : Ext) : List Opnd := [opA x, opB x]
def opsABC (x : Ext) : List Opnd := [opA x, opB x, opC x]

/-- Apply a two- or three-operand operation to a list of operands. -/
def on1 (f : FV → Nat × Nat) : List FV → Nat × Nat
  | a :: _ => f a
  | _ => (0, 0)
def on2 (f : FV → FV → Nat × Nat) : List FV → Nat × Nat
  | a :: b :: _ => f a b
  | _ => (0, 0)
def on3 (f : FV → FV → FV → Nat × Nat) : List FV → Nat × Nat
  | a :: b :: c :: _ => f a b c
  | _ => (0, 0)

/-- FADD (04 R87). -/
def execFadd (x : Ext) (s : State) : Result :=
  laneRun x 16 (some (fltLat x.ty)) (readsAB x) (fltCancel x (opsAB x) fun md => on2 (fadd (tyFmt x.ty) md)) s
def execFaddBase (x : Base) (s : State) : Result := execFadd (Base.toExt 16 x) s
/-- FSUB: a + (−b) (04 R87). -/
def execFsub (x : Ext) (s : State) : Result :=
  laneRun x 16 (some (fltLat x.ty)) (readsAB x)
    (fltCancel x (opsAB x) fun md => on2 (fun a b => fadd (tyFmt x.ty) md a b.negate)) s
/-- FMUL (04 R87). -/
def execFmul (x : Ext) (s : State) : Result :=
  laneRun x 17 (some (fltLat x.ty)) (readsAB x) (fun l =>
    fltOut x (fltResults x l (fun md a => on2 (fmul (tyFmt x.ty) md) (a.map (fval (tyFmt x.ty))))
      ((opsAB x).map (fun o => l.src x.ty.wide o)))) s
def execFmulBase (x : Base) (s : State) : Result := execFmul (Base.toExt 17 x) s
/-- FFMA (04 R87). -/
def execFfma (x : Ext) (s : State) : Result :=
  laneRun x 18 (some (fltLat x.ty)) (readsABC x) (fltCancel x (opsABC x) fun md => on3 (ffma (tyFmt x.ty) md)) s
def execFfmaBase (x : Base) (s : State) : Result := execFfma (Base.toExt 18 x) s

/-- FMIN and FMAX (04 R88). -/
def fminmaxRun (x : Ext) (isMax : Bool) (l : LaneIn) : LaneOut :=
  fltOut x (fltResults x l (fun _ a => match a with
    | p :: q :: _ => fminmax (tyFmt x.ty) isMax p q
    | _ => (0, 0)) ((opsAB x).map (fun o => l.src x.ty.wide o)))
def execFmin (x : Ext) (s : State) : Result := laneRun x 19 (some (fltLat x.ty)) (readsAB x) (fminmaxRun x false) s
def execFminBase (x : Base) (s : State) : Result := execFmin (Base.toExt 19 x) s
def execFmax (x : Ext) (s : State) : Result := laneRun x 19 (some (fltLat x.ty)) (readsAB x) (fminmaxRun x true) s

/-- FDIV, variable-latency, checked for DIVZERO on its divisor (04 R87). -/
def execFdiv (x : Ext) (s : State) : Result :=
  laneRun x 20 none (readsAB x) (fun l =>
    { fltOut x (fltResults x l (fun md a => on2 (fdiv (tyFmt x.ty) md) (a.map (fval (tyFmt x.ty))))
        ((opsAB x).map (fun o => l.src x.ty.wide o))) with
      ni := divzeroEvent x l (opB x) (l.src x.ty.wide (opB x)) }) s
def execFdivBase (x : Base) (s : State) : Result := execFdiv (Base.toExt 20 x) s

/-- A one-operand floating-point instruction. -/
def fltUn (x : Ext) (op : Mode → FV → Nat × Nat) (l : LaneIn) : LaneOut :=
  fltOut x (fltResults x l (fun md a => on1 (op md) (a.map (fval (tyFmt x.ty)))) [l.src x.ty.wide (opA x)])

/-- FSQRT, variable-latency (04 R87). -/
def execFsqrt (x : Ext) (s : State) : Result := laneRun x 21 none (readsA x) (fltUn x (fsqrt (tyFmt x.ty))) s
def execFsqrtBase (x : Base) (s : State) : Result := execFsqrt (Base.toExt 21 x) s
/-- FRCP and FRSQ, variable-latency, checked for DIVZERO on their operand (04 R89). -/
def execFrcp (x : Ext) (s : State) : Result :=
  laneRun x 28 none (readsA x) (fun l =>
    { fltUn x (frcp (tyFmt x.ty)) l with ni := divzeroEvent x l (opA x) (l.src x.ty.wide (opA x)) }) s
def execFrcpBase (x : Base) (s : State) : Result := execFrcp (Base.toExt 28 x) s
def execFrsq (x : Ext) (s : State) : Result :=
  laneRun x 28 none (readsA x) (fun l =>
    { fltUn x (frsq (tyFmt x.ty)) l with ni := divzeroEvent x l (opA x) (l.src x.ty.wide (opA x)) }) s

/-- FCMP (04 R90). -/
def execFcmp (x : Ext) (s : State) : Result :=
  laneRun x 24 (some (fltLat x.ty)) (readsAB x) (fun l =>
    let rs := List.zipWith (fun a b => fcmp x.minor (fval (tyFmt x.ty) (a % 2 ^ x.ty.width)) (fval (tyFmt x.ty) (b % 2 ^ x.ty.width)))
      (l.src x.ty.wide (opA x)) (l.src x.ty.wide (opB x))
    { LaneOut.of (rs.map (fun r => SibOut.flagged (.pred x.d r.1) r.2)) with ni := compareEvent (rs.map Prod.fst) }) s
def execFcmpBase (x : Base) (s : State) : Result := execFcmp (Base.toExt 24 x) s
/-- FCLASS: a 32-bit mask (04 R91). -/
def execFclass (x : Ext) (s : State) : Result :=
  laneRun x 24 (some (fltLat x.ty)) (readsA x) (fun l =>
    LaneOut.of ((l.src x.ty.wide (opA x)).map (fun a =>
      SibOut.write (outTy false x.d (fclass (tyFmt x.ty) (a % 2 ^ x.ty.width)))))) s

/-- Source TYPE of a conversion (04 R92). -/
def srcTy (x : Ext) : Ty := Ty.ofCode (x.c % 16)

/-- FCVT: one format to another, or two f32 values packed, each half with its own direction (04 R92). -/
def execFcvt (x : Ext) (s : State) : Result :=
  let t := srcTy x
  laneRun x 25 (some 4) (if x.ty.packed then [(false, opA x), (false, opB x)] else [(t.wide, opA x)]) (fun l =>
    let as := l.src t.wide (opA x)
    let bs := if x.ty.packed then l.src t.wide (opB x) else as
    let conv (k h a : Nat) : Nat × Nat := fcvt (tyFmt x.ty) (effMode x l k h) (fval (tyFmt t) (a % 2 ^ t.width))
    LaneOut.of ((List.zip as bs).zipIdx.map (fun abk =>
      let lo := conv abk.2 0 abk.1.1
      if x.ty.packed then
        let hi := conv abk.2 1 abk.1.2
        SibOut.flagged (outTy false x.d (joinHalves [lo.1, hi.1])) (orFlag lo.2 hi.2)
      else SibOut.flagged (outTy x.ty.wide x.d lo.1) lo.2))) s
/-- FCVTI (04 R93). -/
def execFcvti (x : Ext) (s : State) : Result :=
  let t := srcTy x
  laneRun x 25 (some 4) [(t.wide, opA x)] (fun l =>
    LaneOut.of ((l.src t.wide (opA x)).zipIdx.map (fun ak =>
      let r := fcvti x.ty (effMode x l ak.2 0) (fval (tyFmt t) (ak.1 % 2 ^ t.width))
      SibOut.flagged (outTy x.ty.wide x.d (putInt x.ty r.1)) r.2))) s
/-- ICVTF (04 R93). -/
def execIcvtf (x : Ext) (s : State) : Result :=
  let t := srcTy x
  laneRun x 25 (some 4) [(t.wide, opA x)] (fun l =>
    LaneOut.of ((l.src t.wide (opA x)).zipIdx.map (fun ak =>
      let r := icvtf (tyFmt x.ty) (effMode x l ak.2 0) (ival t ak.1)
      SibOut.flagged (outTy x.ty.wide x.d r.1) r.2))) s

/-- Whether any half of any sibling is a NaN (04 R95). -/
def anyNan (t : Ty) (xs : List Nat) : Bool := xs.any (fun x => (halves t x).any (fun h => (fval (tyFmt t) h).isNan))

/-- DIG: the digit count in every sibling, one per half for a packed TYPE; solo and uniform sources give p (04 R95). -/
def execDig (x : Ext) (s : State) : Result :=
  laneRun x 26 (some 6) (readsA x) (fun l =>
    let xs := l.src x.ty.wide (opA x)
    let cnt (h : Nat) : Nat := srcDigits (tyFmt x.ty) (opA x) (xs.map (halfOf x.ty h))
    let r := if x.ty.packed then cnt 0 + cnt 1 * 2 ^ 16 else cnt 0
    let fl := if l.m.nsib == 3 && anyNan x.ty xs then flDNAN else 0
    let r' := if l.m.nsib == 3 then r
      else if x.ty.packed then (tyFmt x.ty).prec * (1 + 2 ^ 16) else (tyFmt x.ty).prec
    LaneOut.of (xs.map (fun _ => SibOut.flagged (outTy false x.d r') fl))) s
def execDigBase (x : Base) (s : State) : Result := execDig (Base.toExt 26 x) s
/-- SIBG (04 R96). -/
def execSibg (x : Ext) (s : State) : Result :=
  laneRun x 26 (some 6) [(x.ty.wide, opA x), (false, opB x)] (fun l =>
    let as := l.src x.ty.wide (opA x)
    LaneOut.of ((List.zip as (l.src false (opB x))).map (fun ab =>
      SibOut.write (outTy x.ty.wide x.d (if l.m.nsib == 3 && ab.2 % 4 != 3 then as.getD (ab.2 % 4) ab.1 else ab.1))))) s

/-- The rounded mean of sibling values of one half, and its flags (04 R97). -/
def dmeanHalf (f : Fmt) (md : Mode) (xs : List Nat) : Nat × Nat :=
  let vs := xs.map (fval f)
  let r := meanOf vs
  let nv := if r.2 || vs.any FV.isSnan then flNV else 0
  match r.1 with
  | .nan _ => (f.nanBits, nv)
  | .inf n => (signOf f n + f.infBits, nv)
  | .fin n q =>
    if q.zero then
      let same := vs.all FV.neg? || vs.all (fun v => !v.neg?)
      let allZero := vs.all (fun v => v.sq.isZero)
      (signOf f (if allZero && same then n else md.rdn), 0)
    else roundTo f md.rm n q

/-- DMEAN (04 R97). NX is set in all siblings when the mean is inexact. -/
def execDmean (x : Ext) (s : State) : Result :=
  laneRun x 26 (some 6) (readsA x) (fun l =>
    let xs := l.src x.ty.wide (opA x)
    fltOut x ((List.range l.m.nsib).map (fun k =>
      fltHalves x.ty (fun h a => dmeanHalf (tyFmt x.ty) (effMode x l k h) a) xs))) s

/-- RAND: draws and the counter it leaves (04 R98). -/
def execRand (x : Ext) (s : State) : Result :=
  laneRun x 27 (some 4) [] (fun l =>
    LaneOut.of (l.m.sibs.map (fun r =>
      let ctr := (r.ctl 10).toNat
      let w (c : Nat) : Nat := draw (r.ctl64 8).toNat (l.tid % 2 ^ 32) (c % 2 ^ 32)
      let v := match x.ty with
        | .n64 => w ctr + w (ctr + 1) * 2 ^ 32
        | .f32 => if w ctr / 2 ^ 8 == 0 then 0 else (roundTo .f32 .rne false ⟨w ctr / 2 ^ 8, 2 ^ 24⟩).1
        | _ => w ctr
      { SibOut.write (outTy x.ty.wide x.d v) with
          ctl := [(10, BitVec.ofNat 32 (ctr + (if x.ty == .n64 then 2 else 1)))] }))) s
def execRandBase (x : Base) (s : State) : Result := execRand (Base.toExt 27 x) s

end Sys2Proof.Machine
end

