-- ==== Sys2Proof/Machine/Narrow.lean ====
section
/-!
DEFINITION. Narrow formats, block and tensor scales, quantisation and its inverse, bit planes, and the instructions QCVT, DQCVT and
PLPACK (spec 05 R104 to R123).
-/
namespace Sys2Proof.Machine

/-- emax, least and greatest integer image of a narrow format (05 R104); images of F4 are twice the value. -/
def nfEmax (nf : Nat) : Int := if nf ≤ 1 then 2 else if nf ≤ 3 then 0 else if nf ≤ 5 then 6 else 10
def nfMax (nf : Nat) : Int :=
  if nf == 0 then 12 else if nf == 1 then 7 else if nf ≤ 3 then 1 else if nf ≤ 5 then 127 else 2047
def nfMin (nf : Nat) : Int :=
  if nf == 0 then -12 else if nf == 1 then -8 else if nf == 2 then -2 else if nf == 3 then -1 else if nf ≤ 5 then -128 else -2048
/-- Bits of a code's value set within its container (05 R104, R107). -/
def nfBits (nf : Nat) : Nat := if nf == 6 then 12 else nfCw nf

/-- Magnitude images of the F4 codes (05 R105). -/
def f4Images : List Nat := [0, 1, 2, 3, 4, 6, 8, 12]

/-- A reserved T code (05 R106). -/
def nfReserved (nf c : Nat) : Bool := nf == 3 && c % 4 == 2

/-- Integer image of a code (05 R104 to R107). -/
def nfImage (nf c : Nat) : Int :=
  if nf == 0 then
    let m : Int := f4Images.getD (c % 8) 0
    if bitN c 3 then -m else m
  else if nfReserved nf c then 0
  else sextN c (nfBits nf)

/-- The code of an integer image in its container (05 R107, R112). -/
def nfCode (nf : Nat) (v : Int) : Nat :=
  if nf == 0 then
    match f4Images.idxOf? v.natAbs with
    | some k => if k == 0 then 0 else k + (if v < 0 then 8 else 0)
    | none => 0
  else wrapN v (nfCw nf)

/-- The tensor scale of an FP32 pattern; none is an invalid one (05 R109). -/
def tensorScale (bits : Nat) : Option Q :=
  if bits % 2 ^ 32 == 0 then some ⟨1, 1⟩
  else match fval .f32 bits with
    | .fin false q => some q
    | _ => none

/-- How one element is rounded: a mode, or a stochastic draw word (05 R112, R114). -/
inductive NRound where
  | mode (rm : RM)
  | stoch (w : Nat)
  deriving DecidableEq, Repr

/-- Round a signed rational onto the extended grid of a format: the image, and whether it is inexact (05 R112). -/
def gridRound (nf : Nat) (rm : RM) (r : SQ) : Int × Bool :=
  if r.isZero then (0, false)
  else
    let e : Nat := if nf == 0 then (max r.q.ilogb 0).toNat else 0
    let u : Int := if nf == 0 then (e : Int) - 1 else 0
    let q := r.q.shift (-u)
    let (m, inexact) := roundNat rm r.neg q.n q.d
    let img : Int := (m * 2 ^ e : Nat)
    (if r.neg then -img else img, inexact)

/-- Whether the stochastic draw takes the upper neighbour: W[31:8] × 2^-24 < (r - lo) / (hi - lo) (05 R114). -/
def stochUp (w : Nat) (num den : Nat) : Bool := decide (w / 256 % 2 ^ 24 * den < num * 2 ^ 24)

/-- round_grid: code, saturated, inexact (05 R112, R114). -/
def roundGrid (nf : Nat) (sel : NRound) (r : SQ) : Nat × Bool × Bool :=
  let (img, inexact) := match sel with
    | .mode rm => gridRound nf rm r
    | .stoch w =>
      let lo := (gridRound nf .down r).1
      let (hi, ix) := gridRound nf .up r
      let d := r.q.d
      let x : Int := (if r.neg then -(r.q.n : Int) else r.q.n) * (if nf == 0 then 2 else 1)
      (if ix && !stochUp w (x - lo * d).toNat ((hi - lo).toNat * d) then lo else hi, ix)
  let v := clampI img (nfMin nf) (nfMax nf)
  (nfCode nf v, v != img, inexact || v != img)

/-- A quantised block (05 R111, R113). -/
structure QBlock where
  b : Nat
  codes : List Nat
  nan : Bool
  sat : Bool
  ufl : Bool
  inexact : Bool
  deriving DecidableEq, Repr

/-- quantise_block (05 R111). `sel` gives element i's rounding. -/
def quantiseBlock (xs : List FV) (nf : Nat) (t : Option Q) (sel : Nat → NRound) (scaled : Bool) : QBlock :=
  match t with
  | none => { b := 0xFF, codes := List.replicate 8 0, nan := true, sat := false, ufl := false, inexact := false }
  | some t =>
    if xs.any (fun x => x.isNan || x.isInf) then
      { b := 0xFF, codes := List.replicate 8 0, nan := true, sat := false, ufl := false, inexact := false }
    else
      let m := xs.foldl (fun (a : Q) x => if a.n * x.sq.q.d < x.sq.q.n * a.d then x.sq.q else a) ⟨0, 1⟩
      if m.zero then { b := 0, codes := List.replicate 8 0, nan := false, sat := false, ufl := false, inexact := false }
      else
        let b := (clampI ((m.div t).ilogb - nfEmax nf + 127) 1 254).toNat
        let s := if scaled then t.shift ((b : Int) - 127) else t
        let rs := xs.zipIdx.map (fun xi => roundGrid nf (sel xi.2) ⟨xi.1.sq.neg, xi.1.sq.q.div s⟩)
        let sat := rs.any (fun r => r.2.1)
        { b := b, codes := rs.map Prod.fst, nan := false, sat := sat, ufl := !sat && rs.all (fun r => r.1 == 0),
          inexact := rs.any (fun r => r.2.2) }

/-- The exact value of a code under its scales (05 R110). -/
def nfValue (nf c b : Nat) (t : Q) : SQ :=
  let img := nfImage nf c
  ⟨decide (img < 0), Q.shift ⟨img.natAbs * t.n, t.d⟩ ((b : Int) - 127 - (if nf == 0 then 1 else 0))⟩

/-- Stochastic rounding to a floating-point format on its grid extended without bound (05 R114; 07 R160). The grid is extended upwards; below
the least normal exponent it keeps the spacing of the format's subnormals (notes/assumptions/125.md). -/
def roundStoch (f : Fmt) (w : Nat) (v : SQ) : Nat :=
  if v.isZero then signOf f v.neg
  else
    let e := v.q.ilogb
    if f.emax < e then signOf f v.neg + f.infBits
    else
      let u := max e f.emin - (f.prec - 1 : Nat)
      let q := v.q.shift (-u)
      let frac := q.n % q.d
      let up := stochUp w (if v.neg then q.d - frac else frac) q.d
      if frac == 0 then (roundTo f .rne v.neg v.q).1
      else (roundTo f (if up then .up else .down) v.neg v.q).1

/-- Round a value as an element's rounding says. -/
def roundSel (f : Fmt) (sel : NRound) (v : SQ) : Nat :=
  match sel with
  | .mode rm => (roundTo f rm v.neg v.q).1
  | .stoch w => roundStoch f w v

/-- Decode one element and round it once (05 R110, R116, R121). -/
def decodeElem (f : Fmt) (nf c b : Nat) (t : Option Q) (sel : NRound) : Nat :=
  match t with
  | none => f.nanBits
  | some t => if b == 0xFF then f.nanBits else roundSel f sel (nfValue nf c b t)

/-- Element `i` of a run packed in containers (05 R107). -/
def packedAt (nf bits i : Nat) : Nat := bitsAt bits (nfCw nf * i) (nfCw nf)
def packCodes (nf : Nat) (cs : List Nat) : Nat := cs.zipIdx.foldl (fun a ci => a + ci.1 * 2 ^ (nfCw nf * ci.2)) 0

/-- Consecutive lane registers as one little-endian bit string. -/
def regString (r : Regs) (n k : Nat) : Nat := (List.range k).foldl (fun a i => a + (r.lane (n + i)).toNat * 2 ^ (32 * i)) 0
def stringRegs (n k bits : Nat) : Out :=
  .regs ((List.range k).map (fun i => (n + i, BitVec.ofNat 32 (bits / 2 ^ (32 * i)))))

/-- Plane `j` of an element's image (05 R118). -/
def planeBit (nf c j : Nat) : Bool :=
  if nf == 0 then (if j == 4 then bitN c 3 else bitN (f4Images.getD (c % 8) 0) j)
  else bitN (wrapN (nfImage nf c) (nfPlanes nf)) j

/-- Lane registers n to n + k - 1 as reads. -/
def regReads (n k : Nat) : List (Bool × Opnd) := (List.range k).map (fun i => (false, .lane (n + i)))

/-- Rounding of element i in sibling k: direction bit (k + 3i) mod 32 under DRAW (05 R120, R121). -/
def narrowMode (x : Ext) (l : LaneIn) (k i : Nat) : RM :=
  (rndMode x.rnd (if l.B.triad then some (bitN (drawWord l) ((k + 3 * i) % 32)) else none)).rm

/-- QCVT (05 R120). -/
def execQcvt (x : Ext) (s : State) : Result :=
  laneRun x 51 none (regReads x.a 8 ++ [(false, .lane x.c)]) (fun l =>
    LaneOut.of (l.m.sibs.zipIdx.map (fun rk =>
      let xs := (List.range 8).map (fun i => fval .f32 (rk.1.lane (x.a + i)).toNat)
      let t := tensorScale (rk.1.lane x.c).toNat
      let q := quantiseBlock xs x.mod t (fun i => .mode (narrowMode x l rk.2 i)) true
      let n := codeRegs x.mod
      let st := q.b + boolN q.sat * 2 ^ 8 + boolN q.ufl * 2 ^ 9 + boolN q.nan * 2 ^ 10
      let flags := (if q.inexact then flNX else 0) ||| (if q.sat then flOF else 0) |||
        (if (q.nan && t.isSome) || xs.any FV.isSnan then flNV else 0)
      let outs := match stringRegs x.d n (packCodes x.mod q.codes) with
        | .regs ws => .regs (ws ++ [(x.b, BitVec.ofNat 32 st)])
        | o => o
      SibOut.flagged outs flags))) s
def execQcvtBase (x : Base) (s : State) : Result := execQcvt (Base.toExt 51 x) s
/-- DQCVT (05 R121). A reserved T code in a block whose scale byte is 0xFF or whose t is invalid sets no flag (notes/assumptions/121.md). -/
def execDqcvt (x : Ext) (s : State) : Result :=
  laneRun x 51 none (regReads x.a (codeRegs x.mod) ++ [(false, .lane x.b), (false, .lane x.c)]) (fun l =>
    LaneOut.of (l.m.sibs.zipIdx.map (fun rk =>
      let bits := regString rk.1 x.a (codeRegs x.mod)
      let b := (rk.1.lane x.b).toNat % 256
      let rs := (List.range 8).map (fun i =>
        let c := packedAt x.mod bits i
        match tensorScale (rk.1.lane x.c).toNat with
        | none => (Fmt.nanBits .f32, 0)
        | some t =>
          if b == 0xFF then (Fmt.nanBits .f32, 0)
          else
            let v := nfValue x.mod c b t
            let r := roundTo .f32 (narrowMode x l rk.2 i) v.neg v.q
            (r.1, r.2 ||| (if nfReserved x.mod c then flNV else 0)))
      SibOut.flagged (.regs (rs.zipIdx.map (fun ri => (x.d + ri.2, BitVec.ofNat 32 ri.1.1))))
        (rs.foldl (fun a r => a ||| r.2) 0)))) s
/-- PLPACK (05 R122). -/
def execPlpack (x : Ext) (s : State) : Result :=
  laneRun x 51 none (regReads x.a (nfCw x.mod)) (fun l =>
    LaneOut.of (l.m.sibs.map (fun r =>
      let bits := regString r x.a (nfCw x.mod)
      let cs := (List.range 32).map (packedAt x.mod bits)
      SibOut.flagged (.regs ((List.range (nfPlanes x.mod)).map (fun j =>
        (x.d + j, BitVec.ofNat 32 (cs.zipIdx.foldl (fun a ci => if planeBit x.mod ci.1 j then setBitN a ci.2 else a) 0)))))
        (if cs.any (nfReserved x.mod) then flNV else 0)))) s

end Sys2Proof.Machine
end

