-- ==== Sys2Proof/Machine/Engine.lean ====
section
/-!
DEFINITION. What the engines share: memory accesses of an engine through windows and pages (spec 10 R177, R180; 03 R65, R66; 12 R240),
tags and kept statuses (12 R236), and the descriptors of block-transfer copies with their conversions (05 R110 to R117; 06 R131 to
R133; 12 R240, R241).
-/
namespace Sys2Proof.Machine

/-- The master of an engine that works for a block: kind THREAD for the matrix and selection units of the block's core, COPY for a
block-transfer engine of the die (18 R321). Engines bypass the L1 (10 R185); the vault under a core is near to the core's own units
(10 R183). -/
def engineOf (B : Block) (kind : Nat) : Who :=
  { region := B.region, kind := kind, priv := B.handler.isSome, core := none, die := some (coreDie B.core), src := 0,
    near := if kind == 0 then some B.core else none }

/-- Where an engine's byte range lies: in the block's partition, or in translated pages (10 R177, R189). -/
def engineWindow (s : State) (blk : Option Nat) (va : Int) (n : Nat) : Except Flt Place1 :=
  if va < 0 then .error (fltOf .addrRange va)
  else match windowOf va.toNat with
    | .translated => .ok (.page va.toNat)
    | .sync _ _ => .error (fltOf .syncSpace va)
    | .spad => match blk with
      | some b =>
        if va.toNat % 2 ^ 19 + n ≤ (s.block b).spadSize then .ok (.spad (va.toNat % 2 ^ 19)) else .error (fltOf .addrRange va)
      | none => .error (fltOf .addrRange va)
    | _ => .error (fltOf .addrRange va)

/-- Read bytes for an engine; a TRIPLET page gives plane 0, a DIGEST page its value (12 R240). -/
def engineRead (s : State) (w : Who) (blk : Option Nat) (va : Int) (n : Nat) : State × Except Flt (List Byte) :=
  (pieces (n / 64 + 2) va.toNat n).foldl (fun (acc : State × Except Flt (List Byte)) pc =>
    match acc.2 with
    | .error f => (acc.1, .error f)
    | .ok bs =>
      match engineWindow acc.1 blk (if va < 0 then va else pc.1) pc.2 with
      | .error f => (acc.1, .error f)
      | .ok (.spad off) => (acc.1, .ok (bs ++ storeRead (acc.1.block (blk.getD 0)).spad off pc.2))
      | .ok (.page a) => match reach acc.1 w a pc.2 .read 1 with
        | (s, .error f) => (s, .error f)
        | (s, .ok p) => let (s, b) := loadKey s w p p.key pc.2; (s, .ok (bs ++ b))
      | .ok (.lane _) => (acc.1, .error (fltOf .addrRange va))) (s, .ok [])

/-- A byte at a checked place that an engine writes: of the partition, or of plane 0 of a page. -/
def enginePut (s : State) (w : Who) (blk : Option Nat) (pl : Place1 × Option Page) (b : Byte) : State :=
  match pl with
  | (.spad off, _) =>
    let n := blk.getD 0
    s.setBlock n { s.block n with spad := storeWrite (s.block n).spad off [b] }
  | (_, some p) => storeKey s w p p.key [b]
  | _ => s

/-- Check the digit byte of a word that an engine writes on a DIGEST page, at the captured base, like any byte (03 R66; 12 R240). -/
def engineDigit (s : State) (w : Who) (blk : Option Nat) (base va : Nat) : State × Except Flt (Place1 × Option Page) :=
  let a : Nat := base % 2 ^ 57 + va / 4
  match engineWindow s blk a 1 with
  | .error f => (s, .error f)
  | .ok (.page a) => match reach s w a 1 .write 1 with
    | (s, .error f) => (s, .error f)
    | (s, .ok p) => (s, .ok (.page a, some p))
  | .ok pl => (s, .ok (pl, none))

/-- Check the digit bytes of several words, before anything is written (03 R66). -/
def engineDigits (w : Who) (blk : Option Nat) (base : Nat) : List Nat → State → State × Except Flt (List (Place1 × Option Page))
  | [], s => (s, .ok [])
  | va :: r, s => match engineDigit s w blk base va with
    | (s, .error f) => (s, .error f)
    | (s, .ok pl) => match engineDigits w blk base r s with
      | (s, .error f) => (s, .error f)
      | (s, .ok ps) => (s, .ok (pl :: ps))

/-- Write one piece for an engine; on a DIGEST page with its digit bytes, `dig` being the digit base and the byte when a thread issued
the operation: a fault on one of them leaves the piece unwritten (03 R65, R66; 12 R240). -/
def engineWritePiece (s : State) (w : Who) (blk : Option Nat) (dig : Option (Nat × Nat)) (va : Nat) (bs : List Byte) : State × Option Flt :=
  match engineWindow s blk va bs.length with
  | .error f => (s, some f)
  | .ok (.spad off) =>
    let b := blk.getD 0
    (s.setBlock b { s.block b with spad := storeWrite (s.block b).spad off bs }, none)
  | .ok (.page a) => match reach s w a bs.length .write 3 with
    | (s, .error f) => (s, some f)
    | (s, .ok p) =>
      let words := if p.rep == 2 && dig.isSome then touchedWords a bs.length else []
      let (base, d) := dig.getD (0, 0)
      match engineDigits w blk base words s with
      | (s, .error f) => (s, some f)
      | (s, .ok ps) =>
        let keys := if p.rep == 1 then (List.range 3).map p.plane else [p.key]
        let s := keys.foldl (fun s k => storeKey s w p k bs) s
        (ps.foldl (fun s pl => enginePut s w blk pl (BitVec.ofNat 8 d)) s, none)
  | .ok (.lane _) => (s, some (fltOf .addrRange va))

/-- Write bytes for an engine: how many were written, and the fault that stopped it (12 R241). -/
def engineWrite (s : State) (w : Who) (blk : Option Nat) (dig : Option (Nat × Nat)) (va : Nat) (bs : List Byte) :
    State × Nat × Option Flt :=
  (pieces (bs.length / 64 + 2) va bs.length).foldl (fun (acc : State × Nat × Option Flt) pc =>
    match acc.2.2 with
    | some _ => acc
    | none => match engineWritePiece acc.1 w blk dig pc.1 ((bs.drop (pc.1 - va)).take pc.2) with
      | (s, some f) => (s, acc.2.1, some f)
      | (s, none) => (s, acc.2.1 + pc.2, none)) (s, 0, none)

/-- Whether an operation in flight of the block names a tag (12 R236). -/
def tagBusy (s : State) (b tag : Nat) : Bool :=
  let C := s.core (s.block b).core
  let D := s.die (coreDie (s.block b).core)
  C.matq.any (fun o => o.blk == b && o.tag == tag) || C.selq.any (fun o => o.blk == b && o.tag == tag) ||
    D.copyq.any (fun o => o.blk == b && o.tag == tag) ||
    s.dies.any (fun kv => kv.2.collq.any (fun o => o.blk == b && o.tag == tag))

/-- Acceptance clears the tag (12 R236). -/
def tagClear (s : State) (b tag : Nat) : State :=
  s.setBlock b { s.block b with tags := SMap.set false (s.block b).tags tag false }

/-- Completion keeps the status record and sets the tag once no operation names it; the operation has left its queue (12 R236,
07 R152). -/
def tagDone (s : State) (b tag : Nat) (status : BitVec 128) : State :=
  let B := s.block b
  let B := { B with tagStat := SMap.set 0 B.tagStat tag status }
  s.setBlock b (if tagBusy s b tag then B else { B with tags := SMap.set false B.tags tag true })

/-- A block's parameter block: whether it is aligned and lies in the partition, and its first `n` bytes (12 R239). -/
def paramBlock (s : State) (b off n size : Nat) : Bool × List Byte :=
  let B := s.block b
  let ok := off % 64 == 0 && decide (off + size ≤ B.spadSize)
  (ok, if ok then storeRead B.spad off n else [])

/-- Element width in bits of a format code (10 R191). -/
def fmtBits (f : Nat) : Nat :=
  match f with
  | 0 => 8 | 1 => 32 | 2 => 64 | 3 => 16 | 4 => 16 | 5 => 8 | 6 => 16 | 7 => 32 | 8 => 64
  | f => nfCw (f - 16)
def fmtNarrow (f : Nat) : Bool := decide (16 ≤ f) && decide (f ≤ 22)
/-- f32, f16 and bf16, the formats of conversions (05 R115). -/
def fmtFloat (f : Nat) : Option Fmt :=
  match f with
  | 1 => some .f32 | 3 => some .f16 | 4 => some .bf16 | _ => none
/-- Digit byte of an element that an engine writes (12 R240). -/
def fmtDigits (f : Nat) : Nat :=
  match f with
  | 1 => 24 | 2 => 53 | 3 => 11 | 4 => 8 | _ => 0xFF

/-- Bytes of eight elements of a narrow or other format: the unit of a row (05 R117). -/
def rowUnit (f : Nat) : Nat := fmtBits f

/-- Scale-byte address (05 R117). -/
def scaleAddr (base : Int) (soff cw : Nat) (st1 st2 : Int) (i0 i1 i2 : Int) : Int :=
  base + 64 * soff + (i0 * cw + 8 * (i1 * st1 + i2 * st2)) / (8 * cw : Int)

/-- A copy as its parameter block describes it (12 R239). -/
structure CopyDesc where
  src : Nat
  dst : Nat
  ctl : Nat
  seq : Nat
  seed : Nat
  counts : List Nat
  ss : List Int
  ds : List Int
  sext0 : Nat
  sext1 : Nat
  ssoff : Nat
  dsoff : Nat
  tscale : Nat
  res : Nat
  deriving DecidableEq, Repr

def CopyDesc.of (pb : List Byte) : CopyDesc :=
  { src := fieldAt pb 0 8, dst := fieldAt pb 8 8, ctl := fieldAt pb 16 4, seq := fieldAt pb 20 4, seed := fieldAt pb 24 8
    counts := [fieldAt pb 32 4, fieldAt pb 36 4] ++ (List.range 4).map (fun k => fieldAt pb (40 + 2 * k) 2)
    ss := (List.range 5).map (fun k => sextN (fieldAt pb (48 + 4 * k) 4) 32)
    ds := (List.range 5).map (fun k => sextN (fieldAt pb (68 + 4 * k) 4) 32)
    sext0 := fieldAt pb 88 4, sext1 := fieldAt pb 92 4, ssoff := fieldAt pb 96 4, dsoff := fieldAt pb 100 4
    tscale := fieldAt pb 104 4, res := fieldAt pb 108 4 }

def CopyDesc.sfmt (d : CopyDesc) : Nat := bitsAt d.ctl 0 7
def CopyDesc.dfmt (d : CopyDesc) : Nat := bitsAt d.ctl 7 7
def CopyDesc.transpose (d : CopyDesc) : Bool := bitN d.ctl 14
def CopyDesc.conv (d : CopyDesc) : Nat := bitsAt d.ctl 15 2
def CopyDesc.dlay (d : CopyDesc) : Nat := bitsAt d.ctl 17 2
def CopyDesc.columns (d : CopyDesc) : Bool := bitN d.ctl 19
def CopyDesc.rnd (d : CopyDesc) : Nat := bitsAt d.ctl 20 3
def CopyDesc.sw (d : CopyDesc) : Nat := fmtBits d.sfmt
def CopyDesc.dw (d : CopyDesc) : Nat := fmtBits d.dfmt
def CopyDesc.count (d : CopyDesc) (k : Nat) : Nat := d.counts.getD k 0
/-- Whether block scales are read and written (12 R240). -/
def CopyDesc.readsScales (d : CopyDesc) : Bool :=
  if d.conv == 0 then fmtNarrow d.sfmt && d.ssoff != 0 else d.conv == 2 && d.ssoff != 0
def CopyDesc.writesScales (d : CopyDesc) : Bool :=
  if d.conv == 0 then fmtNarrow d.sfmt && d.ssoff != 0 else d.conv == 1 && d.dsoff != 0

/-- The checks of 12 R241 that complete OPERAND_FORMAT. -/
def CopyDesc.ok (d : CopyDesc) : Bool :=
  let sn := fmtNarrow d.sfmt
  let dn := fmtNarrow d.dfmt
  let one := (d.counts.drop 2).all (fun c => c == 1)
  d.ctl / 2 ^ 23 == 0 && d.res == 0 && d.dlay != 3 && d.conv != 3 && decide (d.rnd ≤ 5) && decide (d.src < 2 ^ 57) &&
  decide (d.dst < 2 ^ 57) && fmtDefined d.sfmt && fmtDefined d.dfmt &&
  (if d.conv == 0 then d.sfmt == d.dfmt
   else if d.conv == 1 then (fmtFloat d.sfmt).isSome && dn else sn && (fmtFloat d.dfmt).isSome) &&
  (d.conv != 0 || !sn || (d.ssoff == 0) == (d.dsoff == 0)) &&
  (!d.transpose || (decide (4 ≤ d.sw) && decide (d.sw ≤ 32) && decide (4 ≤ d.dw) && decide (d.dw ≤ 32) && d.conv == 0 &&
    (!sn || (d.ssoff == 0 && d.dsoff == 0)))) &&
  (d.dlay != 1 || (dn && d.dst % 256 == 0 && decide (d.count 1 ≤ 256) && one && d.count 0 % (if d.columns then 64 else 8) == 0)) &&
  (d.dlay != 2 || (d.dst % 256 == 0 && decide (d.sw ≤ 32) && decide (d.dw ≤ 32) && one)) &&
  (!(d.readsScales || d.writesScales) || (d.counts.drop 3).all (fun c => c == 1)) &&
  (!d.readsScales || (d.src % rowUnit d.sfmt == 0 && d.ss.getD 0 0 % rowUnit d.sfmt == 0 && d.ss.getD 1 0 % rowUnit d.sfmt == 0)) &&
  (!d.writesScales || (d.dst % rowUnit d.dfmt == 0 && d.ds.getD 0 0 % rowUnit d.dfmt == 0 && d.ds.getD 1 0 % rowUnit d.dfmt == 0)) &&
  (d.conv != 1 || decide (d.dfmt < 0x15) || d.dsoff != 0) && (d.conv != 2 || decide (d.sfmt < 0x15) || d.ssoff != 0) &&
  (d.conv == 0 || (tensorScale d.tscale).isSome)

/-- Elements of a copy, and the coordinates of element `n`, dimension 0 fastest (05 R114). -/
def CopyDesc.total (d : CopyDesc) : Nat := d.counts.foldl (· * ·) 1
def coordsAt : List Nat → Nat → List Nat
  | [], _ => []
  | c :: r, n => n % c :: coordsAt r (n / c)
/-- Sum of coordinates times steps. -/
def stepSum (js : List Nat) (ss : List Int) : Int := (List.zipWith (fun (j : Nat) (t : Int) => (j : Int) * t) js ss).foldl (· + ·) 0

/-- Bit address of a source element, and whether it is read (12 R240). -/
def CopyDesc.srcBit (d : CopyDesc) (j : List Nat) : Int := 8 * ((d.src : Int) + stepSum (j.drop 1) d.ss) + j.getD 0 0 * d.sw
def CopyDesc.reads (d : CopyDesc) (j : List Nat) : Bool := decide (j.getD 0 0 < d.sext0) && decide (j.getD 1 0 < d.sext1)
/-- Destination coordinate (12 R240). -/
def CopyDesc.dstCoord (d : CopyDesc) (j : List Nat) : List Nat :=
  if d.transpose then j.getD 1 0 :: j.getD 0 0 :: j.drop 2 else j

/-- Byte offset of word `c` of tile row `r` (06 R131). -/
def tileWord (swizzled : Bool) (r c : Nat) : Nat := 256 * r + 4 * (if swizzled then (c ^^^ r) % 64 else c)

/-- Bit address of a destination element in the linear and the swizzled tile layout (12 R240, 06 R133). -/
def CopyDesc.dstBit (d : CopyDesc) (j : List Nat) : Int :=
  let k := d.dstCoord j
  if d.dlay == 0 then 8 * ((d.dst : Int) + stepSum (k.drop 1) d.ds) + k.getD 0 0 * d.dw
  else
    let l := ceilDiv ((if d.transpose then d.count 1 else d.count 0) * d.dw) 2048
    let pos := d.dw * k.getD 0 0
    let word := pos / 32
    8 * ((d.dst : Int) + tileWord true (k.getD 1 0 * l + word / 64) (word % 64)) + (pos % 32 : Nat)

/-- Bit address of plane `p` of element (i, k) in a plane image with `kg` columns (06 R132). -/
def planePos (columns : Bool) (planes kg i k p : Nat) : Nat :=
  let (r, w, bit) := if columns then ((i / 32 * planes + p) * (kg / 64) + k / 64, k % 64, i % 32)
    else (k / 8 * planes + p, 8 * (k % 8) + i / 32, i % 32)
  8 * tileWord true r w + bit
/-- Tile rows of a plane image (06 R132). -/
def planeRows (columns : Bool) (planes mg kg : Nat) : Nat :=
  if columns then ceilDiv mg 32 * planes * (kg / 64) else kg / 8 * planes

/-- Scale addresses of a copy's block (05 R117, 12 R240). -/
def CopyDesc.srcScale (d : CopyDesc) (j : List Nat) : Int :=
  scaleAddr d.src d.ssoff d.sw (d.ss.getD 0 0) (d.ss.getD 1 0) (j.getD 0 0) (j.getD 1 0) (j.getD 2 0)
def CopyDesc.dstScale (d : CopyDesc) (j : List Nat) : Int :=
  scaleAddr d.dst d.dsoff d.dw (d.ds.getD 0 0) (d.ds.getD 1 0) (j.getD 0 0) (j.getD 1 0) (j.getD 2 0)

/-- Element numbers of a copy by blocks of 8 along dimension 0 (05 R108). -/
def CopyDesc.blocks (d : CopyDesc) : List (List Nat) :=
  let c := d.count 0
  if c == 0 then []
  else (List.range (d.total / c)).flatMap (fun r => (List.range (ceilDiv c 8)).map (fun k =>
    (List.range (min 8 (c - 8 * k))).map (fun i => c * r + 8 * k + i)))

/-- Byte ranges that a copy spans: each as (first, end), none when empty (05 R115). -/
def spanOf (xs : List (Int × Int)) : Option (Int × Int) :=
  match xs with
  | [] => none
  | a :: r => some (r.foldl (fun p q => (min p.1 q.1, max p.2 q.2)) a)
def bitRange (bit : Int) (n : Nat) : Int × Int := (bit / 8, (bit + n - 1) / 8 + 1)

/-- Bytes that a copy touches at its source and at its destination, as ranges: elements, then scales (05 R115, 12 R242). -/
def CopyDesc.srcRanges (d : CopyDesc) : List (Int × Int) :=
  ((List.range d.total).map (coordsAt d.counts)).filterMap (fun j => if d.reads j then some (bitRange (d.srcBit j) d.sw) else none)
def CopyDesc.srcScaleRanges (d : CopyDesc) : List (Int × Int) :=
  if !d.readsScales then [] else (d.blocks.filter (fun bl => d.conv == 0 || bl.any (fun n => d.reads (coordsAt d.counts n)))).map (fun bl =>
    let a := d.srcScale (coordsAt d.counts (bl.headD 0)); (a, a + 1))
def CopyDesc.dstRanges (d : CopyDesc) : List (Int × Int) :=
  if d.total == 0 then []
  else if d.dlay == 1 then [((d.dst : Int), d.dst + 256 * planeRows d.columns (nfPlanes (d.dfmt - 16)) (d.count 1) (d.count 0))]
  else ((List.range d.total).map (coordsAt d.counts)).map (fun j => bitRange (d.dstBit j) d.dw)
def CopyDesc.dstScaleRanges (d : CopyDesc) : List (Int × Int) :=
  if !d.writesScales then [] else d.blocks.map (fun bl => let a := d.dstScale (coordsAt d.counts (bl.headD 0)); (a, a + 1))

def overlaps (a b : Option (Int × Int)) : Bool :=
  match a, b with
  | some (l, h), some (m, k) => decide (l < k) && decide (m < h)
  | _, _ => false
def inSync (r : Int × Int) : Bool := decide (0x01F0_0000_0000_0000 ≤ r.1 ∧ r.1 < 0x0200_0000_0000_0000) ||
  decide (0x01F0_0000_0000_0000 < r.2 ∧ r.2 ≤ 0x0200_0000_0000_0000)

/-- Scratchpad slots that ranges reach: of each range the part in the scratchpad window (12 R242). -/
def slotsOf (rs : List (Int × Int)) : List Nat :=
  rs.foldl (fun a r =>
    let base : Int := 0x01E0_0000_0000_0000
    let lo := max r.1 base - base
    let hi := min r.2 (base + 2 ^ 19) - base
    if hi ≤ lo then a
    else (List.range (((hi - 1) / 4096 - lo / 4096).toNat + 1)).foldl (fun a k =>
      let n := (lo / 4096).toNat + k
      if a.contains n then a else a ++ [n]) a) []

/-- Counters of a copy (12 R242) and its first fault (12 R246). -/
structure CopyStat where
  bytes : Nat
  sat : Nat
  ufl : Nat
  nan : Nat
  fmt : Nat
  flt : Option Flt
  deriving DecidableEq, Repr

def CopyStat.zero : CopyStat := { bytes := 0, sat := 0, ufl := 0, nan := 0, fmt := 0, flt := none }

/-- Read `n` bits at a bit address for an engine. -/
def engineBits (s : State) (w : Who) (blk : Option Nat) (bit : Int) (n : Nat) : State × Except Flt Nat :=
  let r := bitRange bit n
  match engineRead s w blk r.1 (r.2 - r.1).toNat with
  | (s, .error f) => (s, .error f)
  | (s, .ok bs) => (s, .ok (leNat bs / 2 ^ (bit - 8 * r.1).toNat % 2 ^ n))

/-- The running result of a copy's reads: element numbers with their destination bits, scale bytes, counters. -/
structure CopyRead where
  s : State
  outs : List (Nat × Nat)
  scales : List (Int × Nat)
  st : CopyStat

/-- Read the elements of one block: those not read are none. -/
def copyElems (d : CopyDesc) (w : Who) (blk : Option Nat) (s : State) : List Nat → State × Except Flt (List (Option Nat))
  | [] => (s, .ok [])
  | n :: r =>
    let j := coordsAt d.counts n
    let (s, x) := if d.reads j then
        match engineBits s w blk (d.srcBit j) d.sw with
        | (s, .error f) => (s, Except.error f)
        | (s, .ok v) => (s, .ok (some v))
      else (s, .ok none)
    match x with
    | .error f => (s, .error f)
    | .ok v => match copyElems d w blk s r with
      | (s, .error f) => (s, .error f)
      | (s, .ok vs) => (s, .ok (v :: vs))

/-- Rounding of element `n` of a copy (05 R112, R114). -/
def CopyDesc.sel (d : CopyDesc) (n : Nat) : NRound :=
  if d.rnd == 0 then .stoch (draw d.seed (n % 2 ^ 32) d.seq) else .mode (rndMode (Rnd.ofCode d.rnd) none).rm

/-- Convert one block of a copy (12 R240; 05 R111, R116). -/
def copyBlock (d : CopyDesc) (w : Who) (blk : Option Nat) (a : CopyRead) (bl : List Nat) : CopyRead :=
  if a.st.flt.isSome then a
  else match copyElems d w blk a.s bl with
    | (s, .error f) => { a with s := s, st := { a.st with flt := some f } }
    | (s, .ok vs) =>
      let j0 := coordsAt d.counts (bl.headD 0)
      let anyRead := vs.any Option.isSome
      let (s, sb) := if d.readsScales && (d.conv == 0 || anyRead) then
          match engineBits s w blk (8 * d.srcScale j0) 8 with
          | (s, .error f) => (s, Except.error f)
          | (s, .ok v) => (s, .ok (some v))
        else (s, .ok none)
      match sb with
      | .error f => { a with s := s, st := { a.st with flt := some f } }
      | .ok sb =>
        if d.conv == 0 then
          { a with s := s, outs := a.outs ++ List.zip bl (vs.map (·.getD 0))
                   scales := a.scales ++ (if d.writesScales then [(d.dstScale j0, sb.getD 0)] else [])
                   st := { a.st with fmt := a.st.fmt + (if d.dlay == 1 && d.dfmt == 0x13 then
                     (vs.filter (fun v => v.any (nfReserved 3))).length else 0) } }
        else if d.conv == 1 then
          let f := (fmtFloat d.sfmt).getD .f32
          let xs := vs.map (fun v => fval f (v.getD 0)) ++ List.replicate (8 - vs.length) (FV.fin false ⟨0, 1⟩)
          let q := quantiseBlock xs (d.dfmt - 16) (tensorScale d.tscale) (fun i => d.sel (bl.getD i 0)) (d.dsoff != 0)
          { a with s := s, outs := a.outs ++ List.zip bl q.codes
                   scales := a.scales ++ (if d.writesScales then [(d.dstScale j0, q.b)] else [])
                   st := { a.st with nan := a.st.nan + boolN q.nan, sat := a.st.sat + boolN q.sat, ufl := a.st.ufl + boolN q.ufl } }
        else
          let nf := d.sfmt - 16
          let b := sb.getD 127
          let f := (fmtFloat d.dfmt).getD .f32
          let outs := List.zipWith (fun n (v : Option Nat) => (n, match v with
            | none => 0
            | some c => decodeElem f nf c b (tensorScale d.tscale) (d.sel n))) bl vs
          { a with s := s, outs := a.outs ++ outs
                   st := { a.st with nan := a.st.nan + boolN (b == 0xFF)
                                     fmt := a.st.fmt + (vs.filter (fun v => v.any (nfReserved nf))).length } }

/-- Bytes to write: for each address the bits written and their value. -/
def putBits (m : SMap (Nat × Nat)) (bit n v : Nat) : SMap (Nat × Nat) :=
  (List.range ((bit % 8 + n + 7) / 8)).foldl (fun m k =>
    let a := bit / 8 + k
    let mask := ((2 ^ n - 1) * 2 ^ (bit % 8)) / 2 ^ (8 * k) % 256
    let val := (v % 2 ^ n * 2 ^ (bit % 8)) / 2 ^ (8 * k) % 256
    let old := SMap.get (0, 0) m a
    SMap.put m a (old.1 ||| mask, (old.2 &&& (255 - mask)) ||| val)) m

/-- The byte that stands at an address an engine writes in part. -/
def engineOld (s : State) (w : Who) (blk : Option Nat) (va : Nat) : Nat :=
  match engineWindow s blk va 1 with
  | .ok (.spad off) => leNat (storeRead (s.block (blk.getD 0)).spad off 1)
  | .ok (.page a) => match (translate s w a 1 .write).2 with
    | .ok p => Memory.nat s.mem p.key 1
    | .error _ => 0
  | _ => 0

/-- Consecutive bytes joined into runs. -/
def byteRuns (bs : List (Nat × Byte)) : List (Nat × List Byte) :=
  bs.foldr (fun b r => match r with
    | (a, x) :: t => if a == b.1 + 1 then (b.1, b.2 :: x) :: t else (b.1, [b.2]) :: r
    | [] => [(b.1, [b.2])]) []

/-- Write a map of bytes in address order (12 R241). -/
def engineWriteMap (s : State) (w : Who) (blk : Option Nat) (dig : Option (Nat × Nat)) (m : SMap (Nat × Nat)) :
    State × Nat × Option Flt :=
  let bytes := m.map (fun e => (e.1, BitVec.ofNat 8 (if e.2.1 == 255 then e.2.2 else
    (engineOld s w blk e.1 &&& (255 - e.2.1)) ||| e.2.2)))
  (byteRuns bytes).foldl (fun (acc : State × Nat × Option Flt) run =>
    match acc.2.2 with
    | some _ => acc
    | none =>
      let (s, n, f) := engineWrite acc.1 w blk dig run.1 run.2
      (s, acc.2.1 + n, f)) (s, 0, none)

/-- The bytes that a copy writes, from its converted elements and scales. -/
def copyImage (d : CopyDesc) (a : CopyRead) : SMap (Nat × Nat) :=
  let m : SMap (Nat × Nat) :=
    if d.dlay == 1 then
      let nf := d.dfmt - 16
      let kg := d.count 0
      let clear : SMap (Nat × Nat) := if d.total == 0 then [] else
        (List.range (256 * planeRows d.columns (nfPlanes nf) (d.count 1) kg)).map (fun k => (d.dst + k, (255, 0)))
      a.outs.foldl (fun m o =>
        let j := coordsAt d.counts o.1
        (List.range (nfPlanes nf)).foldl (fun m p =>
          if planeBit nf o.2 p then
            putBits m (8 * d.dst + planePos d.columns (nfPlanes nf) kg (j.getD 1 0) (j.getD 0 0) p) 1 1
          else m) m) clear
    else a.outs.foldl (fun m o => putBits m (d.dstBit (coordsAt d.counts o.1)).toNat d.dw o.2) []
  a.scales.foldl (fun m x => putBits m (8 * x.1.toNat) 8 x.2) m

/-- Perform a copy that meets R241: code and counters (12 R240 to R242). Codes: 0 OK, 2 OVERLAP, 3 SYNC_SPACE, 4 ACCESS, 6
ABORTED. The ranges compared for OVERLAP are the span of the elements and that of the scale bytes, each on its own, and elements beyond the
source's bounds are in neither (notes/assumptions/126.md). -/
def runCopy (s : State) (d : CopyDesc) (w : Who) (blk : Option Nat) (digest : Option Nat) : State × Nat × CopyStat :=
  let rs := [d.srcRanges, d.srcScaleRanges]
  let ws := [d.dstRanges, d.dstScaleRanges]
  if !(s.region w.region).live then (s, 6, CopyStat.zero)
  else if (rs ++ ws).any (fun r => r.any inSync) then (s, 3, CopyStat.zero)
  else if rs.any (fun r => ws.any (fun q => overlaps (spanOf r) (spanOf q))) then (s, 2, CopyStat.zero)
  else
    let a := d.blocks.foldl (copyBlock d w blk) { s := s, outs := [], scales := [], st := CopyStat.zero }
    match a.st.flt with
    | some _ => (a.s, 4, a.st)
    | none =>
      match (d.dstRanges ++ d.dstScaleRanges).find? (fun r => decide (r.1 < 0)) with
      | some r => (a.s, 4, { a.st with flt := some (fltOf .addrRange r.1) })
      | none =>
        let (s, n, f) := engineWriteMap a.s w blk (digest.map (fun b => (b, fmtDigits d.dfmt))) (copyImage d a)
        let st := { a.st with bytes := n, flt := f }
        (s, if f.isSome then 4 else 0, st)

/-- The 128-bit status record of a copy (12 R242). -/
def copyStatus (st : CopyStat) (engine code : Nat) : Nat :=
  code % 16 + engine % 16 * 2 ^ 4 + min st.fmt 0xFFFF * 2 ^ 32 + min st.nan 0xFFFF * 2 ^ 48 + min st.ufl 0xFFFF * 2 ^ 64 +
    min st.sat 0xFFFF * 2 ^ 80 + min st.bytes 0xFFFF_FFFF * 2 ^ 96

/-- Acceptance of an XCOPY (12 R239, R242). -/
def acceptCopy (s : State) (b i tag off : Nat) : State :=
  let B := s.block b
  let m := B.member i
  let die := coreDie B.core
  let (v, s) := s.free
  let e := v.toNat % 8
  let (ok, pb) := paramBlock s b off 112 128
  let d := CopyDesc.of pb
  let slots := if ok && d.ok then
      (slotsOf (d.srcRanges ++ d.srcScaleRanges ++ d.dstRanges ++ d.dstScaleRanges)).filter (fun n => decide (4096 * n < B.spadSize))
    else []
  let bad := slots.any (fun n => ownerOf B n != .given)
  let D := s.die die
  let op : CopyOp :=
    { id := D.copySeq, blk := b, mem := i, tag := tag, region := B.region, pbOff := off, pbOk := ok, pb := pb, engine := e
      digest := m.first.ctl64 6, slots := if bad then [] else slots, ownerFail := bad
      denied := !admitted s (threadOf B) (targetEngine die e) .write 0 0 || D.fencedCompute || D.fencedFull, pc := m.pc }
  let s := s.setDie die { D with copyq := D.copyq ++ [op], copySeq := D.copySeq + 1 }
  let s := (if bad then [] else slots).foldl (fun s n => setOwner s b n (.claimed op.id)) s
  tagClear s b tag

/-- XCOPY (12 R239). -/
def execXcopy (x : Ext) (s : State) : Result :=
  onceRun x 56 { reads := [(false, opA x), noRead, noRead, noRead], steer := [0] } false noDest (fun l s =>
    let B := s.block l.b
    if B.tagN ≤ x.d % 64 then (s, .fault (fltOf .tagRange 0))
    else if 64 ≤ (s.die (coreDie B.core)).copyq.length then (s, .notReady)
    else (acceptCopy s l.b l.i (x.d % 64) (medianBy unsignedV (l.src 0)), .done [])) s
def execXcopyBase (x : Base) (s : State) : Result := execXcopy (Base.toExt 56 x) s

/-- Perform a copy operation that is in a die's queue: code and counters (12 R241, R242). -/
def performCopy (s : State) (op : CopyOp) : State × Nat × CopyStat :=
  let d := CopyDesc.of op.pb
  if !op.pbOk || !d.ok then (s, 1, CopyStat.zero)
  else if op.ownerFail then (s, 5, CopyStat.zero)
  else if op.denied then (s, 4, CopyStat.zero)
  else runCopy s d { engineOf (s.block op.blk) 1 with region := op.region } (some op.blk) (some op.digest.toNat)

/-- COPY_COMPLETE: the engine performs the copy, writes its status record, returns the owner bits it claimed and completes the
tag (12 R239 to R242). -/
def execCopyComplete (die idx : Nat) (s : State) : Result :=
  .next (match (s.die die).copyq[idx]? with
    | none => s
    | some op =>
      let s := { s with reqs := [] }
      let (s, code, st) := performCopy s op
      let s := sampleEngine s (s.block op.blk) op.pc
      let status := copyStatus st op.engine code
      let s := if op.pbOk then
          s.setBlock op.blk { s.block op.blk with spad := storeWrite (s.block op.blk).spad (op.pbOff + 112) (leBytes 16 status) }
        else s
      let s := op.slots.foldl (fun s n => setOwner s op.blk n .threads) s
      let s := s.setDie die { s.die die with copyq := (s.die die).copyq.filter (fun o => o.id != op.id) }
      tagDone s op.blk op.tag (BitVec.ofNat 128 status))

end Sys2Proof.Machine
end

