-- ==== Sys2Proof/Machine/Queues.lean ====
section
/-!
DEFINITION. User-mode queues: their control blocks, packets and completion records, ERROR and RESUME, and the queue table of a
block-transfer engine (spec 12 R243 to R247; 18 R335; 21 R372 to R374).
-/
namespace Sys2Proof.Machine

/-- The engine's knowledge of queue `q` of engine `e` (18 R335). -/
def DieSt.queue (D : DieSt) (e q : Nat) : QueueSt := SMap.get QueueSt.off D.qtab (16 * e + q)
def setQueue (s : State) (die e q : Nat) (v : QueueSt) : State :=
  s.setDie die { s.die die with qtab := SMap.set QueueSt.off (s.die die).qtab (16 * e + q) v }

/-- The master of a queue's accesses: kind COPY, past the K bit (18 R382). -/
def queueWho (region die : Nat) : Who := { region := region, kind := 1, priv := true, core := none, die := some die, src := 0 }

/-- Fields of a queue control block in device memory (12 R243, 18 R382). -/
def qField (s : State) (pa off n : Nat) : Nat := Memory.nat s.mem (pa + off) n
def qRegion (s : State) (pa : Nat) : Nat := qField s pa 18 2
def qState (s : State) (pa : Nat) : Nat := bitsAt (qField s pa 16 2) 4 2

/-- Whether the engine reaches the control block: a request of its region's master that the block's target admits (12 R243; 18 R322,
R335). -/
def qReach (s : State) (die pa : Nat) (k : AccKind) : Bool := (checkTarget s (queueWho (qRegion s pa) die) 0 pa 128 pa k).2.isNone

/-- Count one access of an engine to a control block, a transaction of its own (10 R197). -/
def qCount (s : State) (die pa kind : Nat) : State :=
  let t := countReq { s with reqs := [] } (queueWho (qRegion s pa) die) (physPage pa) pa kind
  { t with reqs := s.reqs ++ t.reqs }

/-- Write a field of the control block; a write that its target refuses counts and is not made (10 R197; notes/assumptions/36.md). -/
def qPut (s : State) (die pa off n v : Nat) : State :=
  let t := qCount s die pa 1
  if qReach s die pa .write then { t with mem := Memory.write s.mem (pa + off) (leBytes n v) } else t
def qSetState (s : State) (die pa v : Nat) : State :=
  let c := qField s pa 16 2
  qPut s die pa 16 2 (c - bitsAt c 4 2 * 16 + v * 16)

/-- An engine that exists and is in service (01 R16; 18 R332), and one of its 16 queues. -/
def engineLive (s : State) (die e q : Nat) : Bool :=
  decide (die < 4) && decide (e < 8) && decide (q < 16) && !(s.die die).fencedCompute && !(s.die die).fencedFull

/-- STATE OFF, also when the region has ended, whose table entries are gone (12 R245; 18 R323, R335). -/
def qOff (s : State) (die pa : Nat) : State :=
  let c := qField s pa 16 2
  if (s.region (qRegion s pa)).live then qSetState s die pa 0
  else { qCount s die pa 1 with mem := Memory.write s.mem (pa + 16) (leBytes 2 (c - bitsAt c 4 2 * 16)) }

/-- STATE OFF and VALID cleared (12 R245, 18 R335). -/
def queueOff (s : State) (die e q : Nat) : State :=
  let k := (s.die die).queue e q
  setQueue (qOff s die k.paddr) die e q { k with valid := false }

/-- Sample the requests that a packet caused (20 R371). -/
def samplePacket (s : State) (die e r : Nat) : State :=
  if sampling s r then sampleReqs s r die (0x100 + e) 0 0xFFFF_FFFF (some 4) s.reqs else s

/-- STATE ERROR and QUEUE_ERROR (12 R245, 21 R373). -/
def queueError (s : State) (die e pa record : Nat) (bad : Option (Nat × Nat)) : State :=
  deliverAsync (samplePacket (qSetState s die pa 2) die e (qRegion s pa)) { region := qRegion s pa, die := die, record := record, paddr := pa, bad := bad }

/-- Status of a packet (12 R246) with what its completion record says. -/
structure PacketEnd where
  status : Nat
  bytes : Nat
  faddr : Nat
  fcode : Nat
  deriving DecidableEq, Repr

def pktOk : Nat := 0
def pktBadType : Nat := 1
def pktFormat : Nat := 2
def pktSync : Nat := 4
def pktAccess : Nat := 5
def pktAborted : Nat := 6
def PacketEnd.plain (st : Nat) : PacketEnd := { status := st, bytes := 0, faddr := 0, fcode := 0 }
def PacketEnd.access (bytes : Nat) (f : Flt) : PacketEnd := { status := pktAccess, bytes := bytes, faddr := f.addr, fcode := f.fcode }

/-- Packet status of an XCOPY code (12 R246). -/
def pktOfCopy (code : Nat) : Nat :=
  match code with
  | 0 => 0 | 1 => 2 | 2 => 3 | 3 => 4 | 4 => 5 | _ => 6

/-- An address in the scratchpad or lane-store window (12 R244). -/
def inWindow (a : Nat) : Bool := bitsAt a 52 12 == 0x1D || bitsAt a 52 12 == 0x1E
def inSyncWindow (a : Nat) : Bool := bitsAt a 52 12 == 0x1F

/-- Whether the reserved fields, alignments and windows of a packet of TYPE `t` are as 12 R244 requires. -/
def packetOk (t : Nat) (p : List Byte) : Bool :=
  let w (o : Nat) : Nat := fieldAt p o 8
  let zeros (o : Nat) : Bool := (p.drop o).all (fun b => b == 0)
  bitsAt (w 0) 9 23 == 0 && bitsAt (w 0) 4 4 == 0 &&
  (match t with
  | 0 => zeros 8
  | 1 => zeros 28 && !inWindow (w 8) && !inWindow (w 16)
  | 2 => zeros 16 && w 8 % 64 == 0 && !inWindow (w 8)
  | 3 => zeros 24 && w 8 % 4 == 0 && fieldAt p 16 4 % 4 == 0 && !inWindow (w 8)
  | _ => zeros 32 && w 8 % 8 == 0 && decide (w 24 < 2) && !inWindow (w 8))

/-- The copy of a COPY packet: BYTES untyped bytes (12 R244). -/
def copyPacket (src dst n : Nat) : CopyDesc :=
  { src := src, dst := dst, ctl := 0, seq := 0, seed := 0, counts := [n, 1, 1, 1, 1, 1], ss := [0, 0, 0, 0, 0], ds := [0, 0, 0, 0, 0]
    sext0 := n, sext1 := 1, ssoff := 0, dsoff := 0, tscale := 0, res := 0 }

def endOfCopy (code : Nat) (st : CopyStat) : PacketEnd :=
  { status := pktOfCopy code, bytes := st.bytes, faddr := (st.flt.map Flt.addr).getD 0, fcode := (st.flt.map Flt.fcode).getD 0 }

/-- A copy that a packet describes (12 R244, R245). -/
def packetCopy (s : State) (w : Who) (d : CopyDesc) : State × Nat × CopyStat :=
  if !d.ok || inWindow d.src || inWindow d.dst then (s, 1, CopyStat.zero)
  else if inSyncWindow d.src || inSyncWindow d.dst then (s, 3, CopyStat.zero)
  else runCopy s d w none none

/-- A SIGNAL packet: a 64-bit store or fetch-add (12 R244). -/
def packetSignal (s : State) (w : Who) (addr value : Nat) (add : Bool) : State × PacketEnd :=
  let ok : PacketEnd := { status := pktOk, bytes := 8, faddr := 0, fcode := 0 }
  if inSyncWindow addr then
    match syncReach s w addr (if add then .atomic else .write) with
    | (s, .error f) => (s, PacketEnd.access 0 f)
    | (s, .ok (key, old)) => (syncWrite s key (if add then (old + value) % 2 ^ 64 else value), ok)
  else match engineWindow s none addr 8 with
    | .error f => (s, PacketEnd.access 0 f)
    | .ok _ =>
      if add then
        match reachAtomic s w addr 8 3 with
        | (s, .error f) => (s, PacketEnd.access 0 f)
        | (s, .ok p) =>
          let v := (Memory.nat s.mem p.key 8 + value) % 2 ^ 64
          let keys := if p.rep == 1 then (List.range 3).map p.plane else [p.key]
          (keys.foldl (fun s k => atomicKey s w p k (leBytes 8 v)) s, ok)
      else match engineWrite s w none none addr (leBytes 8 value) with
        | (s, n, some f) => (s, PacketEnd.access n f)
        | (s, _, none) => (s, ok)

/-- Perform a packet of TYPE `t` (12 R244, R245). -/
def performPacket (s : State) (w : Who) (e t : Nat) (p : List Byte) : State × PacketEnd :=
  let f (o : Nat) : Nat := fieldAt p o 8
  if !packetOk t p then (s, PacketEnd.plain pktFormat)
  else match t with
    | 0 => (s, PacketEnd.plain pktOk)
    | 1 => let (s, code, st) := packetCopy s w (copyPacket (f 8) (f 16) (fieldAt p 24 4)); (s, endOfCopy code st)
    | 2 => match engineRead s w none (f 8) 128 with
      | (s, .error x) => (s, PacketEnd.access 0 x)
      | (s, .ok pb) =>
        let (s, code, st) := packetCopy s w (CopyDesc.of pb)
        match engineWrite s w none none (f 8 + 112) (leBytes 16 (copyStatus st e code)) with
        | (s, _, some x) => (s, { status := pktAccess, bytes := st.bytes, faddr := f 8 + 112, fcode := x.fcode })
        | (s, _, none) => (s, endOfCopy code st)
    | 3 =>
      let n := fieldAt p 16 4
      if inSyncWindow (f 8) || (n != 0 && inSyncWindow (f 8 + n - 1)) then (s, PacketEnd.plain pktSync)
      else match engineWrite s w none none (f 8) ((List.replicate (n / 4) ((p.drop 20).take 4)).flatten) with
        | (s, k, some x) => (s, PacketEnd.access k x)
        | (s, k, none) => (s, { status := pktOk, bytes := k, faddr := 0, fcode := 0 })
    | _ => packetSignal s w (f 8) (f 16) (bitN (f 24) 0)

/-- A completion record (12 R246). -/
def completionRecord (t index : Nat) (r : PacketEnd) : List Byte :=
  leBytes 32 (index % 2 ^ 32 + r.status % 2 ^ 8 * 2 ^ 32 + t % 16 * 2 ^ 44 + r.fcode % 2 ^ 32 * 2 ^ 96 +
    r.bytes % 2 ^ 64 * 2 ^ 128 + r.faddr % 2 ^ 64 * 2 ^ 192)

/-- What follows a packet: its completion record, ERROR, OFF, or the next index (12 R245), and its samples (20 R371). -/
def packetFinish (s : State) (die e q pa t : Nat) (crec hfault : Bool) (r : PacketEnd) : State :=
  let idx := qField s pa 4 4
  let cwr := qField s pa 32 4
  let (s, bad) :=
    if r.status != pktOk || crec then
      let a := qField s pa 24 8 + 32 * (cwr % 2 ^ qField s pa 36 4)
      match writeRange s (queueWho (qRegion s pa) die) a (completionRecord t idx r) with
      | (s, some f) => (s, some (a, f.fcode))
      | (s, none) => (qPut s die pa 32 4 (cwr + 1), none)
    else (s, none)
  match bad with
  | some b => queueError s die e pa cwr (some b)
  | none =>
    if r.status == pktBadType || r.status == pktFormat || hfault then queueError s die e pa cwr none
    else samplePacket (if r.status == pktAborted then queueOff s die e q else qPut s die pa 4 4 (idx + 1)) die e (qRegion s pa)

/-- The header slot of the next packet: its 64 bytes (12 R243, R245). -/
def nextPacket (s : State) (die pa : Nat) : State × Except Flt (List Byte) :=
  readRange s (queueWho (qRegion s pa) die) (qField s pa 8 8 + 64 * (qField s pa 4 4 % 2 ^ bitsAt (qField s pa 16 2) 0 4)) 64

/-- Whether an engine serves a queue: it is in RUN, its region lives, and the engine, in service, reaches its control block (12 R243, R245;
18 R332). -/
def serves (s : State) (die e q : Nat) : Bool :=
  let k := (s.die die).queue e q
  engineLive s die e q && k.valid && qState s k.paddr == 1 && (s.region (qRegion s k.paddr)).live && qReach s die k.paddr .read &&
    qReach s die k.paddr .write

/-- Serve a queue: the packet at RDIDX, when the step's kind is that of the packet (12 R245). `want` is none for an unreadable header; a
TYPE of 5 or more is BADTYPE. -/
def serveQueue (s : State) (die e q : Nat) (want : Option Nat) : State :=
  let k := (s.die die).queue e q
  let pa := k.paddr
  if !serves s die e q then s
  else
    let s0 := qCount { s with reqs := [] } die pa 0
    match nextPacket s0 die pa, want with
    | (s1, .error f), none => packetFinish s1 die e q pa 0 false true (PacketEnd.access 0 f)
    | (_, .error _), some _ => s
    | (_, .ok _), none => s
    | (s1, .ok p), some w =>
      let t := fieldAt p 0 1 % 16
      if fieldAt p 4 4 != qField s pa 4 4 || min t 5 != w then s
      else
        let (s2, r) := if t ≥ 5 then (s1, PacketEnd.plain pktBadType)
          else performPacket s1 (queueWho (qRegion s pa) die) e t p
        packetFinish s2 die e q pa t (bitN (fieldAt p 0 8) 8) false r

/-- QUEUE_NOP to QUEUE_SIGNAL and QUEUE_BADTYPE: the engine performs the next packet (12 R244, R245). -/
def execQueueNop (die eng q : Nat) (s : State) : Result := .next (serveQueue s die eng q (some 0))
def execQueueCopy (die eng q : Nat) (s : State) : Result := .next (serveQueue s die eng q (some 1))
def execQueueQuantise (die eng q : Nat) (s : State) : Result := .next (serveQueue s die eng q (some 2))
def execQueueFill (die eng q : Nat) (s : State) : Result := .next (serveQueue s die eng q (some 3))
def execQueueSignal (die eng q : Nat) (s : State) : Result := .next (serveQueue s die eng q (some 4))
def execQueueBadtype (die eng q : Nat) (s : State) : Result := .next (serveQueue s die eng q (some 5))
/-- QUEUE_HEADER_FAULT: the header cannot be read (12 R245). -/
def execQueueHeaderFault (die eng q : Nat) (s : State) : Result := .next (serveQueue s die eng q none)
/-- QUEUE_REGION_ENDED: nothing is performed or recorded; STATE OFF, VALID cleared (12 R245). -/
def execQueueRegionEnded (die eng q : Nat) (s : State) : Result :=
  .next (
    let k := (s.die die).queue eng q
    if engineLive s die eng q && k.valid && !(s.region (qRegion s k.paddr)).live then queueOff s die eng q else s)
/-- QUEUE_RESUME: a non-zero RESUME restarts a queue in ERROR; it is cleared in any state, also in OFF once an entry has named the control
block (12 R247). -/
def execQueueResume (die eng q : Nat) (s : State) : Result :=
  .next (
    let k := (s.die die).queue eng q
    if engineLive s die eng q && (k.valid || k.paddr != 0) && qReach s die k.paddr .read && qField s k.paddr 20 4 != 0 then
      let t := qPut (qCount s die k.paddr 0) die k.paddr 20 4 0
      if k.valid && qState s k.paddr == 2 then qSetState t die k.paddr 1 else t
    else s)

/-- The checks that an engine, in service, makes before it serves a queue: it reads the control block under the master of its CTL.REGION
(18 R335). -/
def queueChecks (s : State) (die e q pa : Nat) : Bool :=
  let n := bitsAt (qField s pa 16 2) 0 4
  let c := qField s pa 36 4
  engineLive s die e q && qReach s die pa .read && decide (1 ≤ n) && decide (1 ≤ c) && decide (c ≤ 15) &&
    (s.region (qRegion s pa)).live

/-- A host write to a QTAB entry (18 R335): with VALID 1 in the entry, a write that changes PADDR is ignored. -/
def writeQtab (s : State) (die e q : Nat) (value : W64) : State :=
  let k := (s.die die).queue e q
  let pa := bitsAt value.toNat 7 31 * 128
  let valid := bitN value.toNat 0
  if k.valid then (if valid || pa != k.paddr then s else queueOff s die e q)
  else if !valid then setQueue s die e q { valid := false, paddr := pa }
  else
    let t := qCount s die pa 0
    if queueChecks s die e q pa then setQueue (qSetState t die pa 1) die e q { valid := true, paddr := pa }
    else setQueue (qOff t die pa) die e q { valid := false, paddr := pa }

/-- QUEUE_ENABLE and QUEUE_DISABLE: a write to QTAB with VALID 1 or 0 (18 R335). -/
def execQueueEnable (die eng q : Nat) (value : BitVec 64) (s : State) : Result :=
  .next (if die < 4 ∧ eng < 8 ∧ q < 16 then writeQtab s die eng q (value ||| 1) else s)
def execQueueDisable (die eng q : Nat) (value : BitVec 64) (s : State) : Result :=
  .next (if die < 4 ∧ eng < 8 ∧ q < 16 then writeQtab s die eng q (value &&& ~~~1) else s)

end Sys2Proof.Machine
end

