-- ==== Sys2Proof/Machine/Stream.lean ====
section
/-!
DEFINITION. Jorile streams: flits and their bytes, routes and ports, sending and receiving with acknowledgement, retry, castling and
loss, and the reply cache (spec 16 R282 to R290, R383; 18 R333, R337).
-/
namespace Sys2Proof.Machine

/-- Traffic classes (16 R283). -/
def tcRequest : Nat := 0
def tcReply : Nat := 1
def tcColl : Nat := 2
def tcInvoke : Nat := 3

/-- KIND codes of a flit header (16 R284). -/
def fkAck : Nat := 0
def fkNak : Nat := 1
def fkRld : Nat := 2
def fkReply : Nat := 5
def fkInvoke : Nat := 7
def fkCont : Nat := 8
def fkNotice : Nat := 9

/-- Key of a stream to or from a module. -/
def streamKey (m tc : Nat) : Nat := 4 * m + tc % 4
def State.sendOf (s : State) (m tc : Nat) : SendStream := SMap.get SendStream.new s.sends (streamKey m tc)
def State.setSend (s : State) (m tc : Nat) (v : SendStream) : State := { s with sends := SMap.put s.sends (streamKey m tc) v }
def State.recvOf (s : State) (m tc : Nat) : RecvStream := SMap.get RecvStream.new s.recvs (streamKey m tc)
def State.setRecv (s : State) (m tc : Nat) (v : RecvStream) : State := { s with recvs := SMap.put s.recvs (streamKey m tc) v }
def State.dev (s : State) : Nat := s.host.devid

/-- CRC-16 with polynomial 0x1021, most significant bit first (16 R284). -/
def crc16Bit (c : Nat) : Nat := if bitN c 15 then (2 * c % 2 ^ 16) ^^^ 0x1021 else 2 * c
def crc16Byte (c : Nat) (b : Byte) : Nat := (List.range 8).foldl (fun c _ => crc16Bit c) (c ^^^ b.toNat * 2 ^ 8)
def crc16 (bs : List Byte) : Nat := bs.foldl crc16Byte 0xFFFF

/-- The header of a flit without its CHECK (16 R284). -/
def Flit.header (f : Flit) : Nat :=
  f.plen % 2 ^ 8 * 2 ^ 20 + f.kind % 2 ^ 6 * 2 ^ 28 + boolN f.replay * 2 ^ 34 + boolN f.ackV * 2 ^ 35 + f.ackTc % 4 * 2 ^ 36 +
    f.tc % 4 * 2 ^ 38 + f.src % 2 ^ 12 * 2 ^ 40 + f.dst % 2 ^ 12 * 2 ^ 52 + f.ack % 2 ^ 32 * 2 ^ 64 + f.seq % 2 ^ 32 * 2 ^ 96

/-- The 256 bytes of a flit; the payload's layout is not given (16 R284; notes/assumptions/5.md). -/
def Flit.bytes (f : Flit) : List Byte :=
  let body := (leBytes 16 f.header).drop 2 ++ Config.payload f.kind f.seq
  leBytes 2 (crc16 body) ++ body

/-- Fields of an arriving header. -/
def hdrKind (h : Nat) : Nat := bitsAt h 28 6
def hdrPlen (h : Nat) : Nat := bitsAt h 20 8
def hdrTc (h : Nat) : Nat := bitsAt h 38 2
def hdrSrc (h : Nat) : Nat := bitsAt h 40 12
def hdrDst (h : Nat) : Nat := bitsAt h 52 12
def hdrAck (h : Nat) : Nat := bitsAt h 64 32
def hdrSeq (h : Nat) : Nat := bitsAt h 96 32

/-- Whether a flit is well formed (16 R284). -/
def flitOk (bs : List Byte) : Bool :=
  let h := fieldAt bs 0 16
  bs.length == 256 && crc16 (bs.drop 2) == fieldAt bs 0 2 && decide (hdrKind h ≤ 9) && bitsAt h 16 4 == 0 && decide (hdrPlen h ≤ 240)

/-- a precedes b by serial arithmetic (16 R285). -/
def precedes (a b : Nat) : Bool :=
  let d := (b + 2 ^ 32 - a % 2 ^ 32) % 2 ^ 32
  decide (1 ≤ d) && decide (d < 2 ^ 31)

/-- Die of a port (18 R331). -/
def portDie (p : Nat) : Nat := p / 16

/-- A port that carries flits (16 R287; 18 R332). -/
def portWorks (s : State) (p : Nat) : Bool :=
  let P := s.port p
  decide (p < 64) && !P.failed && !P.fenced && P.trained

/-- Route-table entry of a module; every field reads 0xFF after a start (18 R337). -/
def State.route (s : State) (m : Nat) : W64 := SMap.get 0xFFFF_FFFF s.host.routes m

/-- First working port to a module (16 R288, 18 R337). -/
def pickPort (s : State) (m : Nat) : Option Nat :=
  ((List.range 4).map (fun k => bitsAt (s.route m).toNat (8 * k) 8)).find? (portWorks s)

/-- The port a stream uses: the one it has, or the first working one (18 R337). -/
def streamPort (s : State) (m tc : Nat) : Nat :=
  let S := s.sendOf m tc
  if S.port == 0xFF then (pickPort s m).getD 0xFF else S.port

def transmit (s : State) (port : Nat) (f : Flit) : State := if portWorks s port then { s with wire := s.wire ++ [(port, f)] } else s

/-- The number of the first remote store of the stream that is delivered and not yet performed: its acknowledgement says that it is (11 R213,
R215). What a lost stream delivered bears numbers from 2^32 on. -/
def RecvStream.store (R : RecvStream) : Option Nat :=
  R.delivered.findSome? (fun d => match d.2 with
    | .request r => if r.op == 1 && decide (d.1 < 2 ^ 32) then some d.1 else none
    | _ => none)

/-- The highest number that a stream acknowledges: of those received in order, a reply counts once it has been taken, a store and what
follows it once it has been performed (11 R213; 16 R285, R290; notes/assumptions/114.md). -/
def ackNumber (s : State) (m tc : Nat) : Nat :=
  let R := s.recvOf m tc
  match if tc == tcRequest then R.store else none with
  | some n => (n + 2 ^ 33 - 1) % 2 ^ 32
  | none => (R.expected + 2 ^ 33 - 1 - (if tc == tcReply then R.delivered.length else 0)) % 2 ^ 32

/-- Flits kept in a port's retry buffer (16 R285). -/
def portHeld (s : State) (p : Nat) : Nat := s.sends.foldl (fun a kv => if kv.2.port == p then a + kv.2.unacked.length else a) 0

/-- Whether a port holds a flit that is not acknowledged; one that is and awaits its reply does not count (16 R287, R290). -/
def portUnacked (s : State) (p : Nat) : Bool :=
  s.sends.any (fun kv => kv.2.port == p && kv.2.unacked.any (fun f => !precedes f.seq kv.2.acked))

/-- Room for `n` more flits in a stream's window and in its port's retry buffer (16 R285). -/
def flitRoom (s : State) (m tc n : Nat) : Bool :=
  let S := s.sendOf m tc
  let p := streamPort s m tc
  decide ((S.next + 2 ^ 32 - S.acked) % 2 ^ 32 + n ≤ 4096) && (p == 0xFF || decide (portHeld s p + n ≤ 4096))

/-- Room for a packet of `n` flits at once: none waits before it (16 R285). -/
def streamRoom (s : State) (m tc n : Nat) : Bool := m == s.dev || ((s.sendOf m tc).waiting == [] && flitRoom s m tc n)

/-- The retry buffer of a port takes a flit; one that held none begins to await progress (16 R285, R287). -/
def holdPort (s : State) (p : Nat) : State :=
  if p == 0xFF || (s.port p).failed || portUnacked s p then s else s.setPort p { s.port p with since := s.reft.toNat, retries := 0 }

/-- Send one flit on a stream; it stays in the retry buffer (16 R284, R285). The acknowledgement of the stream from the same module
and class travels in its header. -/
def sendFlit (s : State) (m tc kind plen grid : Nat) (p : Packet) : State × Flit :=
  let S := s.sendOf m tc
  let port := streamPort s m tc
  let R := s.recvOf m tc
  let f : Flit := { seq := S.next, ack := if R.ackDue then ackNumber s m tc else 0, dst := m, src := s.dev, tc := tc, ackTc := tc
                    ackV := R.ackDue, replay := false, kind := kind, plen := plen, packet := p, grid := grid }
  let s := holdPort (if R.ackDue then s.setRecv m tc { R with ackDue := false } else s) port
  let s := s.setSend m tc { S with
    next := (S.next + 1) % 2 ^ 32, unacked := S.unacked ++ [f], port := port
    started := if S.next == 0 && S.acked == 0 && S.unacked == [] then s.reft.toNat else S.started }
  (transmit s port f, f)

/-- Put a flit on a stream, or let it wait there in order until it has room (16 R285). -/
def postFlit (s : State) (m tc kind plen grid : Nat) (p : Packet) : State :=
  if streamRoom s m tc 1 then (sendFlit s m tc kind plen grid p).1
  else
    let S := s.sendOf m tc
    s.setSend m tc { S with waiting := S.waiting ++
      [{ seq := 0, ack := 0, dst := m, src := s.dev, tc := tc, ackTc := tc, ackV := false, replay := false, kind := kind, plen := plen
         packet := p, grid := grid }] }

/-- Send what waits on a stream while it has room (16 R285). -/
def drainSend (m tc : Nat) : Nat → State → State
  | 0, s => s
  | fuel + 1, s =>
    let S := s.sendOf m tc
    match S.waiting with
    | [] => s
    | f :: r =>
      if flitRoom s m tc 1 then drainSend m tc fuel (sendFlit (s.setSend m tc { S with waiting := r }) m tc f.kind f.plen f.grid f.packet).1
      else s
def drainSends (s : State) : State := s.sends.foldl (fun s kv => drainSend (kv.1 / 4) (kv.1 % 4) kv.2.waiting.length s) s

/-- Payload bytes in use in the first flit of a packet: the payload's layout is not given (16 R284; notes/assumptions/5.md). -/
def packetLen (s : State) (m tc kind : Nat) : Nat := min 240 (Config.payloadLen kind (s.sendOf m tc).next)

/-- Hand a packet of a grid to a stream. A packet for the own module is delivered there (16 R293). -/
def sendPacket (s : State) (m tc kind grid : Nat) (p : Packet) : State :=
  if m == s.dev then
    let R := s.recvOf m tc
    s.setRecv m tc { R with expected := (R.expected + 1) % 2 ^ 32, delivered := R.delivered ++ [(R.expected, p)] }
  else postFlit s m tc kind (packetLen s m tc kind) grid p

/-- The packets of an INVOKE with its arguments: continuation flits of up to 240 argument bytes follow the first (16 R284;
notes/assumptions/5.md). -/
def invokeFlits (i : Invocation) : Nat := 1 + ceilDiv i.args.length 240
def sendInvoke (s : State) (m grid : Nat) (p : Packet) (i : Invocation) : State :=
  let s := sendPacket s m tcInvoke fkInvoke grid p
  if m == s.dev then s
  else (List.range (ceilDiv i.args.length 240)).foldl (fun s k =>
    postFlit s m tcInvoke fkCont (min 240 (i.args.length - 240 * k)) grid .none_) s

/-- A request that returns a reply needs a reply-cache entry (16 R290): KIND RLD, RATOM or INVOKE. -/
def needsEntry (kind : Nat) : Bool := kind == 2 || kind == 4 || kind == fkInvoke

/-- Requests delivered and not yet performed that need an entry on a die: the anchor die of a stream is its source module mod 4
(17 R311). -/
def pendingEntries (s : State) (die : Nat) : Nat :=
  s.recvs.foldl (fun a kv => if kv.1 / 4 % 4 == die && (kv.1 % 4 == tcRequest || kv.1 % 4 == tcInvoke) && kv.1 / 4 != s.dev then
    a + (kv.2.delivered.filter (fun d => match d.2 with
      | .request r => r.op != 1 | .invoke _ => true | .callh _ => true | _ => false)).length else a) 0

/-- Room in a die's reply cache (16 R290). -/
def cacheRoom (s : State) (die : Nat) : Bool := decide ((s.die die).replies.length + pendingEntries s die < 32768)

/-- What a delivered packet says: the payload's layout is not given, so its fields are free (16 R284; notes/assumptions/5.md). -/
def freePacket (s : State) (kind port : Nat) : State × Packet :=
  let (v, s) := s.free
  let n := v.toNat
  let (a, s) := s.free
  let (b, s) := s.free
  let (c, s) := s.free
  let (d, s) := s.free
  let (e, s) := s.free
  let (g, s) := s.free
  let (h, s) := s.free
  let invocation : Invocation :=
    { handle := a, region := n % 2 ^ 16, exec := s.dev, lrec := b.toNat % 2 ^ 57, resLen := c.toNat % 2 ^ 20 * 64
      args := leBytes (8 * (n / 2 ^ 16 % 511)) (d.toNat + e.toNat * 2 ^ 64), producer := g, addressed := none }
  (s, match kind with
    | 2 | 3 | 4 => .request
        { id := a.toNat, op := if kind == 4 then 2 + n / 2 ^ 21 % 8 else kind - 2, ty := Ty.ofCode (n / 2 ^ 16 % 15), region := n % 2 ^ 16
          addr := b.toNat % 2 ^ 57, data := [c, d, e], cmp := [g, g, g], triad := bitN n 20, digest := h.toNat % 2 ^ 57, port := port }
    | 5 => .reply a.toNat [b, c, d] (if bitN n 0 then some (e.toNat % 2 ^ 57, g.toNat % 2 ^ 32) else none)
    | 7 => if bitN n 63 then .callh { invocation with addressed := some h }
        else .invoke { invocation with addressed := if bitN n 62 then some h else none }
    | 9 => .notice a (b.toNat % 5) (c.toNat % 2 ^ 8) (d.toNat % 2 ^ 12) (e.toNat % 2 ^ 20) (g.toNat % 2 ^ 57) (n % 2 ^ 16)
    | _ => .none_)

/-- Deliver flits of a stream in order while the next one is held and, where it needs a reply-cache entry, one is free
(16 R286, R290; 17 R311). -/
def drainRecv (src tc : Nat) : Nat → State → State
  | 0, s => s
  | fuel + 1, s =>
    let R := s.recvOf src tc
    match R.held.find? (fun h => h.1 == R.expected) with
    | none => s
    | some (n, kind, port) =>
      if needsEntry kind && !cacheRoom s (src % 4) then s
      else
        let (s, p) := freePacket s kind port
        let R := s.recvOf src tc
        let delivered := match p with
          | .none_ => R.delivered
          | p => R.delivered ++ [(n, p)]
        drainRecv src tc fuel (s.setRecv src tc { R with
          expected := (n + 1) % 2 ^ 32, held := R.held.filter (fun h => h.1 != n), delivered := delivered })

/-- Deliver what the reply cache held back (16 R290). -/
def drainAll (s : State) : State :=
  s.recvs.foldl (fun s kv => if kv.2.held == [] then s else drainRecv (kv.1 / 4) (kv.1 % 4) (kv.2.held.length + 1) s) s

/-- Whether an unacknowledged flit awaits its reply and so stays in the retry buffer (16 R290). -/
def awaitsReply (s : State) (f : Flit) : Bool :=
  match f.packet with
  | .request r => r.op != 1 && s.outs.any (fun o => o.id == r.id && !o.answered)
  | .invoke i | .callh i => s.outs.any (fun o => o.op == 3 && o.addr == i.handle.toNat && !o.answered)
  | _ => false

/-- What an RST's acknowledgement completes (11 R213; 20 R371): the request is performed, and a later load of the core follows one that is
an SC event (11 R202). -/
def ackStores (s : State) (fs : List Flit) : State :=
  fs.foldl (fun s f => match f.packet with
    | .request r => if r.op == 1 then
        let s := match s.outs.find? (fun o => o.id == r.id && o.sc) with
          | some o => flushL1 s (s.block o.blk).core
          | none => s
        let s := match s.outs.find? (fun o => o.id == r.id && o.sampled) with
          | some o =>
            let B := s.block o.blk
            samplePut s B.region (coreDie B.core) B.core 3 o.pc B.blk
              { agent := 0, region := B.region, line := 0, kind := 1, va := o.addr, place := 0, cached := false, keystone := false }
          | none => s
        { s with outs := s.outs.map (fun o => if o.id == r.id then { o with answered := true } else o) }
      else s
    | _ => s) s

/-- An acknowledgement of everything up to `ack` on the stream to a module (16 R285, R290); it is progress on the stream's port (16
R287) and makes room for what waits. -/
def takeAck (s : State) (m tc ack : Nat) : State :=
  let S := s.sendOf m tc
  let upto := (ack + 1) % 2 ^ 32
  if !(precedes S.acked upto && !precedes S.next upto) then s
  else
    let gone (f : Flit) : Bool := precedes f.seq upto
    let s := ackStores s (S.unacked.filter gone)
    let s := s.setSend m tc { S with acked := upto, unacked := S.unacked.filter (fun f => !gone f || awaitsReply s f) }
    let s := drainSends (if S.port == 0xFF || (s.port S.port).failed then s else s.setPort S.port { s.port S.port with retries := 0, since := s.reft.toNat })
    if tc != tcReply then s
    else drainAll { s with dies := s.dies.map (fun kv => (kv.1, { kv.2 with
      replies := kv.2.replies.filter (fun e => !(e.src == m && precedes e.replySeq upto)) })) }

/-- Note the modules whose last working route was lost between two states (16 R289). -/
def noteRoutes (s t : State) : State :=
  { t with lastRoute := (distinct (s.host.routes.map Prod.fst ++ t.host.routes.map Prod.fst)).foldl (fun l m =>
      if (pickPort s m).isSome && (pickPort t m).isNone then SMap.put l m t.reft.toNat else l) t.lastRoute }

/-- Whether a module has had no working route for 10 ms, counted from `since` at the earliest (16 R289). -/
def routeless (s : State) (m since : Nat) : Bool :=
  (pickPort s m).isNone && decide (max (SMap.get 0 s.lastRoute m) since + 10000000 ≤ s.reft.toNat)

/-- Fail a port: DIEFAULT shows it before its streams are castled, within 100 µs from now (16 R287, R288; 18 R333). -/
def failPort (s : State) (p : Nat) : State :=
  if 64 ≤ p || (s.port p).failed then s
  else
    let D := s.die (portDie p)
    noteRoutes s ((s.setPort p { s.port p with failed := true, since := s.reft.toNat }).setDie (portDie p) { D with portFail := setBitN D.portFail (p % 16) })

/-- A NAK: every unacknowledged flit from `e` onward is sent again on the same port; 16 successive retries on a port that have not advanced
the acknowledgement fail it (16 R287). -/
def takeNak (s : State) (m tc e : Nat) : State :=
  let S := s.sendOf m tc
  let again := S.unacked.filter (fun f => !precedes f.seq e)
  let P := s.port S.port
  if S.port == 0xFF then s
  else
    let s := again.foldl (fun s f => transmit s S.port f) (s.setPort S.port { P with retries := P.retries + 1 })
    if 16 ≤ P.retries + 1 then failPort s S.port else s

/-- Whether a stream holds flits after a number that it still expects (16 R287). -/
def RecvStream.gap (R : RecvStream) : Bool := R.held != [] && !R.held.any (fun h => h.1 == R.expected)

/-- An acknowledgement is due from now on, or from when it was (16 R285). -/
def RecvStream.due (R : RecvStream) (now : Nat) : RecvStream :=
  { R with ackDue := true, ackSince := if R.ackDue then R.ackSince else now }

/-- The gap of a stream after a flit: a new one stands from now on (16 R287). -/
def noteGap (s : State) (src tc : Nat) (before : RecvStream) : State :=
  let R := s.recvOf src tc
  if R.gap && !(before.gap && before.expected == R.expected) then s.setRecv src tc { R with gapSince := s.reft.toNat } else s

/-- A data flit (16 R286, R290). -/
def takeData (s : State) (port src tc kind seq : Nat) : State :=
  let R := s.recvOf src tc
  let d := (seq + 2 ^ 32 - R.expected) % 2 ^ 32
  if d ≤ 4096 then
    let held := if R.held.any (fun h => h.1 == seq) then R.held else R.held ++ [(seq, kind, port)]
    let due := if tc == tcReply then R else R.due s.reft.toNat
    noteGap (drainRecv src tc (held.length + 1) (s.setRecv src tc { due with held := held })) src tc R
  else if d < 2 ^ 31 then s
  else
    let s := s.setRecv src tc (R.due s.reft.toNat)
    match s.dies.findSome? (fun kv => kv.2.replies.find? (fun e => e.src == src && e.tc == tc && e.seq == seq)) with
    | some e => transmit s (streamPort s src tcReply) e.reply
    | none => s

/-- FLIT_RECEIVE (16 R284 to R287, R290): a malformed flit, or one for another module, is discarded whole. A flit for the module wakes its
die (15 R280) and breaks its source's silence (16 R383). -/
def execFlitReceive (port : Nat) (flit : List (BitVec 8)) (s : State) : Result :=
  .next (
    let h := fieldAt flit 0 16
    let src := hdrSrc h
    if !portWorks s port || !flitOk flit || hdrDst h != s.dev || src == 4095 || src == s.dev then s
    else
      let s := wakeDie { s with heard := SMap.put s.heard src s.reft.toNat } (portDie port)
      let s := if bitN h 35 && hdrKind h != fkNak then takeAck s src (bitsAt h 36 2) (hdrAck h) else s
      if hdrKind h == fkAck then s
      else if hdrKind h == fkNak then takeNak s src (bitsAt h 36 2) (hdrAck h)
      else takeData s port src (hdrTc h) (hdrKind h) (hdrSeq h))

/-- An ACK or NAK flit; neither has a number of its own (16 R284, R285). An ACK flit breaks the silence towards its module (16 R383). -/
def sendControl (s : State) (m tc kind ack : Nat) : State :=
  match pickPort s m with
  | none => s
  | some p =>
    let s := if kind == fkAck then { s with beats := SMap.put s.beats m s.reft.toNat } else s
    transmit s p { seq := 0, ack := ack, dst := m, src := s.dev, tc := tc, ackTc := tc, ackV := true, replay := false, kind := kind
                   plen := 0, packet := .none_, grid := 0 }

/-- ACK_TIMER (16 R285): an acknowledgement that has travelled in no other flit, within 1 µs of the receipt
(notes/assumptions/114.md). -/
def execAckTimer (src tc : Nat) (s : State) : Result :=
  .next (
    let R := s.recvOf src tc
    if R.ackDue && decide (tc < 4) then sendControl (s.setRecv src tc { R with ackDue := false }) src tc fkAck (ackNumber s src tc) else s)

/-- Whether the module holds a delivered request of `src` whose reply that module has not acknowledged (16 R383). -/
def holdsRequest (s : State) (src : Nat) : Bool :=
  s.dies.any (fun kv => kv.2.replies.any (fun e => e.src == src)) || (s.recvOf src tcRequest).delivered != [] ||
    (s.recvOf src tcInvoke).delivered != []

/-- The modules that are owed an ACK flit every 100 µs, with the REFT from which the present one is awaited (16 R383). -/
def beatsOf (s : State) : SMap Nat :=
  let srcs := distinct (s.dies.flatMap (fun kv => kv.2.replies.map CacheEntry.src) ++ s.recvs.map (fun kv => kv.1 / 4))
  (srcs.filter (fun m => holdsRequest s m && m != s.dev)).foldl (fun l m => SMap.put l m (SMap.get s.reft.toNat s.beats m)) []

/-- ACK flits that have been awaited for 100 µs are sent (16 R383). -/
def dueBeats (s : State) : List Task :=
  (s.beats.filter (fun kv => decide (kv.2 + 100000 ≤ s.reft.toNat))).map (fun kv => .event (.keepaliveAck kv.1))

/-- KEEPALIVE_ACK (16 R383). -/
def execKeepaliveAck (src : Nat) (s : State) : Result :=
  .next (if holdsRequest s src && src != s.dev then sendControl s src tcRequest fkAck (ackNumber s src tcRequest) else s)

/-- GAP_TIMEOUT (16 R287): the next expected number of a gap that has stood for 2 µs travels in a NAK,
which is repeated every 2 µs while the gap stands (notes/assumptions/114.md). -/
def execGapTimeout (src tc : Nat) (s : State) : Result :=
  .next (
    let R := s.recvOf src tc
    if R.gap && decide (tc < 4) && decide (R.gapSince + 2000 ≤ s.reft.toNat) then
      sendControl (s.setRecv src tc { R with gapSince := s.reft.toNat }) src tc fkNak R.expected
    else s)

/-- LANE_LOCK_LOSS (16 R287). -/
def execLaneLockLoss (port : Nat) (s : State) : Result := .next (failPort s port)

/-- ACK_PROGRESS_TIMEOUT (16 R287): 20 µs without progress while the port holds unacknowledged flits. -/
def execAckProgressTimeout (port : Nat) (s : State) : Result :=
  .next (if portUnacked s port && decide ((s.port port).since + 20000 ≤ s.reft.toNat) then failPort s port else s)

/-- Castle one stream to its first working route and replay its unacknowledged flits (16 R288). -/
def castle (s : State) (key : Nat) : State :=
  let m := key / 4
  let S := SMap.get SendStream.new s.sends key
  match pickPort s m with
  | none => s
  | some p =>
    let fs := S.unacked.map (fun f => { f with replay := S.port != 0xFF })
    let s := holdPort s p
    drainSends (fs.foldl (fun s f => transmit s p f) { s with sends := SMap.put s.sends key { S with port := p, unacked := fs } })

/-- Every stream that uses a port is castled (16 R288, 18 R332). -/
def castlePort (s : State) (p : Nat) : State :=
  s.sends.foldl (fun s kv => if kv.2.port == p then castle s kv.1 else s) s

/-- CASTLING: the streams of a failed or fenced port move; port 0xFF stands for streams that had no working route (16 R288). -/
def execCastling (port : Nat) (s : State) : Result :=
  .next (if portWorks s port then s else castlePort s port)


/-- The streams of a port that failed 100 µs ago are castled where they have another route (16 R288). -/
def dueCastlings (s : State) : List Task :=
  (s.ports.filter (fun kv => kv.2.failed && decide (kv.2.since + 100000 ≤ s.reft.toNat) &&
    s.sends.any (fun sv => sv.2.port == kv.1 && (pickPort s (sv.1 / 4)).isSome))).map (fun kv => .event (.castling kv.1))

/-- Acknowledgements that have been due for 1 µs travel in an ACK flit, once the stores delivered before it are performed (16 R285; 11
R213). -/
def dueAcks (s : State) : List Task :=
  (s.recvs.filter (fun kv => kv.2.ackDue && kv.1 / 4 != s.dev && decide (kv.2.ackSince + 1000 ≤ s.reft.toNat))).flatMap (fun kv =>
    (if kv.1 % 4 == tcRequest && kv.2.store.isSome then kv.2.delivered.map (fun _ => .event (.remoteRequestReceive (kv.1 / 4))) else []) ++
      [.event (.ackTimer (kv.1 / 4) (kv.1 % 4))])

end Sys2Proof.Machine
end

