-- ==== Sys2Proof/Machine/Handle.lean ====
section
/-!
DEFINITION. Arenas and their areas (spec 15 R384), and the state of handles at their home (16 R299, R300, R304, R305, R307).
-/
namespace Sys2Proof.Machine

/-- The region whose arena serves a region: its own, or its nearest ancestor's (15 R384). -/
def arenaOf (s : State) (r : Nat) : Option Nat := (s.ancestors r).find? (fun a => (s.region a).arenaSize != 0)

/-- Area bytes that a region and its descendants hold (15 R253, R384). -/
def areaBytes (s : State) (r : Nat) : Nat :=
  s.regions.foldl (fun n kv => kv.2.areas.foldl (fun n a => if s.within a.2.2 r then n + a.2.1 else n) n) 0

/-- Whether an area of `n` bytes fits at an address of an arena. -/
def areaFree (R : Region) (base n : Nat) : Bool :=
  decide (R.arenaBase ≤ base) && decide (base + n ≤ R.arenaBase + R.arenaSize) &&
    R.areas.all (fun a => decide (base + n ≤ a.1) || decide (a.1 + a.2.1 ≤ base))

/-- Where the device puts an area: its own choice if that is free, else the first place after another area (15 R384). -/
def areaPlace (R : Region) (v n : Nat) : Option Nat :=
  let after : List Nat := R.areas.map (fun a => a.1 + a.2.1)
  ((R.arenaBase + v % (R.arenaSize / 64 + 1) * 64) :: R.arenaBase :: after).find? (fun b => areaFree R b n)

/-- Take an area of `n` bytes for a region, in whole multiples of 64: the arena's region and the address (15 R384). One of no bytes holds
nothing of the arena. -/
def allocArea (s : State) (r n : Nat) : State × Option (Nat × Nat) :=
  let n := ceilDiv n 64 * 64
  match arenaOf s r with
  | none => (s, none)
  | some o =>
    let (v, s) := s.free
    if !(s.ancestors r).all (fun a => decide (areaBytes s a + n ≤ (s.eff 8 a).dquota)) then (s, none)
    else match areaPlace (s.region o) v.toNat n with
      | none => (s, none)
      | some base => (if n == 0 then s else s.setRegion o { s.region o with areas := (s.region o).areas ++ [(base, n, r)] }, some (o, base))

/-- Free an area of `n` bytes, if it has any. -/
def dropArea (s : State) (o base n r : Nat) : State := if n == 0 then s else freeArea s o base r

/-- The grid that serves a handle on this module (16 R303). -/
def gridServing (s : State) (h : W64) : Option Nat := (s.grids.find? (fun kv => kv.2.ckind == 4 && kv.2.caddr == h)).map Prod.fst

/-- DROPH.break ends a callee grid that has started (16 R307). -/
def killCallee (s : State) (h : W64) : State :=
  match gridServing s h with
  | some g => if (s.grid g).complete then s else endGrid s g 7
  | none => s

/-- The result area of a freed handle is freed where it lies (16 R307). -/
def freeResult (s : State) (h : W64) : State :=
  match gridServing s h with
  | some g => match (s.grid g).resArea with
    | some (o, base, n) => (dropArea s o base n (s.grid g).region).setGrid g { s.grid g with resArea := none }
    | none => s
  | none => s

/-- State codes of a notice about a handle: 0 frees its result area, 2 to 4 are the states of 16 R304. -/
def sendNotice (s : State) (m : Nat) (h : W64) (st cause rdev rlen raddr region grid : Nat) : State :=
  sendPacket s m tcInvoke fkNotice grid (.notice h st cause rdev rlen raddr region)

/-- What the module that runs a callee does on its handle's break or freeing. -/
def tellCallee (s : State) (m : Nat) (h : W64) (st cause : Nat) : State :=
  if m == 0xFFF && s.dev != 0xFFF then s
  else if m == s.dev then (if st == 0 then freeResult s h else killCallee s h)
  else sendNotice s m h st cause 0 0 0 0 0

/-- Send an invocation to a module; one that leaves the module is a request that awaits its reply (16 R290, R305). -/
def invoke (s : State) (m blk : Nat) (p : Packet) (i : Invocation) : State :=
  if m == s.dev then sendPacket s m tcInvoke fkInvoke 0 p
  else
    let grid := if blk == 0 then 0 else (s.block blk).grid
    let o : Outstanding :=
      { id := s.nextReq, wireSeq := (s.sendOf m tcInvoke).next, dst := m, blk := blk, mem := 0, lane := 0, op := 3, pc := 0
        icount := 0, words := [], addr := i.handle.toNat, answered := false, result := [], fault := none, sampled := false, sc := false
        sent := s.reft.toNat }
    sendInvoke { s with outs := s.outs ++ [o], nextReq := s.nextReq + 1 } m grid p i

/-- Forward an invocation to the module that holds the result of the handle it is addressed to; the entry of the invocation's own handle,
when it is here, then names the module that will run it (16 R305). -/
def forward (s : State) (m : Nat) (i : Invocation) : State :=
  let s := invoke s m 0 (.invoke i) i
  if s.handleValid i.handle && (s.handle i.handle).state == 1 then s.setHandle i.handle { s.handle i.handle with exec := m } else s

/-- One transition at a handle's home entry (16 R304, R305, R307): from PENDING to RUNNING, from RUNNING to RESOLVED, from either to BROKEN. A
break propagates to the invocations that wait at the home and to those that it has forwarded, in handle order; `fuel` bounds the propagation by
the number of handles. -/
def applyHandle : Nat → State → W64 → Nat → Nat → Nat → Nat → Nat → State
  | 0, s, _, _, _, _, _, _ => s
  | fuel + 1, s, h, st, cause, rdev, rlen, raddr =>
    if h == nullHandle then s
    else if !s.homeOf h then (if handleDev h == 0xFFF then s else sendNotice s (handleDev h) h st cause rdev rlen raddr 0 0)
    else
      let e := s.handle h
      let late (s : State) : State := if st == 2 then tellCallee s rdev h 4 8 else s
      if !s.handleValid h then (let s := late s; if st == 2 then tellCallee s rdev h 0 0 else s)
      else if 3 ≤ e.state then
        (if st == 2 && e.state == 4 && e.cause == 8 then late (s.setHandle h { e with exec := rdev }) else s)
      else if st == 2 then
        if e.state != 1 then s
        else
          let s := s.setHandle h { e with
            state := 2, rdev := rdev, rlen := rlen, raddr := raddr, exec := rdev, queue := [], sent := e.sent ++ e.queue }
          e.queue.foldl (fun s i => forward s rdev i) s
      else if st == 3 then
        if e.state != 2 then s
        else s.setHandle h { e with state := 3, rdev := rdev, rlen := rlen, raddr := raddr, exec := rdev, sent := [] }
      else
        let s := s.setHandle h { e with state := 4, cause := cause, queue := [], sent := [] }
        let s := if cause == 8 then tellCallee s e.exec h 4 8 else s
        (e.sent ++ e.queue).foldl (fun s i => applyHandle fuel s i.handle 4 9 0 0 0) s

/-- Handles that a propagation can pass. -/
def handleFuel (s : State) : Nat := s.dies.foldl (fun n kv => n + kv.2.handles.length) 2

def handleEvent (s : State) (h : W64) (st cause rdev rlen raddr : Nat) : State :=
  applyHandle (handleFuel s) s h st cause rdev rlen raddr
def breakHandle (s : State) (h : W64) (cause : Nat) : State := handleEvent s h 4 cause 0 0 0

/-- Whether an invocation addressed to a settled handle may be neither launched nor broken (16 R307): on its way to the module that holds the
result, whose reply says that it has taken the invocation up, or queued there (notes/assumptions/104.md). -/
def addressedTo (h : W64) : Packet → Bool
  | .invoke i => i.addressed == some h
  | .callh i => i.addressed == some h
  | _ => false
def invocationPending (s : State) (h : W64) : Bool :=
  s.sends.any (fun kv => (kv.2.unacked ++ kv.2.waiting).any (fun f => addressedTo h f.packet)) ||
    s.recvs.any (fun kv => kv.1 / 4 == s.dev && kv.2.delivered.any (fun d => addressedTo h d.2)) ||
    (match gridServing s h with | some g => (s.grid g).queue != [] | none => false)

/-- Free the entries of a die that are released, settled and without pending invocations; their GEN advances (16 R307). -/
def freeDie (s : State) (d : Nat) : State :=
  (s.die d).handles.foldl (fun s kv =>
    let h := mkHandle s.dev d kv.1 kv.2.gen
    let e := s.handle h
    if e.released && decide (3 ≤ e.state) && e.queue == [] && !invocationPending s h then
      tellCallee (s.setHandle h { HandleEntry.free with gen := (e.gen + 1) % 2 ^ 34 }) e.exec h 0 0
    else s) s
def freeHandles (s : State) : State := s.dies.foldl (fun s kv => freeDie s kv.1) s

/-- The lowest free entry of a die's handle table: Keystone SRAM, then the overflow area (16 R300). -/
def freeIndex (D : DieSt) : Nat → Nat → Option Nat
  | 0, _ => none
  | fuel + 1, n =>
    if 16384 + D.hovfCnt ≤ n then none
    else if (SMap.get HandleEntry.free D.handles n).state == 0 then some n else freeIndex D fuel (n + 1)

/-- Allocate a home entry on a die; the null handle when none is free (16 R299, R300, R302). -/
def allocHandle (s : State) (die region exec via : Nat) : State × W64 :=
  match freeIndex (s.die die) 65536 0 with
  | none => (s, nullHandle)
  | some n =>
    let e := SMap.get HandleEntry.free (s.die die).handles n
    let h := mkHandle s.dev die n e.gen
    (s.setHandle h { HandleEntry.free with gen := e.gen, state := 1, region := region, exec := exec, via := via }, h)

/-- The status word of a handle (16 R306, 17 R312). -/
def HandleEntry.word (e : HandleEntry) : Nat :=
  e.state + (if e.state == 4 then e.cause else 0) % 2 ^ 8 * 2 ^ 24 + e.rlen % 2 ^ 20 * 2 ^ 32 + e.rdev % 2 ^ 12 * 2 ^ 52

end Sys2Proof.Machine
end

