-- ==== Sys2Proof/Machine/Launch.lean ====
section
/-!
DEFINITION. Launching grids: launch records, stage graphs, status codes and completion signals (spec 15 R256 to R258, R271; 18 R325),
DLAUNCH (15 R262), invocations (16 R303, R305), placement and creation of blocks (15 R253, R257, R259, R260, R270; 20 R361), and
the completion of grids (11 R213; 15 R258).
-/
namespace Sys2Proof.Machine

/-- A launch record (15 R256). `res` holds the bytes of no field. -/
structure LaunchRec where
  code : Nat
  stamp : Nat
  seed : Nat
  args : Nat
  argLen : Nat
  gx : Nat
  gy : Nat
  gz : Nat
  bx : Nat
  by_ : Nat
  bz : Nat
  region : Nat
  ctl : Nat
  stages : Nat
  caddr : Nat
  cvalue : Nat
  ckind : Nat
  res : Nat
  deriving DecidableEq, Repr

def LaunchRec.of (b : List Byte) : LaunchRec :=
  { code := fieldAt b 0 8, stamp := fieldAt b 8 8, seed := fieldAt b 16 8, args := fieldAt b 24 8, argLen := fieldAt b 32 4
    gx := fieldAt b 36 4, gy := fieldAt b 40 2, gz := fieldAt b 42 2, bx := fieldAt b 44 2, by_ := fieldAt b 46 2
    bz := fieldAt b 48 2, region := fieldAt b 50 2, ctl := fieldAt b 52 4, stages := fieldAt b 56 8, caddr := fieldAt b 64 8
    cvalue := fieldAt b 72 8, ckind := fieldAt b 80 4, res := fieldAt b 84 44 }

/-- Fields of a CTL word (15 R256, R271). -/
def ctlTriad (c : Nat) : Bool := bitN c 0
def ctlLstore (c : Nat) : Nat := 16 * bitsAt c 1 8
def ctlSpad (c : Nat) : Nat := bitsAt c 9 8
def ctlTags (c : Nat) : Nat := bitsAt c 17 7
def ctlGang (c : Nat) : Bool := bitN c 24

def LaunchRec.blocks (r : LaunchRec) : Nat := r.gx * r.gy * r.gz
def LaunchRec.threads (r : LaunchRec) : Nat := r.bx * r.by_ * r.bz
def mostThreads (triad : Bool) : Nat := if triad then 768 else 2304

/-- Placement of a completion target (15 R258). -/
def caddrOk (kind a : Nat) : Bool :=
  match kind with
  | 1 => (match windowOf a with | .sync _ _ => true | _ => false) && a % 8 == 0
  | 2 => windowOf a == .translated && a % 8 == 0
  | 3 => windowOf a == .translated && a % 16 == 0
  | _ => true

/-- Whether no condition of RECORD holds of a record itself (15 R257, R258; the head of Stage pipelines). -/
def LaunchRec.ok (r : LaunchRec) : Bool :=
  r.res == 0 && r.ctl / 2 ^ 25 == 0 && decide (r.ckind < 5) && caddrOk r.ckind r.caddr && r.args % 8 == 0 &&
  decide (r.argLen ≤ 2 ^ 24) && r.stages % 64 == 0 &&
  (if r.stages == 0 then
    r.code % 64 == 0 && decide (r.code < 2 ^ 57) && r.blocks != 0 && decide (r.blocks ≤ 2 ^ 32) && r.threads != 0 &&
      decide (r.threads ≤ mostThreads (ctlTriad r.ctl)) && decide (ctlTags r.ctl ≤ 64)
  else r.code == 0 && r.blocks == 0 && r.gx + r.gy + r.gz == 0 && r.bx + r.by_ + r.bz == 0 && bitsAt r.ctl 1 23 == 0)

/-- A stage descriptor, and whether its fields are in range (15 R271). -/
def stageAt (g : List Byte) (k : Nat) : Stage :=
  let o := 32 + 32 * k
  { code := fieldAt g o 8, threads := fieldAt g (o + 8) 2 * fieldAt g (o + 10) 2 * fieldAt g (o + 12) 2
    minB := fieldAt g (o + 14) 1, maxB := fieldAt g (o + 16) 2, inq := fieldAt g (o + 18) 1, ctl := fieldAt g (o + 20) 4
    nstart := fieldAt g (o + 24) 4, created := 0, want := 0, idle := [] }
def stageMinB (g : List Byte) (k : Nat) : Nat := fieldAt g (46 + 32 * k) 2
def stageOk (g : List Byte) (triad : Bool) (nq k : Nat) : Bool :=
  let S := stageAt g k
  let o := 32 + 32 * k
  S.code % 64 == 0 && decide (S.code < 2 ^ 57) && S.threads != 0 && decide (S.threads ≤ mostThreads triad) &&
    decide (max (stageMinB g k) 1 ≤ S.maxB) && (decide (S.inq < nq) || S.inq == 0xFF) && fieldAt g (o + 19) 1 == 0 &&
    fieldAt g (o + 28) 4 == 0 && !ctlTriad S.ctl && S.ctl / 2 ^ 25 == 0 && decide (ctlSpad S.ctl ≤ 128) && decide (ctlTags S.ctl ≤ 64) &&
    (if S.inq == 0xFF then S.nstart != 0 else S.nstart == 0)

/-- A queue descriptor, and whether its fields are in range (15 R271). -/
def queueInit (g : List Byte) (k : Nat) : Nat := fieldAt g (304 + 32 * k) 4
def queueAt (g : List Byte) (k : Nat) : StageQueue :=
  let o := 288 + 32 * k
  { base := fieldAt g o 8, esize := fieldAt g (o + 8) 2, logN := fieldAt g (o + 10) 1, prod := fieldAt g (o + 11) 1
    cons := fieldAt g (o + 12) 1, write := queueInit g k, claim := 0, published := List.range (queueInit g k) }
def queueOk (g : List Byte) (ns k : Nat) : Bool :=
  let o := 288 + 32 * k
  let n := fieldAt g (o + 10) 1
  let e := fieldAt g (o + 8) 2
  let cons := fieldAt g (o + 12) 1
  fieldAt g o 8 % 256 == 0 && e % 16 == 0 && decide (16 ≤ e) && decide (e ≤ 256) && decide (1 ≤ n) && decide (n ≤ 16) &&
    decide (fieldAt g (o + 11) 1 < ns) && decide (cons < ns) && fieldAt g (50 + 32 * cons) 1 == k && fieldAt g (o + 13) 3 == 0 &&
    decide (queueInit g k ≤ 2 ^ n) && fieldAt g (o + 20) 12 == 0

/-- Whether a stage graph's fields are in range (15 R271). -/
def graphOk (g : List Byte) (triad : Bool) : Bool :=
  let ns := fieldAt g 0 1
  let nq := fieldAt g 1 1
  decide (1 ≤ ns) && decide (ns ≤ 8) && decide (nq ≤ 8) && fieldAt g 2 30 == 0 && (List.range ns).all (stageOk g triad nq) &&
    (List.range nq).all (queueOk g ns) && fieldAt g (32 + 32 * ns) (256 - 32 * ns) == 0 &&
    fieldAt g (288 + 32 * nq) (256 - 32 * nq) == 0

/-- The stages of a graph with the blocks owed at launch (15 R272), and its queues. -/
def graphStages (g : List Byte) : List Stage :=
  (List.range (fieldAt g 0 1)).map (fun k =>
    let S := stageAt g k
    let m := stageMinB g k
    { S with minB := m, want := if S.inq == 0xFF then S.nstart else m })
def graphQueues (g : List Byte) : List StageQueue := (List.range (fieldAt g 1 1)).map (queueAt g)

/-- A ring whose page is known lies in vault memory (15 R271). -/
def ringOk (s : State) (w : Who) (g : List Byte) (k : Nat) : Bool :=
  match (translate s w (fieldAt g (288 + 32 * k) 8) 1 .read).2 with
  | .ok p => p.vault
  | .error _ => true

/-- What one block takes of a core: members, lane-store bytes, 4 KiB units of scratchpad, tags (15 R257). -/
structure BlockNeed where
  triad : Bool
  tb : Nat
  ls : Nat
  spad : Nat
  tags : Nat
  deriving DecidableEq, Repr

def needOf (triad : Bool) (tb ctl : Nat) : BlockNeed :=
  { triad := triad, tb := tb, ls := ctlLstore ctl, spad := ctlSpad ctl, tags := ctlTags ctl }

/-- Thread slots that a block takes: three for a triad (01 R14). -/
def BlockNeed.slots (n : BlockNeed) : Nat := if n.triad then 3 * n.tb else n.tb

/-- How many such blocks an empty core holds (15 R257; 01 R14, R17). -/
def BlockNeed.perCore (n : BlockNeed) : Nat :=
  let perLane := if n.ls == 0 then 12 else min 12 (4096 / n.ls)
  min ((if n.triad then 64 else 192) * perLane / n.tb)
    (min (if n.spad == 0 then 2304 else 128 / n.spad) (if n.tags == 0 then 2304 else 64 / n.tags))

def liveCores (s : State) : Nat := ((List.range 256).filter (coreLive s)).length

/-- Every choice of numbers up to the given ones. -/
def choices : List Nat → List (List Nat)
  | [] => [[]]
  | c :: r => (List.range (c + 1)).reverse.flatMap (fun n => (choices r).map (n :: ·))

/-- The choices that fit one bin and can take no further item. -/
def fullLoads (fits : List Nat → Bool) (caps : List Nat) : List (List Nat) :=
  let ls := (choices caps).filter fits
  ls.filter (fun v => ls.all (fun w => w == v || !(List.zipWith (fun a b => decide (a ≤ b)) v w).all id))

/-- Whether `n` equal bins take all items, `cs` of each kind and at most `caps` of a kind in one bin. A packing can always be changed
into one whose first bin can take no further item. -/
def packs (fits : List Nat → Bool) (caps : List Nat) : Nat → List Nat → Bool
  | 0, cs => cs.all (· == 0)
  | n + 1, cs => cs.all (· == 0) ||
      (fullLoads fits (List.zipWith min caps cs)).any (fun v => packs fits caps n (List.zipWith (· - ·) cs v))

/-- Whether an empty core holds so many blocks of each kind: scratchpad, tags, and its lanes with 12 slots and 4 KiB each (15 R257). -/
def coreHolds (triad : Bool) (ns : List BlockNeed) (v : List Nat) : Bool :=
  let sum (f : BlockNeed → Nat) : Nat := (List.zipWith (fun n k => f n * k) ns v).foldl (· + ·) 0
  let laneHolds (w : List Nat) : Bool := decide (w.foldl (· + ·) 0 ≤ 12) &&
    decide ((List.zipWith (fun n k => BlockNeed.ls n * k) ns w).foldl (· + ·) 0 ≤ 4096)
  decide (sum BlockNeed.spad ≤ 128) && decide (sum BlockNeed.tags ≤ 64) &&
    packs laneHolds (ns.map (fun _ => 12)) (if triad then 64 else 192) (List.zipWith (fun n k => BlockNeed.tb n * k) ns v)

/-- Whether `cores` empty cores hold every block at once; blocks of one kind take cores one after the other (15 R257). -/
def gangFits (ns : List (BlockNeed × Nat)) (cores : Nat) : Bool :=
  match ns with
  | [] => true
  | [n] => decide (n.2 ≤ n.1.perCore * cores)
  | n :: _ => packs (coreHolds n.1.triad (ns.map Prod.fst)) (ns.map (fun m => m.1.perCore)) cores (ns.map Prod.snd)

/-- BUDGET of a launch: each kind of block with its count; the whole grid under GANG, on at most as many cores as are live and as every
effective CORES allows (15 R253, R257). -/
def budgetOk (s : State) (region : Nat) (gang : Bool) (ns : List (BlockNeed × Nat)) : Bool :=
  let A := s.ancestors region
  let limit (n : Nat) (c : Nat) : Bool := A.all (fun a => decide (n ≤ (s.eff 6 a).slots) && decide (c ≤ (s.eff 5 a).cores))
  liveCores s != 0 && ns.all (fun n => n.1.perCore != 0 && limit n.1.slots 1) &&
    (!gang ||
      (limit (ns.foldl (fun a n => a + n.1.slots * n.2) 0) 0 &&
        gangFits ns (A.foldl (fun c a => min c (s.eff 5 a).cores) (liveCores s))))

/-- Write a completion signal of kind 1 to 3 under a region (15 R258). A fault is recorded in the region. -/
def signalWrite (s : State) (region die kind caddr value status count : Nat) : State :=
  let w := keystoneOf region die
  let bad (s : State) : Option Flt → State
    | some f => recordFault s region f.cause.code false 0 caddr
    | none => s
  match kind with
  | 1 => match syncReach s w caddr .write with
    | (s, .error f) => bad s (some f)
    | (s, .ok (key, _)) => syncWrite s key value
  | 2 => let (s, f) := writeRange s w caddr (leBytes 8 value); bad s f
  | 3 => let (s, f) := writeRange s w caddr (leBytes 16 (status + count % 2 ^ 64 * 2 ^ 64)); bad s f
  | _ => s

/-- The completion signal of a grid or of a failed launch (15 R257, R258; 16 R304). -/
def signal (s : State) (region die kind : Nat) (caddr : Nat) (cvalue status count : Nat) (res : Option (Nat × Nat × Nat)) : State :=
  if kind == 4 then
    let h := BitVec.ofNat 64 caddr
    if s.homeOf h && (s.handle h).region != region then s
    else if status == 0 then
      handleEvent s h 3 0 s.dev ((res.map (fun r => r.2.2)).getD 0) ((res.map (fun r => r.2.1)).getD 0)
    else breakHandle s h status
  else signalWrite s region die kind caddr (if status == 0 then cvalue else 2 ^ 63 + status) status count

/-- A grid number that no live grid has (15 R262). -/
def gridNumber (s : State) : Nat → Nat → Nat
  | 0, g => g
  | fuel + 1, g =>
    let g := if 2 ^ 32 ≤ g || g == 0 then 1 else g
    if (s.grid g).complete then g else gridNumber s fuel (g + 1)

/-- The grid that a checked launch starts (15 R256, R271). -/
def gridOf (r : LaunchRec) (region : Nat) (g : Option (List Byte)) : Grid :=
  { Grid.none with
    region := region, code := r.code, seed := BitVec.ofNat 64 r.seed, args := r.args, argLen := r.argLen
    nblocks := if g.isSome then 0 else r.blocks, perBlock := if g.isSome then 1 else r.threads, triad := ctlTriad r.ctl
    spad := ctlSpad r.ctl, lstore := ctlLstore r.ctl, tags := ctlTags r.ctl, gang := ctlGang r.ctl
    stages := (g.map graphStages).getD [], queues := (g.map graphQueues).getD []
    caddr := BitVec.ofNat 64 r.caddr, cvalue := BitVec.ofNat 64 r.cvalue, ckind := r.ckind, complete := false }

/-- Kinds of block of a launch with their counts. -/
def launchNeeds (r : LaunchRec) (g : Option (List Byte)) : List (BlockNeed × Nat) :=
  match g with
  | none => [(needOf (ctlTriad r.ctl) r.threads r.ctl, r.blocks)]
  | some g => (graphStages g).map (fun S => (needOf (ctlTriad r.ctl) S.threads S.ctl, S.want))

/-- LAUNCH (15 R257): the first code that applies; on OK the grid starts. The launcher's region is none for the host. A call's arguments
lie in an area of region `arena`, whose tables reach it (15 R384). Answers status and grid number. -/
def launch (s : State) (launcher : Option Nat) (die : Nat) (r : LaunchRec) (arena : Option Nat := none) : State × Nat × Nat :=
  let target := if r.region == 0 then launcher.getD 0 else r.region
  let here := (s.region target).live && (match launcher with | none => true | some l => s.within target l)
  let w := keystoneOf target die
  let (s, graph) := if r.stages != 0 && here then
      match readRange s w r.stages 544 with
      | (s, .error _) => (s, some none)
      | (s, .ok g) => (s, some (some g))
    else (s, none)
  let g := graph.bind id
  let badGraph := match g with
    | some g => !graphOk g (ctlTriad r.ctl) || !(List.range (fieldAt g 1 1)).all (ringOk s w g)
    | none => false
  let (s, argFlt) := if here then checkRange s (keystoneOf (arena.getD target) die) r.args r.argLen .read else (s, none)
  let status :=
    if r.stamp != Config.classStamp then 1
    else if !r.ok || badGraph then 2
    else if !here then 3
    else if (r.stages == 0 || g.isSome) && !budgetOk s target (ctlGang r.ctl) (launchNeeds r g) then 4
    else if (r.stages != 0 && g.isNone) || argFlt.isSome then 5
    else 0
  if status != 0 then
    let s := if r.ckind < 5 && caddrOk r.ckind r.caddr then
        match if here then some target else launcher with
        | some q => signal s q die r.ckind r.caddr r.cvalue status 0 none
        | none => s
      else s
    (s, status, 0)
  else
    let n := gridNumber s (s.grids.length + 1) s.nextGrid
    ({ s with nextGrid := n + 1, grids := SMap.put s.grids n { gridOf r target g with reviewed := s.reft.toNat } }, 0, n)

/-- Where a launch record of 128 bytes lies, at a multiple of 64 (15 R256, R262; 10 R177, R193). -/
def launchPlace (s : State) (b : Nat) (va : Int) : Except Flt Place1 :=
  if va < 0 then .error (fltOf .addrRange va)
  else match windowOf va.toNat with
    | .outside => .error (fltOf .addrRange va)
    | .sync _ _ => .error (fltOf .syncSpace va)
    | w =>
      let fits : Bool := match w with
        | .lane => decide (va.toNat % 2 ^ 12 + 128 ≤ (s.block b).lsSize)
        | .spad => decide (va.toNat % 2 ^ 19 + 128 ≤ spadSizeOf s b)
        | _ => true
      if !fits then .error (fltOf .addrRange va)
      else if va % 64 != 0 then .error (fltOf .misalignedAddr va)
      else match w with
        | .lane => .ok (.lane (va.toNat % 2 ^ 12))
        | .spad => .ok (.spad (va.toNat % 2 ^ 19))
        | _ => .ok (.page va.toNat)

/-- Capture a launch record as the issuing thread reads; a failure of translation or access is none (15 R262). -/
def captureRecord (s : State) (b : Nat) (m : Member) (pl : Place1) : State × Option (List Byte) :=
  match pl with
  | .lane off => (s, some (lsRead m.first off 128))
  | .spad off => (s, some (spadRead s b off 128))
  | .page va => match readRange s (threadOf (s.block b)) va 128 with
    | (s, .error _) => (s, none)
    | (s, .ok raw) => (s, some raw)

/-- DLAUNCH (15 R262; 20 R363). -/
def execDlaunch (x : Ext) (s : State) : Result :=
  onceRun x 58 { reads := [(true, opA x), noRead, noRead, noRead], steer := [0] } true
    (fun _ _ v => [.pair x.d (BitVec.ofNat 64 v)]) (fun l s =>
      let B := s.block l.b
      match launchPlace s l.b (addressOfPair x l) with
      | .error f => (s, .fault f)
      | .ok pl => match captureRecord s l.b l.m pl with
        | (s, none) => (s, .done (List.replicate l.m.nsib 5))
        | (s, some raw) =>
          let (s, st, g) := launch s (some B.region) (coreDie B.core) (LaunchRec.of raw)
          (s, .done (List.replicate l.m.nsib (st + g * 2 ^ 32)))) s

/-- Run an invocation on this module (16 R303): both areas, the overridden record, the launch, and the handle's state. The anchor
die of the stream makes the accesses (17 R311). -/
def runInvocation (s : State) (die : Nat) (i : Invocation) : State :=
  let R := s.region i.region
  if !R.live || i.region == 0 then breakHandle s i.handle 3
  else match readRange s (keystoneOf i.region die) i.lrec 128 with
    | (s, .error _) => breakHandle s i.handle 5
    | (s, .ok raw) =>
      match allocArea s i.region i.resLen with
      | (s, none) => breakHandle s i.handle 4
      | (s, some (ro, ra)) =>
        match allocArea s i.region (i.args.length + 16) with
        | (s, none) => breakHandle (dropArea s ro ra i.resLen i.region) i.handle 4
        | (s, some (ao, aa)) =>
          let free (s : State) : State := freeArea (dropArea s ro ra i.resLen i.region) ao aa i.region
          let (s, f1) := writeRange s (keystoneOf ro die) ra (List.replicate i.resLen 0)
          let (s, f2) := writeRange s (keystoneOf ao die) aa (leBytes 8 ra ++ leBytes 8 i.producer.toNat ++ i.args)
          if f1.isSome || f2.isSome then breakHandle (free s) i.handle 5
          else
            let r := { LaunchRec.of raw with
              region := i.region, args := aa, argLen := i.args.length + 16, ckind := 4, caddr := i.handle.toNat }
            let r := if i.lrec % 64 == 0 then r else { r with res := 1 }
            match launch s (some i.region) die r (some ao) with
            | (s, 0, g) =>
              let s := s.setGrid g { s.grid g with argArea := some (ao, aa), resArea := some (ro, ra, i.resLen / 64) }
              handleEvent s i.handle 2 0 s.dev (i.resLen / 64) ra
            | (s, _, _) => free s

/-- Lanes and slots that a member takes: three lanes of one quarter for a triad (01 R14). -/
def placeSlots (triad : Bool) (p : Place) : List (Nat × Nat) := (List.range (if triad then 3 else 1)).map (fun k => (p.lane + k, p.slot))

def noRepeat : List (Nat × Nat) → Bool
  | [] => true
  | a :: r => !r.contains a && noRepeat r

/-- Whether a block fits beside the resident blocks of a core at the chosen lanes, slots and 4 KiB unit: triad t of quarter q takes
lanes 48q + 3t upward (01 R14; 15 R257). -/
def placeOn (rs : List Block) (spad : Nat) (n : BlockNeed) (ps : List Place) : Bool :=
  let mine := ps.flatMap (placeSlots n.triad)
  let taken := rs.flatMap Block.lanesSlots
  ps.length == n.tb && ps.all (fun p => decide (p.lane < 192) && decide (p.slot < 12) && (!n.triad || p.lane % 3 == 0)) &&
  noRepeat mine && mine.all (fun a => !taken.contains a) &&
  mine.all (fun a => decide (((mine.filter (fun q => q.1 == a.1)).length * n.ls +
    rs.foldl (fun t B => t + (B.lanesSlots.filter (fun q => q.1 == a.1)).length * B.lsSize) 0) ≤ 4096)) &&
  decide (spad + n.spad ≤ 128) &&
  (n.spad == 0 || rs.all (fun B => B.handler.isSome || decide (4096 * (spad + n.spad) ≤ B.spadBase) ||
    decide (B.spadBase + B.spadSize ≤ 4096 * spad))) &&
  decide (rs.foldl (fun t B => t + B.tagN) n.tags ≤ 64)
def placeOk (s : State) (c spad : Nat) (n : BlockNeed) (ps : List Place) : Bool := placeOn (residents s c) spad n ps

/-- How many more members with `ls` bytes of lane store fit one lane, or one triad's three lanes (15 R257). -/
def laneRoom (rs : List Block) (triad : Bool) (ls k : Nat) : Nat :=
  let lanes := if triad then [3 * k, 3 * k + 1, 3 * k + 2] else [k]
  let taken := (rs.flatMap Block.lanesSlots).filter (fun a => lanes.contains a.1)
  let slots := ((List.range 12).filter (fun n => !taken.any (fun a => a.2 == n))).length
  let used (l : Nat) : Nat := rs.foldl (fun t B => t + (B.lanesSlots.filter (fun q => q.1 == l)).length * B.lsSize) 0
  lanes.foldl (fun n l => if ls == 0 then n else min n ((4096 - used l) / ls)) slots

/-- Whether some place of a core with the given resident blocks takes a block (15 R257). -/
def roomFor (rs : List Block) (n : BlockNeed) : Bool :=
  decide (n.tb ≤ (List.range (if n.triad then 64 else 192)).foldl (fun t k => t + laneRoom rs n.triad n.ls k) 0) &&
  (n.spad == 0 || (List.range (129 - n.spad)).any (fun u => rs.all (fun B => B.handler.isSome ||
    decide (4096 * (u + n.spad) ≤ B.spadBase) || decide (B.spadBase + B.spadSize ≤ 4096 * u)))) &&
  decide (rs.foldl (fun t B => t + B.tagN) n.tags ≤ 64)

/-- Whether placing a block of a region on a core keeps SLOTS and CORES of the region and every ancestor (15 R253). -/
def limitsOk (s : State) (region c slots : Nat) : Bool :=
  (s.ancestors region).all (fun a =>
    let rs := (s.blocks.filter (fun kv => kv.2.resident && kv.2.handler.isNone && s.within kv.2.region a)).map Prod.snd
    let cores := distinct (c :: rs.map Block.core)
    decide (rs.foldl (fun t B => t + B.nthread) slots ≤ (s.eff 6 a).slots) && decide (cores.length ≤ (s.eff 5 a).cores))

/-- Whether a saved block is runnable: taken by forced save, or with a thread whose wake condition is true (15 R267, R269). -/
def runnable (s : State) (b : Nat) : Bool :=
  match (s.block b).state with
  | .saved _ _ forced => forced || (s.block b).members.any (fun kv => kv.2.live && (kv.2.pendCause != [] ||
      (match kv.2.wait with | some k => wakeReady s b k | none => true)))
  | _ => false

/-- Blocks that a grid still owes: of its next block, or of a stage (15 R259, R272). -/
def Grid.owes (G : Grid) (stage : Nat) : Bool :=
  !G.complete && G.status.isNone &&
    (match G.stages[stage]? with
     | some S => decide (0 < S.want)
     | .none => G.stages == [] && stage == 0 && decide (G.nextBlk < G.nblocks))
def Grid.need (G : Grid) (stage : Nat) : BlockNeed :=
  match G.stages[stage]? with
  | some S => needOf G.triad S.threads S.ctl
  | .none => { triad := G.triad, tb := G.perBlock, ls := G.lstore, spad := G.spad, tags := G.tags }
def Block.need (B : Block) : BlockNeed :=
  { triad := B.triad, tb := B.tb, ls := B.lsSize, spad := B.spadSize / 4096, tags := B.tagN }

def prioOf (s : State) (region : Nat) : Nat := (s.eff 0 region).prio

/-- Whether a block of a region of priority at least `p` waits for a place and is within its limits (15 R266, R270). -/
def waiting (s : State) (c p : Nat) : Bool :=
  s.grids.any (fun kv => decide (p ≤ prioOf s kv.2.region) && (List.range (max 1 kv.2.stages.length)).any (fun k =>
    kv.2.owes k && limitsOk s kv.2.region c (kv.2.need k).slots)) ||
  s.blocks.any (fun kv => decide (p ≤ prioOf s kv.2.region) && runnable s kv.1 && limitsOk s kv.2.region c kv.2.nthread)

/-- Whether a block of one region waits for a place and is within its limits: the region is backlogged on the core (15 R270). -/
def backlogged (s : State) (c r : Nat) : Bool :=
  s.grids.any (fun kv => kv.2.region == r && (List.range (max 1 kv.2.stages.length)).any (fun k =>
    kv.2.owes k && limitsOk s r c (kv.2.need k).slots)) ||
  s.blocks.any (fun kv => kv.2.region == r && runnable s kv.1 && limitsOk s r c kv.2.nthread)

/-- Regions that share core time with a region: those of its level that are backlogged on the core, itself among them (15 R270). -/
def rivals (s : State) (c r : Nat) : List Nat :=
  r :: (s.regions.filter (fun kv => kv.1 != r && kv.2.live && prioOf s kv.1 == prioOf s r && backlogged s c kv.1)).map Prod.fst

/-- Core time that a block is charged for when it takes its place: one EFFSLICE (15 R270; notes/assumptions/54.md). -/
def prepaid (s : State) (r : Nat) : Nat := 1000 * max 1 (s.region r).effSlice
def prepay (s : State) (r : Nat) : State := { s with turns := SMap.set 0 s.turns r (SMap.get 0 s.turns r - prepaid s r) }

/-- Core time that a region's resident blocks have taken beyond what they were charged for (15 R270). -/
def overrun (s : State) (r : Nat) : Nat :=
  s.blocks.foldl (fun n kv =>
    if kv.2.region == r && kv.2.resident && kv.2.handler.isNone then n + (s.reft.toNat - kv.2.placed - kv.2.paid) else n) 0

/-- Credit of core time, and what one round adds to it: deficit round-robin by WEIGHT (15 R270; notes/assumptions/54.md). -/
def creditOf (s : State) (r : Nat) : Int := SMap.get 0 s.turns r - overrun s r
def weightOf (s : State) (r : Nat) : Nat := max 1 (s.eff 1 r).weight

/-- The fewest rounds that give one of the regions credit. -/
def roundsFor (s : State) (rs : List Nat) : Nat :=
  let need (r : Nat) : Nat := if 0 < creditOf s r then 0 else (-creditOf s r).toNat / weightOf s r + 1
  match rs with
  | [] => 0
  | r :: q => q.foldl (fun n k => min n (need k)) (need r)

/-- Whether it is a region's turn on a core: it has credit after those rounds (15 R270). -/
def hasTurn (s : State) (c r : Nat) : Bool := decide (0 < creditOf s r + (roundsFor s (rivals s c r) * weightOf s r : Nat))

/-- The rounds are given to every backlogged region of the level; a region with no block waiting or resident keeps none (15 R270). -/
def takeTurn (s : State) (c r : Nat) : State :=
  let rs := rivals s c r
  let n := roundsFor s rs
  let idle (k : Nat) : Bool := prioOf s k == prioOf s r && !rs.contains k && !s.blocks.any (fun kv => kv.2.region == k && kv.2.resident)
  { s with turns := rs.foldl (fun t k => SMap.set 0 t k (SMap.get 0 t k + (n * weightOf s k : Nat))) (s.turns.filter (fun kv => !idle kv.1)) }

/-- A core that takes blocks now: in service and awake (15 R280; 18 R332). -/
def coreTakes (s : State) (c : Nat) : Bool :=
  coreLive s c && (s.core c).power == 0 && (s.die (coreDie c)).power == 0 && s.packagePower == 0

/-- Debug of a new block (20 R360, R361): a free course slot and its first course, or NOSLOT rises. -/
def attachDebug (s : State) (b : Nat) : State :=
  let B := s.block b
  match (s.region B.region).descr with
  | none => s
  | some _ =>
    let s := s.setBlock b { B with dbg := true }
    let D := s.debug B.region
    if !bitN D.enable 0 then s
    else match (List.range D.nslot).find? (fun k => !D.usedSlots.contains k) with
      | none =>
        let n := min (D.noSlot + 1) 0xFFFF_FFFF
        debugField (s.setDebug B.region { D with noSlot := n }) B.region 76 n
      | some k =>
        let s := s.setDebug B.region { D with usedSlots := k :: D.usedSlots }
        startCourse (s.setBlock b { s.block b with course := some { slot := k, current := Course.new 0 B.members, before := none } }) b

/-- The block record of a new block (15 R260): uniform registers from the argument area, B31, members at CODE. -/
def newBlock (s : State) (g stage blk c spad : Nat) (ps : List Place) (args : List Byte) : Block :=
  let G := s.grid g
  let n := G.need stage
  let code := match G.stages[stage]? with | some S => S.code | none => G.code
  let regs := Regs.new G.seed (s.eff 4 G.region).handler
  { Block.none with
    grid := g, stage := stage, blk := blk, region := G.region, core := c, triad := n.triad, tb := n.tb
    members := ps.zipIdx.map (fun pk => (pk.2, { Member.none with
      live := true, pc := code, lane := pk.1.lane, slot := pk.1.slot, sibs := List.replicate (if n.triad then 3 else 1) regs }))
    k := (List.range 64).foldl (fun k i => SMap.set 0 k i (BitVec.ofNat 32 (fieldAt args (4 * i) 4))) []
    buf := SMap.set 0 [] 31 (mkRecord G.args 0 G.argLen 1 0 0 0 0 0 0)
    spadBase := 4096 * spad, spadSize := 4096 * n.spad, lsSize := n.ls, tagN := n.tags
    placed := s.reft.toNat, paid := prepaid s G.region, state := if G.gang then .gangWait else .running }

/-- The blocks of a GANG grid start together, once all are resident (15 R256); one that is held starts when its hold ends (20 R367). -/
def gangStart (s : State) (g : Nat) : State :=
  (s.blocks.filter (fun kv => kv.2.grid == g)).foldl (fun s kv => match kv.2.state with
    | .gangWait => resumeBlock s kv.1
    | .heldForStop .gang => s.setBlock kv.1 { s.block kv.1 with state := .heldForStop .started }
    | _ => s) s

/-- Note a block's creation in its grid (15 R259, R271). -/
def Grid.made (G : Grid) (stage : Nat) : Grid :=
  if G.stages == [] then { G with nextBlk := G.nextBlk + 1 }
  else { G with stages := G.stages.zipIdx.map (fun sk =>
    if sk.2 == stage then { sk.1 with created := sk.1.created + 1, want := sk.1.want - 1 } else sk.1) }
def Grid.nextOf (G : Grid) (stage : Nat) : Nat :=
  match G.stages[stage]? with | some S => S.created | .none => G.nextBlk

/-- Whether the next block of a grid or stage may take a place now (15 R253, R257, R259, R270). -/
def mayCreate (s : State) (grid stage core spad : Nat) (places : List Place) : Bool :=
  let G := s.grid grid
  let n := G.need stage
  G.owes stage && coreTakes s core && placeOk s core spad n places && limitsOk s G.region core n.slots &&
    !waiting s core (prioOf s G.region + 1) && hasTurn s core G.region

/-- The region whose tables reach a grid's arguments: of a call's argument area, the one that owns the arena (15 R384). -/
def Grid.argRegion (G : Grid) : Nat := (G.argArea.map Prod.fst).getD G.region

/-- Create a block at its place, not started yet (15 R259, R260; 02 R37). Its launch synchronizes-with its events (11 R202 case 6). A fault
of the argument read ends the grid. -/
def createBlock (s : State) (grid stage core spad : Nat) (places : List Place) : State :=
  let G := s.grid grid
  let blk := G.nextOf stage
  match readRange (takeTurn s core G.region) (keystoneOf G.argRegion (coreDie core)) G.args (min G.argLen 256) with
  | (s, .error f) => recordFault (endGrid s grid 6) G.region f.cause.code false blk f.addr
  | (s, .ok args) =>
    let fresh := !(residents s core).any (fun B => B.grid == grid)
    let s := flushL1 (if fresh then s.setCore core { s.core core with icache := [] } else s) core
    let b := s.nextBlock
    let s := { prepay s G.region with nextBlock := b + 1 }.setBlock b (newBlock s grid stage blk core spad places args)
    attachDebug (s.setGrid grid (G.made stage)) b

/-- Operations of a grid's blocks that are queued or in flight on any core or die, unanswered requests, and sends that no acknowledgement
has met yet (11 R213). -/
def gridBusy (s : State) (g : Nat) : Bool :=
  let own (b : Nat) : Bool := (s.block b).grid == g
  s.cores.any (fun kv => kv.2.matq.any (fun o => own o.blk) || kv.2.selq.any (fun o => own o.blk)) ||
    s.dies.any (fun kv => kv.2.copyq.any (fun o => own o.blk) || kv.2.collq.any (fun o => own o.blk)) ||
    s.outs.any (fun o => !o.answered && o.blk != 0 && own o.blk) ||
    s.sends.any (fun kv => (kv.2.unacked.filter (fun f => !precedes f.seq kv.2.acked) ++ kv.2.waiting).any (fun f => g != 0 && f.grid == g))

/-- Whether every block of a grid has been created and has exited (11 R213; 15 R273). -/
def gridDrained (s : State) (g : Nat) : Bool :=
  let G := s.grid g
  (gridBlocks s g).isEmpty &&
    (G.status.isSome ||
      (if G.stages == [] then decide (G.nblocks ≤ G.nextBlk)
       else G.stages.all (fun S => S.inq != 0xFF || S.want == 0) && G.queues.all (fun Q => Q.published == [])))

/-- Launch or break the invocations that waited for a grid's handle, in handle order (16 R305). -/
def releaseQueue (s : State) (g : Nat) (die : Nat) : State :=
  let G := s.grid g
  let s := s.setGrid g { G with queue := [] }
  let raddr := (G.resArea.map (fun r => r.2.1)).getD 0
  G.queue.foldl (fun s i =>
    if G.status.isNone then runInvocation s die { i with producer := BitVec.ofNat 64 raddr } else breakHandle s i.handle 9) s

/-- Complete a grid: its signal, its argument area, the invocations that waited for its handle (15 R258; 16 R303 to R305). A grid that
lost a block completes FAULTED (19 R358). -/
def completeGrid (s : State) (grid : Nat) : State :=
  let G := s.grid grid
  let (v, s) := s.free
  let die := v.toNat % 4
  let G := if G.lostBlock && G.status.isNone then { G with status := some 6 } else G
  let s := { s with reqs := [] }.setGrid grid { G with complete := true, argArea := none }
  let s := signal s G.region die G.ckind G.caddr.toNat G.cvalue.toNat (G.status.getD 0) G.exited G.resArea
  let s := match G.argArea with
    | some (o, base) => freeArea s o base G.region
    | none => s
  freeHandles (releaseQueue s grid die)

/-- GRID_COMPLETE (11 R213; 15 R258). -/
def execGridComplete (grid : Nat) (s : State) : Result :=
  .next (if (s.grid grid).complete || !gridDrained s grid || gridBusy s grid then s else completeGrid s grid)

end Sys2Proof.Machine
end

