-- ==== Sys2Proof/Machine/Call.lean ====
section
/-!
DEFINITION. Remote calls and handles: CALLR, CALLH, their arrival at homes and executing modules, WAITH, HSTAT and DROPH
(spec 16 R290, R301 to R307).
-/
namespace Sys2Proof.Machine

/-- Take the oldest delivered packet of a stream: its number, the packet, and the state without it. -/
def takeDelivered (s : State) (src tc : Nat) : Option (Nat × Packet × State) :=
  let R := s.recvOf src tc
  match R.delivered with
  | [] => none
  | (n, p) :: r => some (n, p, s.setRecv src tc { R with delivered := r })

/-- Reply to a request of another module or of this one: the reply enters the reply cache of the stream's anchor die (16 R290,
17 R311). -/
def sendReply (s : State) (src tc seq : Nat) (p : Packet) : State :=
  if src == s.dev then sendPacket s src tcReply fkReply 0 p
  else
    let (s, f) := sendFlit s src tcReply fkReply (packetLen s src tcReply fkReply) 0 p
    let d := src % 4
    s.setDie d { s.die d with replies := (s.die d).replies ++ [{ src := src, tc := tc, seq := seq, replySeq := f.seq, reply := f }] }

/-- A call block (16 R302): its 64 bytes, and whether they keep the table. -/
structure CallBlock where
  lrec : Nat
  dev : Nat
  resLen : Nat
  argOff : Nat
  argLen : Nat
  ok : Bool
  deriving DecidableEq, Repr

def CallBlock.of (b : List Byte) (size : Nat) (atHandle : Bool) : CallBlock :=
  let c : CallBlock :=
    { lrec := fieldAt b 0 8, dev := fieldAt b 8 2, resLen := fieldAt b 12 4, argOff := fieldAt b 16 4, argLen := fieldAt b 20 4
      ok := false }
  { c with ok := fieldAt b 10 2 == 0 && fieldAt b 24 40 == 0 && (if atHandle then c.dev == 0 else decide (c.dev ≤ 4094)) &&
      c.resLen % 64 == 0 && decide (c.resLen ≤ 2 ^ 26 - 64) && c.argOff % 8 == 0 && c.argLen % 8 == 0 &&
      decide (c.argLen ≤ 4080) && decide (c.argOff + c.argLen ≤ size) }

/-- The handle pair that a CALLH names, the call-block offset, and D (16 R301). -/
def callReads (x : Ext) (atHandle : Bool) : List (Bool × Opnd) :=
  [(false, opA x), if atHandle then (true, .lane x.b) else noRead, noRead, noRead]
def pairDest (x : Ext) : Member → Nat → Nat → List Out := fun _ _ v => [.pair x.d (BitVec.ofNat 64 v)]

/-- CALLR and CALLH (16 R302, R303, R305): a home entry on the issuing die, and the invocation on its way. -/
def callBody (atHandle : Bool) (l : MemIn) (s : State) : State × MemRes :=
  let B := s.block l.b
  let die := coreDie B.core
  let off := medianBy unsignedV (l.src 0)
  let target : W64 := BitVec.ofNat 64 (medianBy unsignedV (l.src 1))
  let size := spadSizeOf s l.b
  if off % 64 != 0 || decide (size < off + 64) then (s, .fault (fltOf .addrRange (off + 0x01E0_0000_0000_0000)))
  else
    let c := CallBlock.of (spadRead s l.b off 64) size atHandle
    let m := if atHandle then handleDev target else c.dev
    let args := spadRead s l.b c.argOff c.argLen
    let give (s : State) (h : W64) : State × MemRes := (s, .done (List.replicate l.m.nsib h.toNat))
    if c.ok && !(atHandle && target == nullHandle) && !streamRoom s m tcInvoke (1 + ceilDiv c.argLen 240) then (s, .notReady)
    else
      let (s, h) := allocHandle s die B.region (if atHandle then 0xFFF else c.dev) (if atHandle then m else 0xFFF)
      if h == nullHandle then give s h
      else if !c.ok then give (s.setHandle h { s.handle h with state := 4, cause := 2, exec := 0xFFF }) h
      else if atHandle && target == nullHandle then give (s.setHandle h { s.handle h with state := 4, cause := 9 }) h
      else
        let i : Invocation :=
          { handle := h, region := B.region, exec := m, lrec := c.lrec, resLen := c.resLen, args := args, producer := 0
            addressed := if atHandle then some target else none }
        give (invoke s m l.b (if atHandle then .callh i else .invoke i) i) h

def execCallr (x : Ext) (s : State) : Result :=
  onceRun x 60 { reads := callReads x false, steer := [0] } true (pairDest x) (callBody false) s
def execCallh (x : Ext) (s : State) : Result :=
  onceRun x 60 { reads := callReads x true, steer := [0, 1] } true (pairDest x) (callBody true) s

/-- An invocation at the module that holds the result of the handle it is addressed to (16 R305): queued, launched or broken. -/
def invocationAt (s : State) (die : Nat) (i : Invocation) : State :=
  match i.addressed with
  | none => runInvocation s die i
  | some h => match gridServing s h with
    | none => breakHandle s i.handle 9
    | some g =>
      let G := s.grid g
      if !G.complete then s.setGrid g { G with queue := G.queue ++ [i] }
      else if G.status.isNone then
        runInvocation s die { i with producer := BitVec.ofNat 64 ((G.resArea.map (fun r => r.2.1)).getD 0) }
      else breakHandle s i.handle 9

/-- A notice: about a handle of this module, or to the module that runs a callee (16 R304, R307). A DROPH of another module acts on a handle
that its region may use (16 R299, R307). -/
def takeNotice (s : State) (h : W64) (st cause rdev rlen raddr region : Nat) : State :=
  if s.homeOf h then
    if st == 0 then (if s.handleUsable h region then s.setHandle h { s.handle h with released := true } else s)
    else if st == 1 || (st == 4 && cause == 8 && !s.handleUsable h region) then s
    else handleEvent s h st cause rdev rlen raddr
  else if st == 0 then freeResult s h
  else if st == 4 then killCallee s h
  else s

/-- INVOKE_RECEIVE: the oldest packet of an INVOKE stream, an invocation to execute or a notice (16 R303, R305). -/
def execInvokeReceive (src : Nat) (s : State) : Result :=
  .next (match takeDelivered s src tcInvoke with
    | some (n, .invoke i, t) =>
      if streamRoom s src tcReply 1 then
        let t := invocationAt { t with reqs := [] } (src % 4) i
        freeHandles (if src == t.dev then t else sendReply t src tcInvoke n (.reply 0 [] none))
      else s
    | some (_, .notice h st cause rdev rlen raddr region, t) => freeHandles (takeNotice t h st cause rdev rlen raddr region)
    | _ => s)

/-- CALLH_AT_HOME: the home takes an arriving CALLH into its handle order and forwards, launches or breaks it (16 R305). -/
def callhAt (s : State) (i : Invocation) (h : W64) : State :=
  let e := s.handle h
  if !s.handleUsable h i.region then breakHandle s i.handle 12
  else if e.state == 4 then breakHandle s i.handle 9
  else if e.exec == 0xFFF && s.dev != 0xFFF then s.setHandle h { e with queue := e.queue ++ [i] }
  else forward (if e.state == 3 then s else s.setHandle h { e with sent := e.sent ++ [i] }) e.exec i

def execCallhAtHome (src : Nat) (s : State) : Result :=
  .next (match takeDelivered s src tcInvoke with
    | some (n, .callh i, t) =>
      let h := i.addressed.getD nullHandle
      if streamRoom s src tcReply 1 && streamRoom s (s.handle h).exec tcInvoke (invokeFlits i) then
        let t := callhAt t i h
        freeHandles (if src == t.dev then t else sendReply t src tcInvoke n (.reply 0 [] none))
      else s
    | _ => s)

/-- Handle operand in pair A (16 R301). -/
def handleReads (x : Ext) : List (Bool × Opnd) := [(true, opA x), noRead, noRead, noRead]
def handleArg (l : MemIn) : W64 := BitVec.ofNat 64 (medianBy unsignedV (l.src 0))

/-- The status word that another module's handle shows is free; when `settled`, its STATE is that of a stale, resolved or broken
handle (16 R306). A result area exists in RUNNING and RESOLVED, and stays named where the handle broke from RUNNING: with causes 6 to 8 and
10 (16 R304; 17 R312). -/
def foreignWord (s : State) (settled : Bool) : State × Nat :=
  let (v, s) := s.free
  let n := v.toNat
  let st := if settled then [0, 3, 4].getD (n % 3) 0 else n % 5
  let cause := if st == 4 then 1 + bitsAt n 24 8 % 12 else 0
  let area := st == 2 || st == 3 || (st == 4 && [6, 7, 8, 10].contains cause)
  (s, st + cause * 2 ^ 24 + (if area then bitsAt n 32 32 else 0) * 2 ^ 32)

/-- What observing a settled handle does to each of the other members: an acquire at system scope (10 R195; 16 R308). -/
def acquireToo (b : Nat) (_ : List Nat) (s : State) (i : Nat) : State := acquireEffect s b i .acquire .system

/-- The status word of a handle that a region names (16 R299, R306). -/
def wordFor (s : State) (h : W64) (region : Nat) : Nat :=
  if h == nullHandle then 4 + 11 * 2 ^ 24 else if s.handleUsable h region then (s.handle h).word else 0

/-- WAITH (16 R306): a blocking point until the handle is RESOLVED or BROKEN; observing RESOLVED is an acquire at system scope
(16 R308). -/
def execWaith (x : Ext) (s : State) : Result :=
  onceRun x 60 { reads := handleReads x, steer := [0] } true (pairDest x) (fun l s =>
    let B := s.block l.b
    let h := handleArg l
    if h != nullHandle && !s.homeOf h then
      if l.m.wait.isSome then
        let (s, w) := foreignWord s true
        (acquireEffect s l.b l.i .acquire .system, .done (List.replicate l.m.nsib w))
      else (s, .wait (.waith h))
    else
      let w := wordFor s h B.region
      if w % 16 == 1 || w % 16 == 2 then (s, .wait (.waith h))
      else (acquireEffect s l.b l.i .acquire .system, .done (List.replicate l.m.nsib w))) s acquireToo

/-- HSTAT.stat and .addr (16 R306); observing RESOLVED is an acquire of every member (16 R308). The state travels above the 64 bits of
data. -/
def execHstat (x : Ext) (s : State) : Result :=
  onceRun x 60 { reads := handleReads x, steer := [0] } true (pairDest x) (fun l s =>
    let B := s.block l.b
    let h := handleArg l
    let foreign := h != nullHandle && !s.homeOf h
    let (s, w) := if foreign then foreignWord s false else (s, wordFor s h B.region)
    let s := if w % 16 == 3 then acquireEffect s l.b l.i .acquire .system else s
    let give (s : State) (v : Nat) : State × MemRes := (s, .done (List.replicate l.m.nsib (v % 2 ^ 64 + w % 16 * 2 ^ 64)))
    if x.m0 then
      let (v, s) := if foreign then s.free else (BitVec.ofNat 64 (s.handle h).raddr, s)
      give s (if w % 16 == 2 || w % 16 == 3 then v.toNat % 2 ^ 57 else 0)
    else give s w) s (fun b vs s i => if vs.headD 0 / 2 ^ 64 == 3 then acquireToo b vs s i else s)

/-- DROPH of a handle: a request of this module's region at its home; at another module it travels as a notice (16 R307). -/
def dropRun (x : Ext) (f : State → W64 → State) (st : Nat) (s : State) : Result :=
  drainRun x 60 true { reads := handleReads x, steer := [0] } false noDest (fun l s =>
    let h := handleArg l
    if h == nullHandle then (s, .done [])
    else if !s.homeOf h then
      if handleDev h == 0xFFF then (s, .done [])
      else if streamRoom s (handleDev h) tcInvoke 1 then
        (sendNotice s (handleDev h) h st (if st == 4 then 8 else 0) 0 0 0 (s.block l.b).region (s.block l.b).grid, .done [])
      else (s, .notReady)
    else if s.handleUsable h (s.block l.b).region then (f s h, .done [])
    else (s, .done [])) s

/-- DROPH.break: PENDING and RUNNING handles break with CANCELLED (16 R307). -/
def execDrophBreak (x : Ext) (s : State) : Result :=
  dropRun x (fun s h => freeHandles (breakHandle s h 8)) 4 s
/-- DROPH.release: the handle is stale from now on; its entry is freed once it is settled (16 R307). -/
def execDrophRelease (x : Ext) (s : State) : Result :=
  dropRun x (fun s h => freeHandles (s.setHandle h { s.handle h with released := true })) 0 s

end Sys2Proof.Machine
end

