-- ==== Sys2Proof/Machine/Remote.lean ====
section
/-!
DEFINITION. Remote loads, stores and atomics, their performance at the target and their replies (spec 16 R292 to R294; 19 R345, R357),
and the loss of streams (16 R289, R383).
-/
namespace Sys2Proof.Machine

/-- Operands of RLD, RST and RATOM: address pair A, device B, data (16 R292). `kind` is 0 RLD, 1 RST, 2 RATOM. -/
def remoteReads (x : Ext) (kind : Nat) : List (Bool × Opnd) :=
  [(true, .lane x.a), (false, .lane x.b), if kind == 2 then (x.ty.wide, .lane x.c) else noRead,
   if kind == 1 || (kind == 2 && x.mod == 7) then (x.ty.wide, .lane x.d) else noRead]

/-- The address that a remote instruction names (16 R293). -/
def remoteAddr (x : Ext) (l : MemIn) : Nat := wrapN (addressOfPair x l) 57

/-- Fault code of a remote request (16 R294): the FCODE of a translation or access fault, otherwise 0x100 plus the cause. -/
def remoteCode (f : Flt) : Nat :=
  if f.cause == .translationFault || f.cause == .accessFault then f.fcode else 0x100 + f.cause.code

/-- The master of a request: of kind FABRIC from another module, which enters by a port and belongs to no die (10 R197); the thread's own
from this one, by its core (16 R293; 18 R321). -/
def remoteWho (s : State) (src : Nat) (core : Option Nat) (region : Nat) : Who :=
  { region := region, kind := if src == s.dev then 0 else 3, priv := false, core := core, die := core.map coreDie, src := src }

/-- A request reads and writes where its bytes are coherent: past the issuing core's L1, whose line of them is then dropped or brought up
to date (10 R186; 11 R207). -/
def Page.coherent (p : Page) : Page := { p with cache := 1 }

/-- The checks of a request before its translation (16 R293), the receiving port's access table among them. -/
def remotePlace (s : State) (w : Who) (r : Remote) (va n : Nat) (k : AccKind) : Option Flt :=
  match windowOf va with
  | .sync _ _ => some (fltOf .syncSpace va)
  | .translated =>
    if physHole s w va n then some (fltOf .addrRange va)
    else if va % n != 0 then some (fltOf .misalignedAddr va)
    else if r.port != 0xFF && !admitted s w (targetPort r.port) k 0 0 then some { cause := .accessFault, fcode := 0x0A, addr := va }
    else none
  | _ => some (fltOf .addrRange va)

/-- Reach a request's page: for an atomic its place is checked too (10 R188; 16 R293). A fault of translation comes before the
port's access table (18 R317). -/
def remoteReach (s : State) (w : Who) (r : Remote) (va n : Nat) (k : AccKind) : State × Except Flt Page :=
  match remotePlace s w r va n k with
  | some f =>
    if f.cause == .accessFault then
      match translate s w va n k with
      | (s, .error g) => (s, .error g)
      | (s, .ok p) => if k == .atomic && !p.atomOk then (s, .error (fltOf .atomPlace va)) else (s, .error f)
    else (s, .error f)
  | none => if k == .atomic then reachAtomic s w va n 3 else reach s w va n k 3

/-- Digit bytes of a request to a DIGEST page, at the issuer's base (16 R293; 03 R66): checked before anything is written. -/
def remoteDigits (s : State) (w : Who) (r : Remote) (k : AccKind) : List Nat → State × Except Flt (List Page)
  | [] => (s, .ok [])
  | a :: t => match remoteReach s w r (r.digest + a / 4) 1 k with
    | (s, .error f) => (s, .error f)
    | (s, .ok p) => match remoteDigits s w r k t with
      | (s, .error f) => (s, .error f)
      | (s, .ok ps) => (s, .ok (p :: ps))

/-- Perform a request at its target: the siblings' values, or the fault (16 R293, R294). `core` is the issuing core of a request of the
own module. -/
def performRemote (s : State) (src : Nat) (core : Option Nat) (r : Remote) : State × Except Flt (List Nat) :=
  let n := tyBytes r.ty
  let w := remoteWho s src core r.region
  let data := r.data.map BitVec.toNat
  let cmp := r.cmp.map BitVec.toNat
  let sibs := if r.triad then 3 else 1
  let kind := if r.op == 0 then AccKind.read else if r.op == 1 then .write else .atomic
  match remoteReach s w r r.addr n kind with
  | (s, .error f) => (s, .error f)
  | (s, .ok p) =>
    let p := p.coherent
    let digits : List Nat := if p.rep != 2 then [] else if r.op == 0 then (if r.triad && r.ty.float then [r.addr / 4 * 4] else [])
      else touchedWords r.addr n
    match remoteDigits s w r (if r.op == 0 then .read else .write) digits with
    | (s, .error f) => (s, .error f)
    | (s, .ok dps) =>
      let putDigits (s : State) (d : Nat) : State := dps.foldl (fun s q => storeKey s w q.coherent q.key [BitVec.ofNat 8 d]) s
      if r.op == 0 then
        if p.rep == 1 && r.triad then
          let (s, vs) := (List.range 3).foldl (fun (acc : State × List Nat) k =>
            let (s, bs) := loadKey acc.1 w p (p.plane k) n
            (s, acc.2 ++ [leNat bs])) (s, [])
          (s, .ok vs)
        else
          let (s, bs) := loadKey s w p p.key n
          match dps with
          | q :: _ =>
            let (s, d) := loadKey s w q.coherent q.key 1
            (s, .ok (digestSpread r.ty (leNat bs) (leNat d)))
          | [] => (s, .ok (List.replicate sibs (leNat bs)))
      else if r.op == 1 then
        if p.rep == 1 then
          ((List.range 3).foldl (fun s k => storeKey s w p (p.plane k) (leBytes n (data.getD k (data.headD 0)))) s, .ok [])
        else
          let v := if r.triad then tyStored r.ty (data.take 3) else data.headD 0
          (putDigits (storeKey s w p p.key (leBytes n v)) (digitByte r.ty (data.take sibs)), .ok [])
      else
        let op := r.op - 2
        let c := if r.triad then atomMedian r.ty (data.take 3) else data.headD 0
        let d := if r.triad then atomMedian r.ty (cmp.take 3) else cmp.headD 0
        if p.rep == 1 then
          let (s, olds) := (List.range 3).foldl (fun (acc : State × List Nat) k =>
            let (s, old) := if r.triad then atomAt acc.1 w p (p.plane k) op r.ty (data.getD k 0) (cmp.getD k 0)
              else
                let first := acc.2.headD (Memory.nat acc.1.mem p.key n)
                (atomicKey acc.1 w p (p.plane k) (leBytes n (atomNew op r.ty first c d)), first)
            (s, acc.2 ++ [old])) (s, [])
          (s, .ok (olds.take sibs))
        else
          let (s, old) := atomAt s w p p.key op r.ty c d
          (putDigits s 0xFF, .ok (List.replicate sibs old))

/-- Answer a request of this module to itself, which is performed as it is sent: the reply is delivered like any other (16 R293, R294). -/
def answerSelf (s : State) (r : Remote) (res : Except Flt (List Nat)) : State :=
  match res with
  | .ok vs => sendPacket s s.dev tcReply fkReply 0 (.reply r.id (vs.map (BitVec.ofNat 64)) none)
  | .error f => sendPacket s s.dev tcReply fkReply 0 (.reply r.id [] (some (f.addr, remoteCode f)))

/-- Send one lane's request and note it as outstanding; requests of a sampled block are counted (16 R293; 20 R371). One to the own module
takes effect at once, in the thread's program order (11 R207, R215; notes/assumptions/102.md); its stores that succeed are performed. -/
def sendRequest (s : State) (l : MemIn) (x : Ext) (major kind dev addr : Nat) : State × Nat :=
  let B := s.block l.b
  let id := s.nextReq
  let vals (k : Nat) : List W64 := (l.src k).map (BitVec.ofNat 64)
  let r : Remote :=
    { id := id, op := if kind == 2 then 2 + x.mod else kind, ty := x.ty, region := B.region, addr := addr
      data := vals (if kind == 1 then 3 else 2), cmp := vals 3, triad := l.m.nsib == 3
      digest := (l.m.first.ctl64 6).toNat % 2 ^ 57, port := 0xFF }
  let own := dev == s.dev
  let (s, hit) := if s.debugOn B 3 && !own then sampleNext s B.region B.core else (s, false)
  let o : Outstanding :=
    { id := id, wireSeq := if own then (s.recvOf dev tcRequest).expected else (s.sendOf dev tcRequest).next, dst := dev
      blk := l.b, mem := l.i, lane := l.m.lane, op := kind, pc := l.m.pc, icount := l.m.icount, words := instrBytes major x
      addr := addr, answered := false, result := [], fault := none, sampled := hit, sc := kind == 1 && x.ord == .sc, sent := s.reft.toNat }
  let s := { s with nextReq := id + 1 }
  if own then
    let R := s.recvOf dev tcRequest
    let (s, res) := performRemote (s.setRecv dev tcRequest { R with expected := (R.expected + 1) % 2 ^ 32 }) dev (some B.core) r
    if kind == 1 && res.isOk then (s, id) else (answerSelf { s with outs := s.outs ++ [o] } r res, id)
  else (sendPacket { s with outs := s.outs ++ [o] } dev tcRequest (fkRld + kind) B.grid (.request r), id)

/-- One lane of a remote instruction (16 R293, R294; 19 R345, R355): a recorded fault reply is raised once, a request already sent is
awaited, any other lane is checked and sends. -/
def remoteBody (x : Ext) (kind : Nat) (l : MemIn) (s : State) : State × MemRes :=
  let send (s : State) : State × MemRes :=
    let dev := medianBy unsignedV (l.src 1)
    let addr := remoteAddr x l
    if 4095 ≤ dev then (s, .fault (fltOf .addrRange addr))
    else if addr % tyBytes x.ty != 0 then (s, .fault (fltOf .misalignedAddr addr))
    else if !streamRoom s dev tcRequest 1 then (s, .notReady)
    else
      let (s, id) := sendRequest s l x 59 kind dev addr
      if kind == 1 then (storeEffect s l.b x.ord x.scope, .done []) else (s, .wait (.remote (kind == 0) [id]))
  match l.m.cap with
  | some c => match c.faultReply with
    | some (addr, code) =>
      (s.setMember l.b l.i { l.m with cap := some { c with faultReply := none, requests := [] } },
       .fault { cause := .remoteFault, fcode := code, addr := addr })
    | none => if c.requests == [] then send s else (s, .wait (.remote (kind == 0) c.requests))
  | none => send s

/-- The acquire of a remote access that retires with its reply (11 R215; 10 R186). -/
def acquireReplied (x : Ext) (s : State) : State :=
  match s.cur with
  | none => s
  | some is => is.mems.foldl (fun s i =>
      if ((s.member is.blk i).cap.bind Captured.result).isSome then acquireEffect s is.blk i x.ord x.scope else s) s

/-- RLD, RST and RATOM (16 R293, R294). -/
def execRld (x : Ext) (s : State) : Result :=
  memRun x 59 { reads := remoteReads x 0, steer := [0, 1] } true (loadDest x) (remoteBody x 0) (acquireReplied x s)
def execRldBase (x : Base) (s : State) : Result := execRld (Base.toExt 59 x) s
def execRst (x : Ext) (s : State) : Result :=
  memRun x 59 { reads := remoteReads x 1, steer := [0, 1] } false noDest (remoteBody x 1) s
def execRatom (x : Ext) (s : State) : Result :=
  memRun x 59 { reads := remoteReads x 2, steer := [0, 1] } true (loadDest x) (remoteBody x 2) (acquireReplied x s)

/-- A store that has been performed is acknowledged from now on (11 R213; 16 R285); of a lost stream none is. -/
def storeDone (s : State) (src n : Nat) : State :=
  if n < 2 ^ 32 then s.setRecv src tcRequest ((s.recvOf src tcRequest).due s.reft.toNat) else s

/-- REMOTE_REQUEST_RECEIVE: the oldest request of a stream is performed and answered (16 R290, R293, R294). -/
def execRemoteRequestReceive (src : Nat) (s : State) : Result :=
  .next (match takeDelivered s src tcRequest with
    | some (n, .request r, t) =>
      if !streamRoom s src tcReply 1 then s
      else
        let (t, res) := performRemote { t with reqs := [] } src none r
        match res with
        | .ok vs => if r.op == 1 then storeDone t src n else sendReply t src tcRequest n (.reply r.id (vs.map (BitVec.ofNat 64)) none)
        | .error f =>
          let p : Packet := .reply r.id [] (some (f.addr, remoteCode f))
          if r.op == 1 then sendPacket (storeDone t src n) src tcReply fkReply 0 p else sendReply t src tcRequest n p
    | _ => s)

/-- REMOTE_STORE (16 R294): pending in the issuing thread, or in the lowest-numbered live member of its block; a block that has ended
ends its grid FAULTED. -/
def remoteStoreFault (s : State) (o : Outstanding) (addr code : Nat) : State :=
  let B := s.block o.blk
  let live := (B.members.filter (fun kv => kv.2.live)).map Prod.fst
  let t (m : Member) (i : Nat) : Trap :=
    { cause := .remoteStore, fcode := code, addr := addr, pc := o.pc, icount := o.icount, words := o.words, micro := 0xFF, tag := 0
      quarter := m.quarter, lanes := m.laneMask, done := 0, mems := [i] }
  let lowest := live.foldl (fun a i => match a with | some j => some (min i j) | none => some i) none
  match if (B.member o.mem).live then some o.mem else lowest with
  | some i => holdCause s o.blk i (t (B.member i) i)
  | none =>
    if (s.grid B.grid).complete then recordFault s B.region Cause.remoteStore.code false B.blk addr
    else faultGrid s o.blk Cause.remoteStore.code false addr

/-- Write a reply into the replay entry at an address: RESULT of each lane, and DONEMASK unless it is a fault (19 R345). -/
def replyToEntry (s : State) (w : Who) (m : Member) (e : Nat) (result : Option (List W64)) (fault : Option (Nat × Nat)) : State :=
  let s := (List.range m.nsib).foldl (fun s sib =>
    let bytes := match result, fault with
      | some vs, _ => leBytes 8 (vs.getD sib 0).toNat ++ leBytes 8 0
      | none, some (addr, code) => leBytes 8 addr ++ leBytes 4 code ++ leBytes 4 (2 ^ 24)
      | none, none => []
    (writeRange s w (e + 64 + 48 * (m.lane % 48 + sib) + 32) bytes).1) s
  if result.isSome then
    match readRange s w (e + 48) 8 with
    | (s, .ok old) => (writeRange s w (e + 48) (leBytes 8 (leNat old ||| m.laneMask))).1
    | (s, .error _) => s
  else s

/-- Write a reply into the frame of a stopped block, or into the SAVE frame of a saved one, whose area keeps a tag that fits its bytes
(19 R345, R357; notes/assumptions/64.md). -/
def replyToFrame (s : State) (b i : Nat) (c : Captured) (result : Option (List W64)) (fault : Option (Nat × Nat)) : State :=
  let B := s.block b
  let m := B.member i
  let entry (k : Nat) : Nat := 2048 + 2048 * B.nthread + 2368 * k
  match B.state, (replaySeqs B).idxOf? c.seq with
  | .handled _ h, some k => match (s.block h).handler with
    | some hd => replyToEntry s (keystoneOf B.region (coreDie B.core)) m (hd.frame + entry k) result fault
    | none => s
  | .saved o area _, some k =>
    let w := keystoneOf o (coreDie B.core)
    let n := saveLen B + imageLen B
    match readRange s w area (n + 8) with
    | (s, .error _) => s
    | (s, .ok all) =>
      let t := replyToEntry s w m (area + entry k) result fault
      match readRange t w area n with
      | (t, .ok now) => if all.drop n == areaTag s (all.take n) then (writeRange t w (area + n) (areaTag t now)).1 else t
      | (t, .error _) => t
  | _, _ => s

/-- Deliver the reply of an RLD or RATOM to its lane (16 R293, R294; 19 R345, R357). The issue is taken up once every lane has its
reply. -/
def deliverReply (s : State) (o : Outstanding) (result : Option (List W64)) (fault : Option (Nat × Nat)) : State :=
  let B := s.block o.blk
  let m := B.member o.mem
  match m.cap with
  | none => s
  | some c =>
    if !m.live || !c.requests.contains o.id then s
    else
      let s := s.setMember o.blk o.mem { m with cap := some { c with result := result, faultReply := fault } }
      let B := s.block o.blk
      match B.state with
      | .saved _ _ _ => arrivalPut (replyToFrame s o.blk o.mem c result fault) o.blk (.reply o.mem result fault)
      | .handled _ _ => replyToFrame s o.blk o.mem c result fault
      | .running => if repliesIn B c.seq then wakeGroup s o.blk o.mem else s
      | _ => s

/-- Drop from a stream's retry buffer what is acknowledged and has its reply (16 R290). -/
def pruneSend (s : State) (m tc : Nat) : State :=
  let S := s.sendOf m tc
  drainSends (s.setSend m tc { S with unacked := S.unacked.filter (fun f => !precedes f.seq S.acked || awaitsReply s f) })

/-- Complete an outstanding request with its value or fault (16 R293, R294). -/
def completeOut (s : State) (o : Outstanding) (result : List W64) (fault : Option (Nat × Nat)) : State :=
  let s := { s with outs := s.outs.map (fun p => if p.id == o.id then { p with answered := true, result := result, fault := fault } else p) }
  let s := if o.sampled && o.op != 3 then
      let B := s.block o.blk
      samplePut s B.region (coreDie B.core) B.core 3 o.pc B.blk
        { agent := 0, region := B.region, line := 0, kind := o.op, va := o.addr, place := 0, cached := false, keystone := false }
    else s
  if o.op == 3 then s
  else if o.op == 1 then (match fault with | some (addr, code) => remoteStoreFault s o addr code | none => s)
  else match fault with
    | some f => deliverReply s o none (some f)
    | none => deliverReply s o (some result) none

/-- The request that a reply answers: by its number from this module, or one of those that await another module's reply, or an RST that
failed (16 R284, R294; notes/assumptions/5.md). -/
def answeredBy (s : State) (src id : Nat) (faulty : Bool) : Option Outstanding :=
  if src == s.dev then s.outs.find? (fun o => o.id == id && !o.answered)
  else
    let os := s.outs.filter (fun o => o.dst == src && (if o.op == 1 then faulty && o.fault.isNone else !o.answered))
    os[id % os.length]?

/-- REMOTE_REPLY_RECEIVE (16 R290, R294): the requester takes a reply, and only then acknowledges it. -/
def execRemoteReplyReceive (src : Nat) (s : State) : Result :=
  .next (match takeDelivered s src tcReply with
    | some (_, .reply id result fault, t) =>
      let t := if src == t.dev then t else t.setRecv src tcReply ((t.recvOf src tcReply).due t.reft.toNat)
      let t := match answeredBy t src id fault.isSome with
        | none => t
        | some o => completeOut t o result (if o.op == 3 then none else fault)
      let t := if src == t.dev then t else pruneSend (pruneSend t src tcRequest) src tcInvoke
      freeHandles t
    | _ => s)

/-- LINK_LOST (16 R294). -/
def codeLinkLost : Nat := 0x10

/-- Every unanswered request to a module completes with LINK_LOST (16 R289, R383): of one class, or all. The handle of an unanswered
invocation breaks. -/
def loseRequests (s : State) (m : Nat) (hit : Outstanding → Bool) : State :=
  (s.outs.filter (fun o => o.dst == m && !o.answered && hit o)).foldl (fun s o =>
    let s := completeOut s o [] (some (o.addr, codeLinkLost))
    if o.op == 3 then breakHandle s (BitVec.ofNat 64 o.addr) 10 else s) s

/-- Handles whose home or target is reached only through a lost stream. -/
def lostHandles (s : State) (m : Nat) : List (W64 × HandleEntry) :=
  s.dies.flatMap (fun kv => (kv.2.handles.filter (fun e =>
    (e.2.state == 1 || e.2.state == 2) && (e.2.exec == m || (e.2.exec == 0xFFF && e.2.via == m)))).map (fun e =>
      (mkHandle s.dev kv.1 e.1 e.2.gen, e.2)))

/-- They all break with LINK_LOST, and then what was addressed to them (16 R289, R304; 17 R313). -/
def loseHandles (s : State) (m : Nat) : State :=
  let hs := lostHandles s m
  let s := hs.foldl (fun s h => s.setHandle h.1 { h.2 with state := 4, cause := 10, queue := [], sent := [] }) s
  hs.foldl (fun s h => (h.2.sent ++ h.2.queue).foldl (fun s i => breakHandle s i.handle 9) s) s

end Sys2Proof.Machine
end

