-- ==== Sys2Proof/Machine/Coll.lean ====
section
/-!
DEFINITION. Collectives: COLL, their results and errors (spec 16 R295 to R298), and the loss of streams (16 R289, R383).
-/
namespace Sys2Proof.Machine

/-- Fields of a COLL parameter block (16 R295). -/
def CollOp.ctl (o : CollOp) : Nat := fieldAt o.pb 0 4
def CollOp.op (o : CollOp) : Nat := bitsAt o.ctl 0 3
def CollOp.fmt (o : CollOp) : Nat := bitsAt o.ctl 3 3
def CollOp.gid (o : CollOp) : Nat := fieldAt o.pb 4 4
def CollOp.groupVa (o : CollOp) : Nat := fieldAt o.pb 8 8
def CollOp.seq (o : CollOp) : Nat := fieldAt o.pb 16 4
def CollOp.count (o : CollOp) : Nat := fieldAt o.pb 20 4
def CollOp.timeout (o : CollOp) : Nat := fieldAt o.pb 24 4

/-- FMT 0 to 3: f32, bf16, f16, s32. -/
def collFmt (f : Nat) : Option Fmt :=
  match f with
  | 0 => some .f32 | 1 => some .bf16 | 2 => some .f16 | _ => none
def collWidth (f : Nat) : Nat := if f == 1 || f == 2 then 2 else 4

/-- OPERAND_FORMAT of the parameter block and the records (16 R295, R297). -/
def CollOp.formOk (o : CollOp) : Bool :=
  o.pbOk && o.ctl / 2 ^ 16 == 0 && decide (o.op ≤ 2) && decide (o.fmt ≤ 3) && o.groupVa % 16 == 0 && decide (1 ≤ o.count) &&
    decide (o.count ≤ 2 ^ 24) && fieldAt o.pb 28 20 == 0 && recLayout o.src == 0 && recLayout o.dst == 0 &&
    decide (o.count ≤ recExt0 o.src) && decide (o.count ≤ recExt0 o.dst)

/-- Read bytes at device-memory addresses: the status is OPERAND_FORMAT where they are elsewhere (16 R295, R297). -/
def deviceRead (s : State) (w : Who) (va n : Nat) : State × Except Nat (List Byte) :=
  (pieces (n / 64 + 2) va n).foldl (fun (acc : State × Except Nat (List Byte)) pc =>
    match acc.2 with
    | .error c => (acc.1, .error c)
    | .ok bs =>
      if windowOf pc.1 != .translated then (acc.1, .error 1)
      else match reach acc.1 w pc.1 pc.2 .read 1 with
        | (s, .error _) => (s, .error 8)
        | (s, .ok p) =>
          if 2 ^ 38 ≤ p.key then (s, .error 1)
          else
            let (s, b) := loadKey s w p p.key pc.2
            (s, .ok (bs ++ b))) (s, .ok [])

/-- A group descriptor: GID, RANK and the members in rank order, when it keeps R295. -/
def groupOf (s : State) (o : CollOp) (w : Who) : State × Except Nat (Nat × List Nat) :=
  match deviceRead s w o.groupVa 16 with
  | (s, .error c) => (s, .error c)
  | (s, .ok h) =>
    let n := fieldAt h 4 2
    let rank := fieldAt h 6 2
    if fieldAt h 0 4 != o.gid || n < 2 || 4095 < n || n ≤ rank || fieldAt h 8 8 != 0 then (s, .error 1)
    else match deviceRead s w (o.groupVa + 16) (2 * n) with
      | (s, .error c) => (s, .error c)
      | (s, .ok l) =>
        let ms := (List.range n).map (fun k => fieldAt l (2 * k) 2)
        if ms.getD rank 0xFFFF == s.dev then (s, .ok (rank, ms)) else (s, .error 1)

/-- The master of a collective unit: Keystone of its die (18 R321, R382), past the K bit only for a handler. -/
def collWho (B : Block) (die : Nat) : Who :=
  { region := B.region, kind := 2, priv := B.handler.isSome, core := none, die := some die, src := 0 }

/-- Elements of the source, read completely (16 R295). -/
def collElems (s : State) (o : CollOp) (w : Who) : State × Except Nat (List W32) :=
  let n := collWidth o.fmt
  match engineRead s w (some o.blk) (recBase o.src) (n * o.count) with
  | (s, .error _) => (s, .error 8)
  | (s, .ok bs) => (s, .ok ((List.range o.count).map (fun k => BitVec.ofNat 32 (fieldAt bs (n * k) n))))

/-- Acceptance of a COLL (16 R295, R297): parameter block, records, group and source are captured. `bad` is a status that it completes
with alone. The group begins with this module's rank. -/
def acceptColl (s : State) (b i tag off : Nat) : State :=
  let B := s.block b
  let m := B.member i
  let die := coreDie B.core
  let (ok, pb) := paramBlock s b off 48 64
  let ctl := fieldAt pb 0 4
  let (s, src) := useBuffer s b i (bitsAt ctl 6 5)
  let (s, dst) := useBuffer s b i (bitsAt ctl 11 5)
  let o : CollOp :=
    { blk := b, mem := i, tag := tag, region := B.region, pbOff := off, pbOk := ok, pb := pb, src := src, dst := dst
      digest := m.first.ctl64 6, elems := [], group := [], bad := 0, started := s.reft.toNat, pc := m.pc }
  let w := collWho B die
  let (s, o) :=
    if !o.formOk then (s, { o with bad := 1 })
    else if s.dies.any (fun kv => kv.2.collq.any (fun p => p.pbOk && p.gid == o.gid && p.seq == o.seq)) then (s, { o with bad := 2 })
    else match groupOf s o w with
      | (s, .error c) => (s, { o with bad := c })
      | (s, .ok (rank, ms)) => match collElems s o w with
        | (s, .error c) => (s, { o with bad := c, group := rank :: ms })
        | (s, .ok es) => (s, { o with elems := es, group := rank :: ms })
  let s := sampleEngine s B m.pc
  let D := s.die die
  tagClear (s.setDie die { D with collq := D.collq ++ [o] }) b tag

/-- COLL (16 R295): 16 operations a die. -/
def execColl (x : Ext) (s : State) : Result :=
  onceRun x 60 { reads := [(false, opA x), noRead, noRead, noRead], steer := [0] } false noDest (fun l s =>
    let B := s.block l.b
    if B.tagN ≤ x.d % 64 then (s, .fault (fltOf .tagRange 0))
    else if 16 ≤ (s.die (coreDie B.core)).collq.length then (s, .notReady)
    else (acceptColl s l.b l.i (x.d % 64) (medianBy unsignedV (l.src 0)), .done [])) s
def execCollBase (x : Base) (s : State) : Result := execColl (Base.toExt 60 x) s

/-- One combine of two elements (16 R296). -/
def collCombine (op : Nat) (f : Option Fmt) (a b : W32) : W32 :=
  match f with
  | some f =>
    let x := a.toNat
    let y := b.toNat
    BitVec.ofNat 32 (if op == 0 then (fadd f ⟨.rne, false⟩ (fval f x) (fval f y)).1
      else if (fval f x).isNan || (fval f y).isNan then f.nanBits
      else (fminmax f (op == 1) x y).1)
  | none =>
    if op == 0 then a + b
    else if op == 1 then (if a.toInt < b.toInt then b else a) else (if b.toInt < a.toInt then b else a)

def finiteElem (f : Option Fmt) (x : W32) : Bool :=
  match f with
  | some f => !(fval f x.toNat).isNan && !(fval f x.toNat).isInf
  | none => true

/-- One level of the tree: neighbours among the ranks that remain (16 R296). -/
def collLevel (op : Nat) (f : Option Fmt) : List (List W32 × Bool) → List (List W32 × Bool)
  | a :: b :: r =>
    let v := List.zipWith (collCombine op f) a.1 b.1
    (v, a.2 && b.2 && v.all (finiteElem f)) :: collLevel op f r
  | l => l

/-- The reduction over all ranks; `fuel` is at least the number of levels. -/
def collReduce (op : Nat) (f : Option Fmt) : Nat → List (List W32 × Bool) → List W32 × Bool
  | _, [v] => v
  | 0, l => l.headD ([], true)
  | fuel + 1, l => collReduce op f fuel (collLevel op f l)

/-- What the other members contribute, in rank order with this module's own part: none when a rank is missing. -/
def collParts (o : CollOp) (ps : List CollPeer) : Option (List (Option CollPeer)) :=
  match o.group with
  | [] => none
  | rank :: ms =>
    (List.range ms.length).foldr (fun r acc => acc.bind (fun l =>
      if r == rank then some (none :: l) else (ps.find? (fun p => p.rank == r)).map (fun p => some p :: l))) (some [])

/-- Whether a member's parameters differ (16 R297). -/
def collMismatch (o : CollOp) (p : CollPeer) : Bool :=
  p.op != o.op || p.fmt != o.fmt || p.n != o.group.tail.length || p.members != o.group.tail || p.elems.length != o.count

/-- The status record (16 R297). -/
def collStatus (code n nanc : Nat) (fin : Bool) : Nat := code + boolN fin * 16 + n % 2 ^ 32 * 2 ^ 32 + min nanc 0xFFFF_FFFF * 2 ^ 96

/-- Bytes into a block's partition: at once, or as an arrival record of a saved block; a tag's record also makes the wake condition of the
block's tag waits true (15 R267; 16 R298; 19 R357). -/
def spadArrive (s : State) (b off : Nat) (bs : List Byte) : State :=
  let B := s.block b
  match B.state with
  | .saved _ _ _ => arrivalPut s b (.spad off bs)
  | .ended | .lost => s
  | _ => s.setBlock b { B with spad := storeWrite B.spad off bs }
def tagArrive (s : State) (b tag : Nat) (status : BitVec 128) : State :=
  let s' := tagDone s b tag status
  match (s.block b).state with
  | .saved _ _ _ => arrivalPut s' b (.tag tag status (!tagBusy s b tag))
  | _ => s'

/-- End a collective with its status record and tag (16 R297, R298). -/
def collEnd (s : State) (die : Nat) (o : CollOp) (code nanc : Nat) (fin : Bool) : State :=
  let status := collStatus code o.group.tail.length nanc fin
  let s := s.setDie die { s.die die with collq := (s.die die).collq.erase o }
  let s := if o.pbOk then spadArrive s o.blk (o.pbOff + 48) (leBytes 16 status) else s
  tagArrive s o.blk o.tag (BitVec.ofNat 128 status)

/-- Write a result with the digit bytes of a DIGEST page (16 R298; 12 R240). -/
def collWrite (s : State) (o : CollOp) (w : Who) (bs : List Byte) : State × Option Flt :=
  match engineWindow s (some o.blk) (recBase o.dst) bs.length with
  | .ok (.spad off) => (spadArrive s o.blk off bs, none)
  | _ =>
    let (s, _, f) := engineWrite s w (some o.blk) (some (o.digest.toNat, match collFmt o.fmt with | some f => f.prec | none => 0xFF))
      (recBase o.dst) bs
    (s, f)

/-- The result reaches this member (16 R296, R297); a destination that cannot be written whole stays unwritten
(notes/assumptions/118.md). -/
def collResult (s : State) (die : Nat) (o : CollOp) (ps : List CollPeer) : State :=
  match collParts o ps with
  | none => s
  | some parts =>
    if ps.any (collMismatch o) then collEnd s die o 2 0 false
    else
      let f := collFmt o.fmt
      let vals := parts.map (fun p => match p with | some p => p.elems | none => o.elems)
      let (v, fin) := collReduce o.op f 12 (vals.map (fun v => (v, v.all (finiteElem f))))
      let w := { collWho (s.block o.blk) die with region := o.region }
      let bs := v.flatMap (fun e => leBytes (collWidth o.fmt) e.toNat)
      match collWrite s o w bs with
      | (t, some _) => collEnd (sampleEngine { t with mem := s.mem, blocks := s.blocks } (t.block o.blk) o.pc) die o 8 0 false
      | (t, none) => collEnd (sampleEngine t (t.block o.blk) o.pc) die o 0 (v.filter (fun e => !finiteElem f e)).length fin

/-- Whether a collective's TIMEOUT has passed (16 R297). -/
def CollOp.late (o : CollOp) (s : State) : Bool := o.timeout != 0 && decide (o.started + 1000 * o.timeout ≤ s.reft.toNat)

/-- The largest power of two that divides a rank: the tree's levels at which it receives (16 R296). -/
def lowBit : Nat → Nat → Nat
  | 0, _ => 1
  | fuel + 1, r => if r % 2 == 1 then 1 else 2 * lowBit fuel (r / 2)

/-- Ranks that a rank exchanges contributions and results with: it combines those of r + 2^l below its own level and sends to r − 2^l at
it (16 R296). -/
def treeRanks (r n : Nat) : List Nat :=
  let top := if r == 0 then 4096 else lowBit 12 r
  ((List.range 12).map (fun l => 2 ^ l)).flatMap (fun b =>
    if b < top && decide (r + b < n) then [r + b] else if b == top then [r - b] else [])

/-- The modules whose streams a collective needs here (16 R289, R296). -/
def CollOp.neighbours (o : CollOp) : List Nat :=
  match o.group with
  | [] => []
  | rank :: ms => (treeRanks rank ms.length).map (fun r => ms.getD r 0xFFF)

/-- COLL_COMPLETE (16 R296 to R298): LINK_LOST where a stream that the collective needs has no working route for 10 ms (16 R289). -/
def execCollComplete (die idx : Nat) (outcome : CollOutcome) (s : State) : Result :=
  .next (match (s.die die).collq[idx]? with
    | none => s
    | some o =>
      let t := { s with reqs := [] }
      if o.bad != 0 then collEnd t die o o.bad 0 false
      else if o.late s then s
      else match outcome with
        | .linkLost => if o.neighbours.any (fun m => routeless s m o.started) then collEnd t die o 4 0 false else s
        | .peers ps => collResult t die o ps)

/-- COLL_TIMEOUT (16 R297). -/
def execCollTimeout (die idx : Nat) (s : State) : Result :=
  .next (match (s.die die).collq[idx]? with
    | none => s
    | some o => if o.bad == 0 && o.late s then collEnd s die o 3 0 false else s)

/-- Every collective that needs a module's stream completes with LINK_LOST (16 R289, R297). -/
def loseColls (s : State) (hit : CollOp → Bool) : State :=
  s.dies.foldl (fun s kv => kv.2.collq.foldl (fun s o => if o.bad == 0 && hit o then collEnd s kv.1 o 4 0 false else s) s) s

/-- A stream anchored on a die was lost (17 R311; 18 R333). -/
def markLost (s : State) (m : Nat) : State := s.setDie (m % 4) { s.die (m % 4) with lost := true }

/-- Streams to and from a module of one class start again at number 0, and no flit of the lost ones is delivered (16 R289); what they have
delivered keeps no number of the new ones. -/
def dropStream (s : State) (m tc : Nat) : State :=
  let s := s.setSend m tc SendStream.new
  let s := s.setRecv m tc { RecvStream.new with delivered := (s.recvOf m tc).delivered.map (fun d => (2 ^ 32 + d.1 % 2 ^ 32, d.2)) }
  { s with dies := s.dies.map (fun kv => (kv.1, { kv.2 with
      replies := kv.2.replies.filter (fun e => !(e.src == m && (e.tc == tc || tc == tcReply))) })) }

/-- What the loss of a stream to a module brings about (16 R289). -/
def loseStream (s : State) (m tc : Nat) : State :=
  let s := dropStream (markLost s m) m tc
  let s := if tc == tcRequest then loseRequests s m (fun o => o.op != 3)
    else if tc == tcInvoke then loseRequests (loseHandles s m) m (fun o => o.op == 3)
    else if tc == tcColl then loseColls s (fun o => o.neighbours.contains m) else s
  freeHandles s

/-- STREAM_LOST (16 R289): a stream without a working route for 10 ms, counted from the later of its
start and the last moment at which a route worked (notes/assumptions/114.md). -/
def execStreamLost (dst tc : Nat) (s : State) : Result :=
  .next (if dst != s.dev && decide (tc < 4) && routeless s dst (s.sendOf dst tc).started then loseStream { s with reqs := [] } dst tc else s)

/-- Whether a module has been silent for 10 ms in which it owed a reply (16 R383). -/
def silent (s : State) (m : Nat) : Bool :=
  decide (SMap.get 0 s.heard m + 10000000 ≤ s.reft.toNat) &&
    s.outs.any (fun o => o.dst == m && !o.answered && o.op != 1 && decide (o.sent + 10000000 ≤ s.reft.toNat))

/-- REPLY_STREAM_LOST (16 R383): a silent target that owes a reply. -/
def execReplyStreamLost (target : Nat) (s : State) : Result :=
  .next (
    if target != s.dev && silent s target then
      freeHandles (loseRequests (loseHandles (dropStream (markLost { s with reqs := [] } target) target tcReply) target) target (fun _ => true))
    else s)

end Sys2Proof.Machine
end

