-- ==== Sys2Proof/Machine/Pipe.lean ====
section
/-!
DEFINITION. Stage pipelines: ENQ and DEQ, the review of stages, and quiescence (spec 15 R272 to R275).
-/
namespace Sys2Proof.Machine

/-- A queue of a grid. -/
def setStageQueue (s : State) (g q : Nat) (Q : StageQueue) : State :=
  s.setGrid g { s.grid g with queues := (s.grid g).queues.zipIdx.map (fun k => if k.2 == q then Q else k.1) }

/-- The stage that a block's queue accesses come from; a handler stands for the stopped block (19 R346). -/
def stageOf (s : State) (b : Nat) : Nat := (s.block (spadHome s b)).stage

/-- Address of entry `i` (15 R271). -/
def StageQueue.entry (Q : StageQueue) (i : Nat) : Nat := Q.base + Q.esize * (i % 2 ^ Q.logN)

/-- The checks of ENQ and DEQ (15 R275): the queue of the grid, and the partition offset. -/
def queuePlace (x : Ext) (l : MemIn) (s : State) (enq : Bool) : Except Flt (StageQueue × Nat) :=
  let off := windowOffset x l
  match (s.grid (s.block l.b).grid).queues[x.b % 8]? with
  | none => .error (fltOf .queueRange 0)
  | some Q =>
    if stageOf s l.b != (if enq then Q.prod else Q.cons) then .error (fltOf .queueRange 0)
    else if off % 16 != 0 then .error (fltOf .misalignedAddr (off + 0x01E0_0000_0000_0000))
    else if off < 0 || (spadSizeOf s l.b : Int) < off + Q.esize then .error (fltOf .addrRange (off + 0x01E0_0000_0000_0000))
    else .ok (Q, off.toNat)

def queueReads (x : Ext) : List (Bool × Opnd) := [(false, opA x), noRead, noRead, noRead]

/-- ENQ (15 R275): the entry takes effect and is published in one step, so none is ever in flight. -/
def execEnq (x : Ext) (s : State) : Result :=
  onceRun x 58 { reads := queueReads x, steer := [0] } true (fun _ _ v => [.pair x.d (BitVec.ofNat 64 v)]) (fun l s =>
    match queuePlace x l s true with
    | .error f => (s, .fault f)
    | .ok (Q, off) =>
      if !Q.room then (s, .wait (.enq (x.b % 8) off))
      else
        let B := s.block l.b
        match writeRange s (keystoneOf B.region (coreDie B.core)) (Q.entry Q.write) (spadRead s l.b off Q.esize) with
        | (s, some f) => (s, .fault f)
        | (s, none) =>
          (setStageQueue s B.grid (x.b % 8) { Q with write := (Q.write + 1) % 2 ^ 32, published := Q.published ++ [Q.write] },
           .done (List.replicate l.m.nsib Q.write))) s
def execEnqBase (x : Base) (s : State) : Result := execEnq (Base.toExt 58 x) s

/-- DEQ (15 R275): the index is claimed at acceptance. The ENQ of the entry synchronizes-with it at device scope. -/
def execDeq (x : Ext) (s : State) : Result :=
  onceRun x 58 { reads := queueReads x, steer := [0] } true (fun _ _ v => [.pair x.d (BitVec.ofNat 64 v)]) (fun l s =>
    match queuePlace x l s false with
    | .error f => (s, .fault f)
    | .ok (Q, off) =>
      let B := s.block l.b
      let (i, Q) := match l.m.wait with
        | some (.deq _ i _) => (i, Q)
        | _ => (Q.claim, { Q with claim := (Q.claim + 1) % 2 ^ 32 })
      if !Q.published.contains i then (setStageQueue s B.grid (x.b % 8) Q, .wait (.deq (x.b % 8) i off))
      else match readRange s (keystoneOf B.region (coreDie B.core)) (Q.entry i) Q.esize with
        | (s, .error f) => (s, .fault f)
        | (s, .ok bytes) =>
          (setStageQueue (spadWrite (acquireEffect s l.b l.i .acquire .device) l.b off bytes) B.grid (x.b % 8)
            { Q with published := Q.published.filter (fun k => k != i) }, .done (List.replicate l.m.nsib i))) s
    (fun b _ s i => acquireEffect s b i .acquire .device)

/-- Live members of a block that wait in DEQ on an empty queue, with the numbers of their issues; none when some live member does
not (15 R272, R273). -/
def waitsEmpty (s : State) (b : Nat) : Option (List (Nat × Nat)) :=
  let B := s.block b
  let live := B.members.filter (fun kv => kv.2.live)
  if live.all (fun kv => match kv.2.wait with | some k => (match k with | .deq _ _ _ => !wakeReady s b k | _ => false) | none => false) then
    some (live.map (fun kv => (b, (kv.2.cap.map Captured.seq).getD 0)))
  else none

/-- A claim that its waiter gives up: later waiters move up by one index. -/
def giveBack (s : State) (g q i : Nat) : State :=
  match (s.grid g).queues[q]? with
  | none => s
  | some Q =>
    let s := setStageQueue s g q { Q with claim := (Q.claim + 2 ^ 32 - 1) % 2 ^ 32 }
    { s with blocks := s.blocks.map (fun kv => if kv.2.grid != g then kv else (kv.1, { kv.2 with
        members := kv.2.members.map (fun m => (m.1, match m.2.wait with
          | some (.deq p j off) => if p == q && precedes i j then { m.2 with wait := some (.deq p ((j + 2 ^ 32 - 1) % 2 ^ 32) off) } else m.2
          | _ => m.2)) })) }

/-- A waiting block ends as if its threads had executed EXIT (15 R272, R273); a saved one gives up its save area. -/
def exitBlock (s : State) (b : Nat) : State :=
  let B := s.block b
  let claims : List (Nat × Nat) := B.members.foldl (fun a kv => match kv.2.wait with
    | some (.deq q i _) => if a.contains (q, i) then a else (q, i) :: a
    | _ => a) []
  let out : Block := { B with members := B.members.map (fun kv => (kv.1, { kv.2 with live := false, exited := true, wait := .none, cap := .none })) }
  let s := match B.state with
    | .saved _ _ _ =>
      let s := discardBlock (s.setBlock b out) b
      s.setGrid B.grid { s.grid B.grid with exited := (s.grid B.grid).exited + 1 }
    | _ => endBlock (s.setBlock b out) b
  claims.foldl (fun s c => giveBack s B.grid c.1 c.2) s

/-- Blocks of a stage that have not ended. -/
def stageBlocks (s : State) (g k : Nat) : List Nat :=
  (gridBlocks s g).filter (fun b => (s.block b).stage == k && (s.block b).handler.isNone)

/-- Whether some core keeps the limits of a region with one more block (15 R253). -/
def limitsSome (s : State) (region slots : Nat) : Bool := (List.range 256).any (fun c => limitsOk s region c slots)

/-- The review of one non-source stage (15 R272). -/
def reviewStage (g : Nat) (s : State) (k : Nat) : State :=
  let G := s.grid g
  match G.stages[k]? with
  | none => s
  | some S => match G.queues[S.inq]? with
    | none => s
    | some Q =>
      let bs := stageBlocks s g k
      let n := bs.length + S.want
      let full (P : StageQueue) : Bool := !P.room
      let grow := (n == 0 && Q.published != []) ||
        (decide (2 ^ Q.logN ≤ 2 * Q.published.length) && !G.queues.any (fun P => P.prod == k && full P))
      let S' := { S with
        want := if grow && decide (n < S.maxB) && limitsSome s G.region (G.need k).slots then S.want + 1 else S.want
        idle := bs.flatMap (fun b => (waitsEmpty s b).getD []) }
      let s := s.setGrid g { G with stages := G.stages.zipIdx.map (fun sk => if sk.2 == k then S' else sk.1) }
      let idle := bs.filter (fun b => match waitsEmpty s b with | some ms => ms.all S.idle.contains | none => false)
      if S.minB < bs.length then
        match idle with
        | [] => s
        | b :: r => exitBlock s (r.foldl (fun a c => if (s.block a).blk < (s.block c).blk then c else a) b)
      else s

/-- STAGE_REVIEW: every 10 µs of REFT (15 R272). -/
def execStageReview (grid : Nat) (s : State) : Result :=
  .next (
    let G := s.grid grid
    if G.stages == [] || G.complete || G.status.isSome || decide (s.reft.toNat < G.reviewed + 10000) then s
    else (List.range G.stages.length).foldl (reviewStage grid) (s.setGrid grid { G with reviewed := s.reft.toNat }))

/-- PIPELINE_QUIESCE (15 R273). -/
def execPipelineQuiesce (grid : Nat) (s : State) : Result :=
  .next (
    let G := s.grid grid
    let bs := gridBlocks s grid
    if G.stages == [] || G.complete || G.status.isSome || !G.queues.all (fun Q => Q.published == []) ||
        G.stages.any (fun S => S.inq == 0xFF && S.want != 0) ||
        !bs.all (fun b => (waitsEmpty s b).isSome && (match (s.block b).state with | .running | .saved _ _ _ => true | _ => false)) then s
    else
      let s := bs.foldl exitBlock s
      s.setGrid grid { s.grid grid with stages := (s.grid grid).stages.map (fun S => { S with want := 0 }) })

end Sys2Proof.Machine
end

