-- ==== Sys2Proof/Machine/Transcend.lean ====
section
/-!
DEFINITION. FEX2, FLG2, FSIN and FCOS by the algorithms of spec 04 R94: every step in the internal format X, rounded in the
direction of the half, and one final rounding.
-/
namespace Sys2Proof.Machine

/-- ln 2 × 2^512, rounded down (notes/assumptions/11.md). -/
def ln2N : Nat :=
  0xB17217F7D1CF79ABC9E3B39803F2F6AF40F343267298B62D8A0D175B8BAAFA2BE7B876206DEBAC98559552FB4AFA1B10ED2E * 2 ^ 112 +
  0xAE35C138214427573B291169B825 * 2 ^ 0

/-- π × 2^1536, rounded down (notes/assumptions/11.md). -/
def piN : Nat :=
  0x3243F6A8885A308D313198A2E03707344A4093822299F31D0082EFA98EC4E6C89452821E638D01377BE5466CF34E90C6CC0A * 2 ^ 1140 +
  0xC29B7C97C50DD3F84D5B5B54709179216D5D98979FB1BD1310BA698DFB5AC2FFD72DBD01ADFB7B8E1AFED6A267E96BA7C904 * 2 ^ 740 +
  0x5F12C7F9924A19947B3916CF70801F2E2858EFC16636920D871574E69A458FEA3F4933D7E0D95748F728EB658718BCD58821 * 2 ^ 340 +
  0x54AEE7B54A41DC25A59B59C30D5392AF26013C5D1B023286085F0CA417918B8DB38EF8E79DCB0603A180E * 2 ^ 0

/-- Precision of X (04 R94). -/
def xPrec (t : Ty) : Nat := if t == .f64 then 113 else 53

/-- A value with its running inexactness. -/
structure XV where
  v : SQ
  nx : Bool

/-- rnd_x (04 R94): round to precision p with unbounded exponent. An exact zero keeps its sign. -/
def rndX (p : Nat) (rm : RM) (nx : Bool) (v : SQ) : XV :=
  if v.isZero then ⟨v, nx⟩
  else
    let r := roundPrec p rm v.neg v.q none
    ⟨⟨v.neg, Q.shift ⟨r.1, 1⟩ r.2.1⟩, nx || r.2.2⟩

/-- A coefficient: the exact value rounded once to X with ties to even (04 R94). -/
def coefX (p : Nat) (v : SQ) : SQ := (rndX p .rne false v).v

/-- Horner's rule of R94: from the last coefficient down, h := rnd_x(h × z + c). -/
def hornerX (p : Nat) (rm : RM) (c : Nat → SQ) (z : SQ) : Nat → XV → XV
  | 0, h => h
  | i + 1, h => hornerX p rm c z i (rndX p rm h.nx ((h.v.mul z).add (coefX p (c i))))

def factorial : Nat → Nat
  | 0 => 1
  | n + 1 => (n + 1) * factorial n

/-- Exact coefficients of the four rows (04 R94). -/
def coefEx2 (i : Nat) : SQ := ⟨false, ⟨ln2N ^ i, 2 ^ (512 * i) * factorial i⟩⟩
def coefLg2 (i : Nat) : SQ := ⟨false, ⟨2 * 2 ^ 512, (2 * i + 1) * ln2N⟩⟩
def coefSin (i : Nat) : SQ := ⟨i % 2 == 1, ⟨1, factorial (2 * i + 1)⟩⟩
def coefCos (i : Nat) : SQ := ⟨i % 2 == 1, ⟨1, factorial (2 * i)⟩⟩

/-- Last indices of the rows for the two precisions. -/
def lastEx2 (p : Nat) : Nat := if p == 113 then 24 else 13
def lastLg2 (p : Nat) : Nat := if p == 113 then 25 else 11
def lastSin (p : Nat) : Nat := if p == 113 then 14 else 8
def lastCos (p : Nat) : Nat := if p == 113 then 15 else 8

/-- The last rounding, with NX for any inexact step (04 R94); UF needs the last rounding itself inexact (notes/assumptions/107.md). -/
def finishX (f : Fmt) (md : Mode) (h : XV) : Nat × Nat :=
  let r := roundTo f md.rm h.v.neg h.v.q
  (r.1, if h.nx then orFlag r.2 flNX else r.2)

/-- The integer nearest a signed rational, ties to even. -/
def nearestInt (v : SQ) : Int :=
  let k : Int := (roundNat .rne v.neg v.q.n v.q.d).1
  if v.neg then -k else k

/-- fex2 (04 R94). An exponent beyond every format's range is held at ±5000, which leaves the final rounding the same. -/
def fex2Op (p : Nat) (f : Fmt) (md : Mode) (a : FV) : Nat × Nat :=
  match a with
  | .nan _ => (f.nanBits, snanFlag [a])
  | .inf n => if n then (0, 0) else (f.infBits, 0)
  | .fin ng q =>
    let x : SQ := ⟨ng, q⟩
    let n := nearestInt x
    let fr := x.add (SQ.ofInt (-n))
    let h := hornerX p md.rm coefEx2 fr (lastEx2 p) ⟨coefX p (coefEx2 (lastEx2 p)), false⟩
    finishX f md ⟨⟨h.v.neg, h.v.q.shift (clampI n (-5000) 5000)⟩, h.nx⟩

/-- flg2 (04 R94). -/
def flg2Op (p : Nat) (f : Fmt) (md : Mode) (a : FV) : Nat × Nat :=
  match a with
  | .nan _ => (f.nanBits, snanFlag [a])
  | .inf n => if n then (f.nanBits, flNV) else (f.infBits, 0)
  | .fin ng q =>
    if q.zero then (f.signBit + f.infBits, flDZ)
    else if ng then (f.nanBits, flNV)
    else
      let e0 := q.ilogb
      let m0 := q.shift (-e0)
      let up := decide (3 * m0.d ≤ 2 * m0.n)
      let m : Q := if up then ⟨m0.n, 2 * m0.d⟩ else m0
      let e : Int := if up then e0 + 1 else e0
      let one : SQ := ⟨true, ⟨1, 1⟩⟩
      let num := SQ.add ⟨false, m⟩ one
      let u := rndX p md.rm false ⟨num.neg, Q.div num.q ⟨m.n + m.d, m.d⟩⟩
      let z := rndX p md.rm u.nx (u.v.mul u.v)
      let h := hornerX p md.rm coefLg2 z.v (lastLg2 p) ⟨coefX p (coefLg2 (lastLg2 p)), z.nx⟩
      let w := rndX p md.rm h.nx (h.v.mul u.v)
      finishX f md (rndX p md.rm w.nx ((SQ.ofInt e).add w.v))

def SQ.negate (a : SQ) : SQ := ⟨!a.neg, a.q⟩

/-- fsin_fcos (04 R94). -/
def sincosOp (isCos : Bool) (p : Nat) (f : Fmt) (md : Mode) (a : FV) : Nat × Nat :=
  match a with
  | .nan _ => (f.nanBits, snanFlag [a])
  | .inf _ => (f.nanBits, flNV)
  | .fin ng q =>
    let x : SQ := ⟨ng, q⟩
    let k := nearestInt ⟨ng, ⟨q.n * 2 ^ 1537, q.d * piN⟩⟩
    let quad := k % 4
    let shift : SQ := ⟨decide (0 < k), ⟨k.natAbs * piN, 2 ^ 1537⟩⟩
    let t := rndX p md.rm false (if k = 0 then x else x.add shift)
    let z := rndX p md.rm t.nx (t.v.mul t.v)
    let hs := hornerX p md.rm coefSin z.v (lastSin p) ⟨coefX p (coefSin (lastSin p)), z.nx⟩
    let sn := rndX p md.rm hs.nx (hs.v.mul t.v)
    let cs := hornerX p md.rm coefCos z.v (lastCos p) ⟨coefX p (coefCos (lastCos p)), z.nx⟩
    let nx := sn.nx || cs.nx
    let sine := if quad = 0 then sn.v else if quad = 1 then cs.v else if quad = 2 then sn.v.negate else cs.v.negate
    let cosine := if quad = 0 then cs.v else if quad = 1 then sn.v.negate else if quad = 2 then cs.v.negate else sn.v
    finishX f md ⟨if isCos then cosine else sine, nx⟩

/-- A transcendental instruction, variable-latency (02 R34, 04 R94). -/
def transRun (x : Ext) (major : Nat) (op : Nat → Fmt → Mode → FV → Nat × Nat) (s : State) : Result :=
  laneRun x major none (readsA x) (fltUn x (op (xPrec x.ty) (tyFmt x.ty))) s

/-- FEX2 (04 R94). -/
def execFex2 (x : Ext) (s : State) : Result := transRun x 29 fex2Op s
def execFex2Base (x : Base) (s : State) : Result := execFex2 (Base.toExt 29 x) s
/-- FLG2 (04 R94). -/
def execFlg2 (x : Ext) (s : State) : Result := transRun x 29 flg2Op s
/-- FSIN (04 R94). -/
def execFsin (x : Ext) (s : State) : Result := transRun x 30 (sincosOp false) s
def execFsinBase (x : Base) (s : State) : Result := execFsin (Base.toExt 30 x) s
/-- FCOS (04 R94). -/
def execFcos (x : Ext) (s : State) : Result := transRun x 30 (sincosOp true) s

end Sys2Proof.Machine
end

