-- ==== Sys2Proof/Machine/Select.lean ====
section
/-!
DEFINITION. The selection unit: SELK, SMAX, SAMP and REDB with their parameter block, the fixed summation tree and the status record
(spec 08 R164 to R175).
-/
namespace Sys2Proof.Machine

/-- Fields of a selection parameter block (08 R167). -/
def SelOp.ctl (o : SelOp) : Nat := fieldAt o.pb 0 4
def SelOp.ctrx (o : SelOp) : Bool := bitN o.ctl 19
def SelOp.redOp (o : SelOp) : Nat := bitsAt o.ctl 16 3
def SelOp.idxin (o : SelOp) : Bool := bitN o.ctl 15
def SelOp.k (o : SelOp) : Nat := fieldAt o.pb 4 4
def SelOp.scale (o : SelOp) : Nat := fieldAt o.pb 8 4
def SelOp.n (o : SelOp) : Nat := recExt0 o.recIn
def SelOp.rows (o : SelOp) : Nat := recExt1 o.recIn
def SelOp.fmt (o : SelOp) : Fmt := tyFmt o.ty
/-- Width of an input element, and of a result in OUTBUF (08 R168). -/
def SelOp.w (o : SelOp) : Nat := tyBytes o.ty
def SelOp.outW (o : SelOp) : Nat := if o.kind == .selk || o.kind == .smax then o.w else 4
def SelOp.usesIdx (o : SelOp) : Bool := o.kind == .selk || (o.kind == .samp && o.idxin)

/-- A linear record whose base and stride1 are multiples of its element width (08 R168). -/
def linearOk (r : BitVec 256) (w : Nat) : Bool := recLayout r == 0 && recBase r % w == 0 && recStride1 r % (w : Int) == 0

/-- The checks of OPERAND_FORMAT (08 R168). -/
def SelOp.ok (o : SelOp) : Bool :=
  o.pbOk && o.ctl / 2 ^ 20 == 0 && (o.kind == .samp || (!o.ctrx && !o.idxin)) && (o.kind == .redb || o.redOp == 0) &&
  decide (o.redOp ≤ 4) && (o.usesIdx || bitsAt o.ctl 10 5 == 0) &&
  (if o.kind == .selk then decide (1 ≤ o.k) && decide (o.k ≤ 1024) else o.k == 0) &&
  (if o.kind == .smax then (match fval .f32 o.scale with | .fin n q => !n && !q.zero | _ => false) else o.scale == 0) &&
  ((o.kind == .samp && o.ctrx) || fieldAt o.pb 12 4 == 0) && (o.pb.drop 16).all (fun b => b == 0) &&
  o.n != 0 && decide (o.n ≤ 2 ^ 24) && o.rows != 0 && linearOk o.recIn o.w && linearOk o.recOut o.outW &&
  (!o.usesIdx || linearOk o.recIdx 4) &&
  (!(o.kind == .samp && o.idxin) || (decide (o.n ≤ recExt0 o.recIdx) && decide (o.rows ≤ recExt1 o.recIdx)))

/-- Counters of a status record (08 R175). -/
structure SelStat where
  excl : Nat
  rows : Nat
  digmin : Nat
  empty : Bool
  finite : Bool
  deriving DecidableEq, Repr

def SelStat.record (t : SelStat) (code ctr : Nat) : BitVec 128 :=
  BitVec.ofNat 128 (code % 16 + boolN t.finite * 16 + boolN t.empty * 32 + t.digmin % 2 ^ 8 * 2 ^ 32 + t.rows % 2 ^ 24 * 2 ^ 40 +
    min t.excl 0xFFFF_FFFF * 2 ^ 64 + ctr % 2 ^ 32 * 2 ^ 96)

/-- One input element: its bits, value and digit count (08 R169). -/
structure SelElem where
  bits : Nat
  val : FV
  digits : Nat
  deriving DecidableEq, Repr

def SelElem.of (f : Fmt) (bits digits : Nat) : SelElem := { bits := bits, val := fval f bits, digits := digits }

/-- Read one element by the representation of its page (08 R169). -/
def selRead (s : State) (o : SelOp) (who : Who) (triad : Bool) (a : Int) : State × Except Flt SelElem :=
  let f := o.fmt
  match engineWindow s (some o.blk) a o.w with
  | .error e => (s, .error e)
  | .ok (.spad off) => (s, .ok (SelElem.of f (leNat (storeRead (s.block o.blk).spad off o.w)) f.prec))
  | .ok (.lane _) => (s, .error (fltOf .addrRange a))
  | .ok (.page va) =>
    match reach s who va o.w .read (if triad then 3 else 1) with
    | (s, .error e) => (s, .error e)
    | (s, .ok p) =>
      if p.rep == 1 && triad then
        let (s, xs) := (List.range 3).foldl (fun (acc : State × List Nat) i =>
          let (s, bs) := loadKey acc.1 who p (p.plane i) o.w
          (s, acc.2 ++ [leNat bs])) (s, [])
        (s, .ok (SelElem.of f (storeMean f xs) (digCount f xs)))
      else
        let (s, bs) := loadKey s who p p.key o.w
        if p.rep == 2 && triad then
          match engineRead s who (some o.blk) (o.digest.toNat % 2 ^ 57 + va / 4 : Nat) 1 with
          | (s, .error e) => (s, .error e)
          | (s, .ok d) => (s, .ok (SelElem.of f (leNat bs) (min (leNat d) f.prec)))
        else (s, .ok (SelElem.of f (leNat bs) f.prec))

/-- Address of element (r, i) of a linear record (08 R168). -/
def rowAddr (rec_ : BitVec 256) (r i w : Nat) : Int := (recBase rec_ : Int) + r * recStride1 rec_ + (i * w : Nat)

/-- Read row `r` (08 R168, R169). -/
def selRow (s : State) (o : SelOp) (who : Who) (triad : Bool) (r : Nat) : State × Except Flt (List SelElem) :=
  (List.range o.n).foldl (fun (acc : State × Except Flt (List SelElem)) i =>
    match acc.2 with
    | .error f => (acc.1, .error f)
    | .ok es =>
      match selRead acc.1 o who triad (rowAddr o.recIn r i o.w) with
      | (s, .error f) => (s, .error f)
      | (s, .ok e) => (s, .ok (es ++ [e]))) (s, .ok [])

/-- A result element: its record, column, width, bits and digit byte. -/
structure SelOut where
  rec_ : BitVec 256
  col : Nat
  w : Nat
  bits : Nat
  digit : Nat

/-- Write one result under its record's bounds mode (08 R168, R169). -/
def selWrite (s : State) (o : SelOp) (who : Who) (r : Nat) (x : SelOut) : State × Option Flt :=
  if decide (x.col < recExt0 x.rec_) && decide (r < recExt1 x.rec_) then
    let a := rowAddr x.rec_ r x.col x.w
    if a < 0 then (s, some (fltOf .addrRange a))
    else
      let (s, _, f) := engineWrite s who (some o.blk) (some (o.digest.toNat, x.digit)) a.toNat (leBytes x.w x.bits)
      (s, f)
  else if recBounds x.rec_ == 1 then (s, none) else (s, some (fltOf .bounds 0))

/-- f32 addition under RNE on bits (08 R170). -/
def add32 (a b : Nat) : Nat := (fadd .f32 ⟨.rne, false⟩ (fval .f32 a) (fval .f32 b)).1

/-- One level of tree_sum; a missing right neighbour is the +0 padding (08 R170). -/
def treeLevel : List Nat → List Nat
  | a :: b :: r => add32 a b :: treeLevel r
  | [a] => [add32 a 0]
  | [] => []
def treeLoop : Nat → List Nat → Nat
  | 0, v => v.headD 0
  | fuel + 1, v => if v.length ≤ 1 then v.headD 0 else treeLoop fuel (treeLevel v)
/-- tree_sum over f32 bits (08 R170). -/
def treeSum (v : List Nat) : Nat := treeLoop v.length v

/-- An element's value as f32 bits, exactly. -/
def widen (v : FV) : Nat := (fcvt .f32 ⟨.rne, false⟩ v).1

def SelElem.nan (e : SelElem) : Bool := e.val.isNan
def SelElem.notFinite (e : SelElem) : Bool := e.val.isNan || e.val.isInf

/-- Insert an element after every element that is not smaller (08 R171). -/
def selInsert (x : Nat × SelElem) : List (Nat × SelElem) → List (Nat × SelElem)
  | [] => [x]
  | k :: r => if fvLt k.2.val x.2.val then x :: k :: r else k :: selInsert x r

/-- The K largest, largest first (08 R171). -/
def selLargest (k : Nat) (es : List SelElem) : List (Nat × SelElem) :=
  (es.zipIdx.foldl (fun a ei => if ei.1.nan then a else selInsert (ei.2, ei.1) a) []).take k

/-- What a row gives: its result elements, excluded elements, least digit count, EMPTY. -/
structure SelRow where
  outs : List SelOut
  excl : Nat
  digmin : Nat
  empty : Bool

def countIf (p : SelElem → Bool) (es : List SelElem) : Nat := (es.filter p).length
def leastDigits (p : Nat) (es : List SelElem) : Nat := es.foldl (fun a e => min a e.digits) p

/-- SELK of one row (08 R171). -/
def selkRow (o : SelOp) (es : List SelElem) : SelRow :=
  let f := o.fmt
  let best := selLargest o.k es
  let put (i bits idx : Nat) : List SelOut :=
    [{ rec_ := o.recOut, col := i, w := o.w, bits := bits, digit := f.prec },
     { rec_ := o.recIdx, col := i, w := 4, bits := idx, digit := 0xFF }]
  { outs := (List.range o.k).flatMap (fun i => match best[i]? with
      | some (n, e) => put i e.bits n
      | none => put i (f.signBit + f.infBits) 0xFFFF_FFFF)
    excl := countIf SelElem.nan es, digmin := leastDigits f.prec (best.map Prod.snd), empty := false }

/-- SMAX of row `r` (08 R172). -/
def smaxRow (o : SelOp) (triad : Bool) (r : Nat) (es : List SelElem) : SelRow :=
  let f := o.fmt
  let out (ys : List Nat) : List SelOut := ys.zipIdx.map (fun yi =>
    { rec_ := o.recOut, col := yi.2, w := o.w, bits := yi.1, digit := f.prec })
  let dm := leastDigits f.prec es
  let nans := countIf SelElem.nan es
  let m := es.foldl (fun a e => fvMax a e.val) (.inf true)
  if nans != 0 || (m.isInf && !m.neg?) then
    { outs := out (es.map (fun _ => f.nanBits)), excl := nans, digmin := dm, empty := false }
  else if m.isInf then { outs := out (es.map (fun _ => 0)), excl := 0, digmin := dm, empty := true }
  else
    let sc := (fval .f32 o.scale).sq
    let ex := es.map (fun e =>
      let z : FV := match e.val with
        | .fin _ _ => fval .f32 (let d := (e.val.sq.add m.negate.sq).mul sc
            if d.isZero then 0 else (roundTo .f32 .rne d.neg d.q).1)
        | v => v
      (fex2Op (xPrec .f32) .f32 ⟨.rne, false⟩ z).1)
    let t := treeSum ex
    { outs := out (ex.zipIdx.map (fun ei =>
        let md := rndMode o.rnd (if triad then
          some (bitN (onceDraw o.seed.toNat o.tid.toNat o.icount.toNat (r * o.n + ei.2) 0) 0) else none)
        (fdiv f md (fval .f32 ei.1) (fval .f32 t)).1))
      excl := 0, digmin := dm, empty := false }

/-- Running sums S[j] of weights (08 R173). -/
def runSums : Nat → List Nat → List Nat
  | _, [] => []
  | a, v :: r => let x := add32 a v; x :: runSums x r

/-- SAMP of row `r`: the drawn position, or none (08 R173). -/
def sampPos (o : SelOp) (blk r : Nat) (ws : List Nat) : Option Nat :=
  let w := draw o.randseed.toNat (blk % 2 ^ 32) ((o.counter.toNat + r) % 2 ^ 32)
  let u : FV := .fin false ⟨w / 256 % 2 ^ 24, 2 ^ 24⟩
  let sums := runSums 0 ws
  let t := (fmul .f32 ⟨.rne, false⟩ u (fval .f32 (sums.getLast?.getD 0))).1
  match sums.findIdx? (fun x => fvLt (fval .f32 t) (fval .f32 x)) with
  | some j => some j
  | none => (ws.zipIdx.filter (fun w => w.1 != 0)).getLast?.map Prod.snd

/-- A weight: NaN, infinite and negative elements weigh +0 (08 R173). -/
def SelElem.weight (e : SelElem) : Nat :=
  match e.val with
  | .fin false _ => widen e.val
  | _ => 0
def SelElem.noWeight (e : SelElem) : Bool :=
  match e.val with
  | .fin n q => n && !q.zero
  | _ => true

/-- REDB of one row (08 R174); on a DIGEST page its result, an f32 element, keeps the precision 24 (notes/assumptions/123.md). -/
def redbRow (o : SelOp) (es : List SelElem) : SelRow :=
  let xs := es.map (fun e => widen e.val)
  let nans := countIf SelElem.nan es
  let fold (isMax : Bool) (ys : List Nat) : Nat := (ys.drop 1).foldl (fun a y => (fminmax .f32 isMax a y).1) (ys.headD 0)
  let v := match o.redOp with
    | 0 => treeSum xs
    | 1 => treeSum (xs.map (fun x => (fmul .f32 ⟨.rne, false⟩ (fval .f32 x) (fval .f32 x)).1))
    | 2 => fold true xs
    | 3 => fold false xs
    | _ => fold true (xs.map (fun x => x % 2 ^ 31))
  { outs := [{ rec_ := o.recOut, col := 0, w := 4, bits := if nans != 0 then Fmt.nanBits .f32 else v, digit := Fmt.prec .f32 }]
    excl := nans, digmin := leastDigits o.fmt.prec es, empty := false }

/-- SAMP of row `r`, with its read of the index row (08 R173). -/
def sampRow (s : State) (o : SelOp) (who : Who) (blk r : Nat) (es : List SelElem) : State × Except Flt SelRow :=
  let pos := sampPos o blk r (es.map SelElem.weight)
  let row (v : Nat) : SelRow :=
    { outs := [{ rec_ := o.recOut, col := 0, w := 4, bits := v, digit := 0xFF }]
      excl := countIf SelElem.noWeight es
      digmin := leastDigits o.fmt.prec (es.filter (fun e => e.weight != 0)), empty := pos.isNone }
  match pos with
  | none => (s, .ok (row 0xFFFF_FFFF))
  | some j =>
    if o.idxin then
      match engineRead s who (some o.blk) (rowAddr o.recIdx r j 4) 4 with
      | (s, .error f) => (s, .error f)
      | (s, .ok bs) => (s, .ok (row (leNat bs)))
    else (s, .ok (row j))

/-- Rows from `r` on; stops at the first fault (08 R168), with what was written of that row (notes/assumptions/122.md). -/
def selRows (o : SelOp) (who : Who) (triad : Bool) (blk : Nat) : Nat → Nat → State → SelStat → State × SelStat × Bool
  | 0, _, s, t => (s, t, true)
  | fuel + 1, r, s, t =>
    match selRow s o who triad r with
    | (s, .error _) => (s, t, false)
    | (s, .ok es) =>
      let (s, row) : State × Except Flt SelRow := match o.kind with
        | .selk => (s, .ok (selkRow o es))
        | .smax => (s, .ok (smaxRow o triad r es))
        | .samp => sampRow s o who blk r es
        | .redb => (s, .ok (redbRow o es))
      match row with
      | .error _ => (s, t, false)
      | .ok row =>
        match row.outs.foldl (fun (acc : State × Option Flt) x => match acc.2 with
            | some _ => acc
            | none => selWrite acc.1 o who r x) (s, none) with
        | (s, some _) => (s, t, false)
        | (s, none) =>
          selRows o who triad blk fuel (r + 1) s
            { excl := t.excl + row.excl, rows := t.rows + 1, digmin := min t.digmin row.digmin, empty := t.empty || row.empty
              finite := t.finite && !es.any SelElem.notFinite }

/-- Acceptance (08 R165, R167, R173). -/
def acceptSel (s : State) (kind : SelKind) (x : Ext) (b i off : Nat) : State :=
  let (ok, pb) := paramBlock s b off 48 64
  let ctl := fieldAt pb 0 4
  let (s, rin) := if ok then useBuffer s b i (bitsAt ctl 0 5) else (s, 0)
  let (s, rout) := if ok then useBuffer s b i (bitsAt ctl 5 5) else (s, 0)
  let (s, ridx) := if ok && (kind == .selk || (kind == .samp && bitN ctl 15)) then useBuffer s b i (bitsAt ctl 10 5) else (s, 0)
  let B := s.block b
  let m := B.member i
  let o : SelOp :=
    { kind := kind, ty := x.ty, rnd := x.rnd, blk := b, mem := i, tag := x.d % 64, pbOff := off, pbOk := ok, pb := pb, recIn := rin
      recOut := rout, recIdx := ridx, seed := m.first.ctl64 4, randseed := m.first.ctl64 8, digest := m.first.ctl64 6
      tid := BitVec.ofNat 64 (B.tid i), icount := m.icount
      counter := if bitN ctl 19 then BitVec.ofNat 32 (fieldAt pb 12 4) else B.sample, pc := m.pc }
  let s := if kind == .samp && o.ok && !o.ctrx then
      s.setBlock b { B with sample := B.sample + BitVec.ofNat 32 o.rows }
    else s
  tagClear (s.setCore B.core { s.core B.core with selq := (s.core B.core).selq ++ [o] }) b o.tag

/-- A selection instruction: accepted once per issue into a queue of 8 (08 R165). -/
def selRun (kind : SelKind) (x : Ext) (s : State) : Result :=
  onceRun x 52 { reads := [(false, opA x), noRead, noRead, noRead], steer := [0] } false noDest (fun l s =>
    if (s.block l.b).tagN ≤ x.d % 64 then (s, .fault (fltOf .tagRange 0))
    else if 8 ≤ (s.core (s.block l.b).core).selq.length then (s, .notReady)
    else (acceptSel s kind x l.b l.i (medianBy unsignedV (l.src 0)), .done [])) s

/-- SELK (08 R164, R171). -/
def execSelk (x : Ext) (s : State) : Result := selRun .selk x s
def execSelkBase (x : Base) (s : State) : Result := execSelk (Base.toExt 52 x) s
/-- SMAX (08 R164, R172). -/
def execSmax (x : Ext) (s : State) : Result := selRun .smax x s
/-- SAMP (08 R164, R173). -/
def execSamp (x : Ext) (s : State) : Result := selRun .samp x s
/-- REDB (08 R164, R174). -/
def execRedb (x : Ext) (s : State) : Result := selRun .redb x s

/-- SELECTION_COMPLETE: the unit performs the oldest operation (08 R165, R168, R175). -/
def execSelectionComplete (core : Nat) (s : State) : Result :=
  .next (match (s.core core).selq with
    | [] => s
    | o :: r =>
      let s := { s.setCore core { s.core core with selq := r } with reqs := [] }
      let B := s.block o.blk
      let ctr := if o.kind == .samp then o.counter.toNat else 0
      let done (s : State) (st : BitVec 128) : State :=
        let B := s.block o.blk
        let s := if o.pbOk then s.setBlock o.blk { B with spad := storeWrite B.spad (o.pbOff + 48) (leBytes 16 st.toNat) } else s
        tagDone s o.blk o.tag st
      if !o.ok then
        done s (SelStat.record { excl := 0, rows := 0, digmin := if B.triad then 0 else o.fmt.prec, empty := false, finite := false } 1 ctr)
      else
        let (s, t, ok) := selRows o { engineOf B 0 with priv := false } B.triad B.blk o.rows 0 s
          { excl := 0, rows := 0, digmin := o.fmt.prec, empty := false, finite := true }
        done (sampleEngine s B o.pc) (t.record (if ok then 0 else 8) ctr))

end Sys2Proof.Machine
end

