-- ==== Sys2Proof/Machine/Shape.lean ====
section
/-!
DEFINITION. Shape registers: SHAPE, SHGET, and the trap of a re-granted register (spec 06 R124 to R129; 19 R359).
-/
namespace Sys2Proof.Machine

/-- A shape register whose grant changed at the last re-grant: REGRANT with SHCHANGED as FCODE (19 R359). -/
def regrantFlt (B : Block) (n : Nat) : Option Flt :=
  if bitN B.shChanged (n % 8) then some { cause := .regrant, fcode := B.shChanged, addr := 0 } else none

/-- Sources of SHAPE: request bits [31:0] in A and [63:32] in B (06 R127). -/
def shapeReads (x : Ext) : List (Bool × Opnd) :=
  [(false, opA x), (false, if x.m1 then .uni x.b else .lane x.b), noRead, noRead]

/-- SHAPE (06 R128): the lowest member's request, granted at once; every thread of the block sees it from then on (notes/assumptions/25.md). -/
def execShape (x : Ext) (s : State) : Result :=
  drainRun x 48 true { reads := shapeReads x, steer := [0, 1] } false noDest (fun l s =>
    let req : W64 := BitVec.ofNat 64 (medianBy unsignedV (l.src 0) + 2 ^ 32 * medianBy unsignedV (l.src 1))
    let B := s.block l.b
    let h : ShapeReg := { req := req, grant := grantWord req B.tb (s.core B.core).liveRows }
    (s.setBlock l.b (courseWrote { B with sh := SMap.set ShapeReg.zero B.sh (x.d % 8) h } (232 + x.d % 8)), .done [])) s
def execShapeBase (x : Base) (s : State) : Result := execShape (Base.toExt 48 x) s

/-- The shape register that an instruction names, with its course entries (20 R363). -/
def useShape (s : State) (b i n : Nat) : State × ShapeReg :=
  let h := (s.block b).shape n
  (logBlockRead s b i (232 + n % 8) 2 (h.req.toNat + 2 ^ 64 * h.grant.toNat), h)

/-- SHGET.grant and SHGET.req (06 R129). -/
def execShget (x : Ext) (s : State) : Result :=
  drainRun x 48 false { reads := [], steer := [] } true (fun _ _ v => [.pair x.d (BitVec.ofNat 64 v)]) (fun l s =>
    match regrantFlt (s.block l.b) x.a with
    | some f => (s, .fault f)
    | none =>
      let (s, h) := useShape s l.b l.i x.a
      (s, .done (List.replicate l.m.nsib (if x.mod == 1 then h.req.toNat else h.grant.toNat)))) s

end Sys2Proof.Machine
end

