-- ==== Sys2Proof/Machine/Matrix.lean ====
section
/-!
DEFINITION. The matrix queue: MATX with block sums, promotion and epilogue, the Coffer with CFZERO, CFREAD, FOLD and DRAIN, MSTAT, the
reset of the engine, and the expansions MQ16 and MQ32 (spec 02 R42, R43; 06 R131 to R139; 07 R140 to R163; 19 R356).
-/
namespace Sys2Proof.Machine

/-- Scratchpad window base (10 R177). -/
def spadWin : Nat := 0x01E0_0000_0000_0000

/-- Fields of a MATX control word (07 R144). -/
def MatOp.ctl (o : MatOp) : Nat := fieldAt o.pb 0 4
def MatOp.nfa (o : MatOp) : Nat := bitsAt o.ctl 0 3
def MatOp.nfb (o : MatOp) : Nat := bitsAt o.ctl 3 3
def MatOp.columns (o : MatOp) : Bool := bitN o.ctl 6
def MatOp.strict (o : MatOp) : Bool := bitN o.ctl 7
def MatOp.rndCode (o : MatOp) : Nat := bitsAt o.ctl 8 3
def MatOp.init (o : MatOp) : Nat := bitsAt o.ctl 11 2
def MatOp.coffer (o : MatOp) : Bool := bitN o.ctl 13
def MatOp.epi (o : MatOp) : Bool := bitN o.ctl 16

/-- Fields of the captured grant (06 R124). -/
def MatOp.grant (o : MatOp) : Nat := o.shape.grant.toNat
def MatOp.mg (o : MatOp) : Nat := bitsAt o.grant 0 16
def MatOp.ng (o : MatOp) : Nat := bitsAt o.grant 16 16
def MatOp.kg (o : MatOp) : Nat := bitsAt o.grant 32 16
def MatOp.rused (o : MatOp) : Nat := bitsAt o.grant 48 8
def MatOp.abase (o : MatOp) : Nat := bitsAt o.shape.req.toNat 56 7

/-- A MATX that accumulates into registers owns v(ABASE) to v(ABASE + RUSED - 1) (07 R148). -/
def MatOp.ownsRegs (o : MatOp) : Bool := o.kind == .matx && o.slot == 0xFFFF

/-- Virtual byte ranges that an operation reads and writes: the status of a MATX or FOLD, the partition that a MATX reads, the log of a
FOLD, the weights of a DRAIN to whole words with their digit bytes (03 R66; 07 R145, R150, R158, R160). -/
def MatOp.writes (o : MatOp) : List (Int × Int) :=
  match o.kind with
  | .matx | .fold => if o.pbOk then [((spadWin + o.pbOff + 48 : Nat), (spadWin + o.pbOff + 64 : Nat))] else []
  | .cfzero => []
  | .drain =>
    let last : Int := (min 192 (recExt1 o.recA) - 1 : Nat) * recStride1 o.recA
    let row : Int := (4 * min 192 (recExt0 o.recA) : Nat)
    let lo : Int := (recBase o.recA : Int) + min 0 last - 3
    let hi : Int := (recBase o.recA : Int) + max 0 last + row + 3
    let digits : Int := (o.digest.toNat % 2 ^ 57 : Nat)
    [(lo, hi), (digits + lo / 4, digits + hi / 4 + 1)]
def MatOp.reads (o : MatOp) : List (Int × Int) :=
  match o.kind with
  | .matx => [((spadWin : Nat), (spadWin + 2 ^ 19 : Nat))]
  | .fold => [((fieldAt o.pb 0 8 : Nat), (fieldAt o.pb 0 8 + fieldAt o.pb 8 4 : Nat))]
  | .cfzero => []
  | .drain => o.writes

/-- Whether ranges of two operations meet; the scratchpad window of one block is not that of another. -/
def MatOp.meets (sameBlk : Bool) (a b : List (Int × Int)) : Bool :=
  a.any (fun p => b.any (fun q => decide (p.1 < q.2) && decide (q.1 < p.2) && (sameBlk || decide (p.1 < spadWin))))

/-- Whether an operation reaches translated memory, where two virtual addresses may name one byte. -/
def MatOp.translated (o : MatOp) : Bool := o.kind == .fold || o.kind == .drain

/-- Two operations that share an accumulator register, a Coffer slot, a tag, or bytes of memory that one of them writes: they take effect
in acceptance order (07 R142, R150). A DRAIN keeps its order with every other operation on translated memory (notes/assumptions/120.md). -/
def MatOp.conflicts (a b : MatOp) : Bool :=
  let same := a.blk == b.blk
  (a.ownsRegs && b.ownsRegs && same && decide (a.abase < b.abase + b.rused) && decide (b.abase < a.abase + a.rused)) ||
    (a.slot != 0xFFFF && a.slot == b.slot) || (same && a.tag == b.tag) ||
    (a.translated && b.translated && (a.kind == .drain || b.kind == .drain)) ||
    MatOp.meets same a.writes (b.reads ++ b.writes) || MatOp.meets same b.writes a.reads

/-- Counters of a status record (07 R150). -/
structure MatStat where
  nanc : Nat
  ovf : Nat
  fmterr : Nat
  satcnt : Nat
  finite : Bool
  deriving DecidableEq, Repr

/-- The counters and FINITE of an operation that does not compute (07 R150; notes/assumptions/42.md). -/
def MatStat.zero : MatStat := { nanc := 0, ovf := 0, fmterr := 0, satcnt := 0, finite := false }

def MatStat.record (t : MatStat) (code : Nat) : BitVec 128 :=
  BitVec.ofNat 128 (code % 16 + boolN t.finite * 16 + boolN (t.satcnt != 0) * 32 + t.satcnt % 2 ^ 32 * 2 ^ 32 +
    t.fmterr % 2 ^ 32 * 2 ^ 64 + min t.ovf 0xFFFF * 2 ^ 96 + min t.nanc 0xFFFF * 2 ^ 112)

/-- CODE of a status record (07 R150). -/
def mcOk : Nat := 0
def mcFormat : Nat := 1
def mcBadShape : Nat := 2
def mcAborted : Nat := 3
def mcPoisoned : Nat := 4
def mcSlotRegion : Nat := 5
def mcIncomplete : Nat := 6
def mcSkipped : Nat := 7
def mcAccess : Nat := 8
def mcNumeric : Nat := 9

/-- Operand pairs (06 R134) by NF code: F4 0, I4 1, I2 2, T 3, I8 4, A8 5, A12 6. -/
def pairOk (a b : Nat) : Bool :=
  ((a == 2 || a == 3) && (b == 2 || b == 4)) || (a == b && a != 2 && a != 3 && decide (a ≤ 6))

/-- Scale bytes of one operand as partition offsets: none without block scales, false when one lies outside (06 R133, 07 R145). -/
def scaleOffs (r : BitVec 256) (cw kg size x : Nat) : List (Option Nat) :=
  (List.range (kg / 8)).map (fun kb =>
    let a := scaleAddr (recBase r : Int) (recSoff r) cw (recStride1 r) (recStride2 r) (8 * kb : Nat) x 0 - (spadWin : Int)
    if decide (0 ≤ a) && decide (a < size) then some a.toNat else none)

/-- Checks of one operand's record (05 R109, R110, R117; 06 R131, R132; 07 R146). -/
def operandOk (r : BitVec 256) (nf : Nat) (layouts : List Nat) (tileRows kg lines size : Nat) : Bool :=
  let cw := nfCw nf
  layouts.contains (recLayout r) && (tensorScale (recTscale r)).isSome && (decide (nf < 5) || recSoff r != 0) &&
  decide (spadWin ≤ recBase r) && recBase r % 256 == 0 && decide (recBase r - spadWin + 256 * tileRows ≤ size) &&
  recStride1 r % cw == 0 && recStride2 r % cw == 0 &&
  (recSoff r == 0 || (List.range lines).all (fun x => (scaleOffs r cw kg size x).all Option.isSome))

/-- Tile rows that each k takes in a word operand (06 R133). -/
def wordRows (ng nf : Nat) : Nat := ceilDiv (ng * nfCw nf) 2048

/-- The CODE with which a MATX completes without computing, if it does (07 R144, R146): an unreadable parameter block, then the shape, then the
other fields (notes/assumptions/128.md). -/
def MatOp.refused (o : MatOp) (size : Nat) : Option Nat :=
  if !o.pbOk then some mcFormat
  else if !o.shape.valid || bitsAt o.grant 56 3 == 2 || bitsAt o.grant 56 3 == 3 then some mcBadShape
  else if o.ctl / 2 ^ 27 != 0 || (o.pb.drop 4).any (fun b => b != 0) || decide (2 ≤ o.init) || decide (6 ≤ o.rndCode) ||
      !pairOk o.nfa o.nfb || (o.columns && o.kg % 64 != 0) || (o.coffer && (o.init != 1 || o.epi)) ||
      !operandOk o.recA o.nfa [1] (planeRows o.columns (nfPlanes o.nfa) o.mg o.kg) o.kg o.mg size ||
      !operandOk o.recB o.nfb [0, 2] (o.kg * wordRows o.ng o.nfb) o.kg o.ng size then some mcFormat
  else none

/-- One bit of the partition, at a bit offset. -/
def spadBit (B : Block) (off pos : Nat) : Bool := bitN (SMap.get 0 B.spad (off + pos / 8)).toNat (pos % 8)

/-- The planes of element (i, k) of the plane operand (06 R132, 05 R118). -/
def MatOp.planes (o : MatOp) (B : Block) (i k : Nat) : Nat :=
  (List.range (nfPlanes o.nfa)).foldl (fun a p =>
    if spadBit B (recBase o.recA - spadWin) (planePos o.columns (nfPlanes o.nfa) o.kg i k p) then a + 2 ^ p else a) 0

/-- The image that planes stand for; a reserved T code counts as 0, and the magnitude bits of an F4 element are its magnitude, also where they
are the image of no code (06 R135; notes/assumptions/127.md). -/
def planeImage (nf v : Nat) : Int :=
  if nf == 0 then (if bitN v 4 then -((v % 16 : Nat) : Int) else (v % 16 : Nat))
  else if nf == 3 && v == 2 then 0 else sextN v (nfPlanes nf)

/-- The code of element (k, j) of the word operand (06 R133). -/
def MatOp.wordCode (o : MatOp) (B : Block) (k j : Nat) : Nat :=
  let cw := nfCw o.nfb
  let word := cw * j / 32
  let off := recBase o.recB - spadWin + tileWord (recLayout o.recB == 2) (k * wordRows o.ng o.nfb + word / 64) (word % 64)
  (List.range cw).foldl (fun a b => if spadBit B off (cw * j % 32 + b) then a + 2 ^ b else a) 0

/-- A row of A or a column of B as blocks of eight images with their scale byte. -/
def blocksOf (B : Block) (r : BitVec 256) (cw kg x : Nat) (img : Nat → Int) : List (List Int × Nat) :=
  let scales := if recSoff r == 0 then List.replicate (kg / 8) 127
    else (scaleOffs r cw kg B.spadSize x).map (fun a => (SMap.get 0 B.spad (a.getD 0)).toNat)
  scales.zipIdx.map (fun bk => ((List.range 8).map (fun t => img (8 * bk.2 + t)), bk.1))

/-- The block sums of a row of A and a column of B with their scale bytes (06 R135). -/
def blockSums (a b : List (List Int × Nat)) : List (Int × Nat × Nat) :=
  List.zipWith (fun x y => ((List.zipWith (· * ·) x.1 y.1).foldl (· + ·) 0, x.2, y.2)) a b

/-- Limit of the inner accumulator (06 R136). -/
def innerMax : Int := 2 ^ 23 - 1

/-- promote (06 R137; 07 R156): `k` multiplies the product, 1 but for the Coffer. -/
def promote (m : Mode) (acc : Nat) (S : Int) (bA bB : Nat) (f4 : Bool) (k : Q) : Nat :=
  if bA == 0xFF || bB == 0xFF then Fmt.nanBits .f32
  else match fval .f32 acc with
    | .nan _ => Fmt.nanBits .f32
    | .inf n => signOf .f32 n + Fmt.infBits .f32
    | .fin n q =>
      let c := clampI S (-innerMax) innerMax
      let p := Q.shift ⟨c.natAbs * k.n, k.d⟩ ((bA : Int) + bB - 254 - (if f4 then 2 else 0))
      (sumTo .f32 m ⟨n, q⟩ ⟨decide (c < 0), p⟩).1

/-- What one accumulator element goes through: its planes, whether a NaN came in, and its saturated promotions. -/
structure ElemRun where
  accs : List Nat
  nanIn : Bool
  sats : Nat

def isNan32 (x : Nat) : Bool := (fval .f32 x).isNan
def isInf32 (x : Nat) : Bool := (fval .f32 x).isInf

/-- All promotions of one element (07 R147): each k-block is promoted in every plane, and a saturated one counts in each (06 R136, R138).
`dir g p` is the mode of step g in plane p. -/
def promoteAll (f4 : Bool) (k : Q) (dir : Nat → Nat → Mode) (sums : List (Int × Nat × Nat)) (accs : List Nat) : ElemRun :=
  sums.zipIdx.foldl (fun r sg =>
    let (S, bA, bB) := sg.1
    { accs := r.accs.zipIdx.map (fun ap => promote (dir sg.2 ap.2) ap.1 S bA bB f4 k)
      nanIn := r.nanIn || bA == 0xFF || bB == 0xFF
      sats := r.sats + (if S < -innerMax || innerMax < S then r.accs.length else 0) })
    { accs := accs, nanIn := accs.any isNan32, sats := 0 }

/-- Rounding direction of an operation's element e at step g in plane p (06 R137). -/
def MatOp.dir (o : MatOp) (rnd : Rnd) (triad : Bool) (e g p : Nat) : Mode :=
  rndMode rnd (if triad then some (bitN (onceDraw o.seed.toNat o.tid.toNat o.icount.toNat e g) p) else none)

/-- The counters after one element whose accumulators were `before` (07 R150). -/
def MatStat.elem (t : MatStat) (before : List Nat) (r : ElemRun) : MatStat :=
  { t with
    nanc := t.nanc + (if r.accs.any isNan32 && !r.nanIn then 1 else 0)
    ovf := t.ovf + (if (List.zipWith (fun a b => isInf32 b && !isInf32 a && !isNan32 a) before r.accs).any id then 1 else 0)
    satcnt := t.satcnt + r.sats
    finite := t.finite && r.accs.all (fun a => !isNan32 a && !isInf32 a) }

/-- Member and register of accumulator element e (06 R139). -/
def elemPlace (tb abase e : Nat) : Nat × Nat := (e % tb, abase + e / tb)

/-- Write an element's planes into its member's registers, if the member lives, with the course entries (06 R139; 20 R363). -/
def writeAcc (B : Block) (t reg : Nat) (accs : List Nat) : Block :=
  let m := B.member t
  if !m.live then B
  else
    let B := courseLog B (fun c => accs.zipIdx.map (fun ap =>
      { value := BitVec.ofNat 64 ap.1, dest := reg, part := 0, member := t, sib := ap.2, count := SMap.get 0 c.retired t
        late := true }))
    B.setMember t { m with sibs := List.zipWith (fun (r : Regs) a => r.writeNow (.reg reg (BitVec.ofNat 32 a))) m.sibs accs }

/-- Rows of A and columns of B of an operation, and the reserved codes read. -/
def MatOp.rowsA (o : MatOp) (B : Block) : List (List (List Int × Nat)) :=
  (List.range o.mg).map (fun i => blocksOf B o.recA (nfCw o.nfa) o.kg i (fun k => planeImage o.nfa (o.planes B i k)))
def MatOp.colsB (o : MatOp) (B : Block) : List (List (List Int × Nat)) :=
  (List.range o.ng).map (fun j => blocksOf B o.recB (nfCw o.nfb) o.kg j (fun k => nfImage o.nfb (o.wordCode B k j)))
def MatOp.reserved (o : MatOp) (B : Block) : Nat :=
  if o.nfa != 3 then 0
  else (List.range (o.mg * o.kg)).foldl (fun a n => if o.planes B (n / o.kg) (n % o.kg) == 2 then a + 1 else a) 0

/-- Block sums of every element, row by row. -/
def MatOp.sums (o : MatOp) (B : Block) : List (List (Int × Nat × Nat)) :=
  let cols := o.colsB B
  (o.rowsA B).flatMap (fun a => cols.map (blockSums a))

/-- A MATX into registers (07 R147). -/
def runMatx (o : MatOp) (B : Block) : Block × MatStat :=
  let tA := (tensorScale (recTscale o.recA)).getD ⟨1, 1⟩
  let tB := (tensorScale (recTscale o.recB)).getD ⟨1, 1⟩
  let ts := (roundTo .f32 .rne false ⟨tA.n * tB.n, tA.d * tB.d⟩).1
  (o.sums B).zipIdx.foldl (fun (acc : Block × MatStat) se =>
    let (t, reg) := elemPlace B.tb o.abase se.2
    let dir := o.dir (Rnd.ofCode o.rndCode) B.triad se.2
    let m := B.member t
    let before := (List.range (if B.triad then 3 else 1)).map (fun p =>
      if o.init == 0 then 0 else ((m.sibs.getD p Regs.zero).lane reg).toNat)
    let r := promoteAll (o.nfa == 0) ⟨1, 1⟩ dir se.1 before
    let r := if o.epi then
        { r with accs := r.accs.zipIdx.map (fun ap => (fmul .f32 (dir (o.kg / 8) ap.2) (fval .f32 ap.1) (fval .f32 ts)).1) }
      else r
    (writeAcc acc.1 t reg r.accs, acc.2.elem before r)) (B, { MatStat.zero with fmterr := o.reserved B, finite := true })

def CoreSt.slot (C : CoreSt) (n : Nat) : CofferSlot := SMap.get CofferSlot.empty C.coffer n
def setSlot (s : State) (c n : Nat) (v : CofferSlot) : State :=
  s.setCore c { s.core c with coffer := SMap.set CofferSlot.empty (s.core c).coffer n v }

/-- Another region's ACTIVE or POISONED slot (07 R155). -/
def CofferSlot.foreign (k : CofferSlot) (region : Nat) : Bool := k.state != 0 && k.region != region

/-- An EMPTY slot becomes ACTIVE under the issuer's loss exponent and region (07 R155). -/
def CofferSlot.activate (k : CofferSlot) (lossexp : W32) (region : Nat) : CofferSlot :=
  if k.state == 0 then { k with state := 1, exp := sextN lossexp.toNat 8, region := region, finite := true } else k

/-- A MATX into a Coffer slot (07 R156). -/
def runMatxCoffer (o : MatOp) (B : Block) (k : CofferSlot) : CofferSlot × MatStat :=
  let tA := (tensorScale (recTscale o.recA)).getD ⟨1, 1⟩
  let tB := (tensorScale (recTscale o.recB)).getD ⟨1, 1⟩
  let f := Q.shift ⟨tA.n * tB.n, tA.d * tB.d⟩ (k.exp - sextN o.lossexp.toNat 8)
  let (k, t) := (o.sums B).zipIdx.foldl (fun (acc : CofferSlot × MatStat) se =>
    let i := se.2 / o.ng
    let j := se.2 % o.ng
    let dir := o.dir (Rnd.ofCode o.rndCode) B.triad se.2
    let before := [(SMap.get 0 acc.1.elems (192 * i + j)).toNat]
    let r := promoteAll (o.nfa == 0) f (fun g _ => dir g 0) se.1 before
    ({ acc.1 with elems := SMap.set 0 acc.1.elems (192 * i + j) (BitVec.ofNat 32 (r.accs.headD 0)) }, acc.2.elem before r))
    (k, { MatStat.zero with fmterr := o.reserved B, finite := true })
  ({ k with finite := k.finite && t.finite }, t)

/-- End an operation that has left the queue: status in the parameter block of a MATX or FOLD, then the tag (07 R143, R150). -/
def matDone (s : State) (o : MatOp) (code : Nat) (t : MatStat) : State :=
  let st := t.record code
  let B := s.block o.blk
  let s := if o.pbOk && (o.kind == .matx || o.kind == .fold) then
      s.setBlock o.blk { B with spad := storeWrite B.spad (o.pbOff + 48) (leBytes 16 st.toNat) }
    else s
  tagDone s o.blk o.tag st

/-- Take an operation out of its queue. -/
def dequeueMat (s : State) (c idx : Nat) : State :=
  s.setCore c { s.core c with matq := (s.core c).matq.eraseIdx idx }

/-- The MATRIX_STRICT cause of a completed MATX, on its issuer or the lowest live member (07 R151). -/
def strictCause (s : State) (o : MatOp) : State :=
  let B := s.block o.blk
  let target := if (B.member o.mem).live then some o.mem else (B.members.find? (fun kv => kv.2.live)).map Prod.fst
  match target with
  | none => s
  | some i =>
    let m := B.member i
    holdCause s o.blk i { cause := .matrixStrict, fcode := 0, addr := 0, pc := o.pc, icount := o.icount, words := o.words,
                          micro := 0xFF, tag := o.tag, quarter := m.quarter, lanes := m.laneMask, done := 0, mems := [i] }

/-- An operation accepted on an EMPTY slot makes it ACTIVE, also one that then completes without computing (07 R155;
notes/assumptions/103.md). -/
def activateSlot (s : State) (c : Nat) (o : MatOp) : State :=
  if o.slot == 0xFFFF then s else setSlot s c o.slot (((s.core c).slot o.slot).activate o.lossexp (s.block o.blk).region)

/-- Log entries of a MATX that accumulates into registers: one for each register of every member and sibling (20 R363). -/
def MatOp.entries (o : MatOp) (B : Block) : Nat := B.members.foldl (fun n kv => n + o.rused * kv.2.nsib) 0

/-- Room in the log of its block's course for a MATX that writes registers (20 R362; notes/assumptions/13.md). -/
def logMatx (s : State) (o : MatOp) : State := if o.ownsRegs then logSpace s o.blk (o.entries (s.block o.blk)) else s

/-- Complete a MATX that has left the queue of core `c` (07 R146 to R151, R156); what its parameters refuse goes before its slot's region, and
that before the slot's state (notes/assumptions/128.md). -/
def completeMatx (s : State) (c : Nat) (o : MatOp) : State :=
  let B := s.block o.blk
  match o.refused B.spadSize with
  | some code => matDone (activateSlot s c o) o code MatStat.zero
  | none =>
    if o.slot == 0xFFFF then
      let (B, t) := runMatx o B
      let bad := o.strict && t.satcnt != 0
      let s := matDone (s.setBlock o.blk B) o (if bad then mcNumeric else mcOk) t
      if bad then strictCause s o else s
    else
      let k := (s.core c).slot o.slot
      if k.foreign B.region then matDone s o mcSlotRegion MatStat.zero
      else if k.state == 2 then matDone s o mcPoisoned MatStat.zero
      else
        let (k, t) := runMatxCoffer o B (k.activate o.lossexp B.region)
        let bad := o.strict && t.satcnt != 0
        let s := matDone (setSlot s c o.slot k) o (if bad then mcNumeric else mcOk) t
        if bad then strictCause s o else s

/-- Complete queue entry `idx` of a kind, when no earlier entry shares anything with it that either changes (07 R142). -/
def completeEntry (s : State) (c idx : Nat) (kind : MatKind) (f : State → MatOp → State) : State :=
  match (s.core c).matq[idx]? with
  | none => s
  | some o =>
    if o.kind == kind && ((s.core c).matq.take idx).all (fun p => !p.conflicts o) then f s o else s

/-- MATX_COMPLETE (07 R142, R143). -/
def execMatxComplete (core idx : Nat) (s : State) : Result :=
  .next (completeEntry s core idx .matx (fun s o => courseCheck (completeMatx (dequeueMat (logMatx { s with reqs := [] } o) core idx) core o) o.blk))

/-- What an operation captures at acceptance from its issuer (07 R142, R145, R155, R160; 12 R240). -/
def MatOp.base (s : State) (kind : MatKind) (b i tag : Nat) (x : Ext) (major : Nat) : MatOp :=
  let B := s.block b
  let m := B.member i
  { kind := kind, blk := b, mem := i, tag := tag, pbOff := 0, pbOk := false, pb := [], slot := 0xFFFF, rnd := x.rnd, recA := 0,
    recB := 0, shape := ShapeReg.zero, seed := m.first.ctl64 4, lossexp := m.first.ctl 12, digest := m.first.ctl64 6,
    tid := BitVec.ofNat 64 (B.tid i), icount := m.icount, pc := m.pc, words := instrBytes major x, alpha := 0, cond := false,
    condTrue := false, wfmt := 0, since := s.reft.toNat, ran := 0 }

/-- Accept an operation: the queue has room, the tag is cleared (07 R142, R143). -/
def acceptMat (s : State) (o : MatOp) : State :=
  let c := (s.block o.blk).core
  tagClear (s.setCore c { s.core c with matq := (s.core c).matq ++ [o] }) o.blk o.tag

def matRoom (s : State) (b : Nat) : Bool := decide ((s.core (s.block b).core).matq.length < 16)

/-- MATX (07 R142 to R145). -/
def execMatx (x : Ext) (s : State) : Result :=
  onceRun x 49 { reads := [(false, opA x), noRead, noRead, noRead], steer := [0] } false noDest (fun l s =>
    let B := s.block l.b
    if B.tagN ≤ x.d % 64 then (s, .fault (fltOf .tagRange 0))
    else match regrantFlt B x.b with
      | some f => (s, .fault f)
      | none =>
        if !matRoom s l.b then (s, .notReady)
        else
          let off := medianBy unsignedV (l.src 0)
          let (ok, pb) := paramBlock s l.b off 48 64
          let ctl := fieldAt pb 0 4
          let (s, h) := useShape s l.b l.i x.b
          let (s, ra) := if ok then useBuffer s l.b l.i (bitsAt ctl 17 5) else (s, 0)
          let (s, rb) := if ok then useBuffer s l.b l.i (bitsAt ctl 22 5) else (s, 0)
          let o := { MatOp.base s .matx l.b l.i (x.d % 64) x 49 with
                     pbOff := off, pbOk := ok, pb := pb, shape := h, recA := ra, recB := rb
                     slot := if ok && bitN ctl 13 then bitsAt ctl 14 2 else 0xFFFF }
          (acceptMat s o, .done [])) s
def execMatxBase (x : Base) (s : State) : Result := execMatx (Base.toExt 49 x) s

/-- MSTAT (07 R152). -/
def execMstat (x : Ext) (s : State) : Result :=
  drainRun x 49 false { reads := [], steer := [] } true (fun _ _ v => stringOuts x.d 4 v) (fun l s =>
    let B := s.block l.b
    let tag := x.a % 64
    if B.tagN ≤ tag then (s, .fault (fltOf .tagRange 0))
    else if tagBusy s l.b tag then (s, .notReady)
    else (s, .done (List.replicate l.m.nsib (SMap.get 0 B.tagStat tag).toNat))) s
where
  stringOuts (n k v : Nat) : List Out := (List.range k).map (fun i => .reg (n + i) (BitVec.ofNat 32 (v / 2 ^ (32 * i))))

/-- CFZERO (07 R142, R157). -/
def execCfzero (x : Ext) (s : State) : Result :=
  onceRun x 50 { reads := [], steer := [] } false noDest (fun l s =>
    if (s.block l.b).tagN ≤ x.d % 64 then (s, .fault (fltOf .tagRange 0))
    else if !matRoom s l.b then (s, .notReady)
    else (acceptMat s { MatOp.base s .cfzero l.b l.i (x.d % 64) x 50 with slot := x.imm % 4 }, .done [])) s
def execCfzeroBase (x : Base) (s : State) : Result := execCfzero (Base.toExt 50 x) s

/-- A slot after CFZERO or DRAIN: all +0, EMPTY, FINITE 1 (07 R157, R160). -/
def CofferSlot.clear (k : CofferSlot) : CofferSlot := { k with elems := [], state := 0, finite := true }

/-- CFZERO_COMPLETE (07 R155, R157). -/
def execCfzeroComplete (core idx : Nat) (s : State) : Result :=
  .next (completeEntry s core idx .cfzero (fun s o =>
    let s := dequeueMat s core idx
    let k := (s.core core).slot o.slot
    if k.foreign (s.block o.blk).region then matDone s o mcSlotRegion MatStat.zero
    else matDone (setSlot s core o.slot k.clear) o mcOk { MatStat.zero with finite := true }))

/-- The status word of a slot (07 R153). -/
def CofferSlot.status (k : CofferSlot) : Nat :=
  k.region % 2 ^ 16 + wrapN k.exp 8 * 2 ^ 16 + boolN k.finite * 2 ^ 29 + k.state % 4 * 2 ^ 30

/-- CFREAD (07 R155, R157): each sibling's own index; not ready while an operation on the slot is in flight. -/
def execCfread (x : Ext) (s : State) : Result :=
  let stat := x.mod == 1
  drainRun x 50 false { reads := [if stat then noRead else (false, .lane x.a), noRead, noRead, noRead], steer := [] } true
    (fun _ _ v => [.reg x.d (BitVec.ofNat 32 v)]) (fun l s =>
    let B := s.block l.b
    let C := s.core B.core
    let k := C.slot (x.imm % 4)
    if C.matq.any (fun o => o.slot == x.imm % 4) then (s, .notReady)
    else
      let read (a : Nat) : Nat :=
        if k.foreign B.region then 0
        else if stat then k.status
        else if 36864 ≤ a % 2 ^ 16 then 0
        else if k.state == 2 then Fmt.nanBits .f32
        else (SMap.get 0 k.elems (a % 2 ^ 16)).toNat
      (s, .done ((l.src 0).map read))) s

/-- FOLD (07 R142, R158). -/
def execFold (x : Ext) (s : State) : Result :=
  onceRun x 50 { reads := [(false, opA x), noRead, noRead, noRead], steer := [0] } false noDest (fun l s =>
    if (s.block l.b).tagN ≤ x.d % 64 then (s, .fault (fltOf .tagRange 0))
    else if !matRoom s l.b then (s, .notReady)
    else
      let off := medianBy unsignedV (l.src 0)
      let (ok, pb) := paramBlock s l.b off 48 64
      (acceptMat s { MatOp.base s .fold l.b l.i (x.d % 64) x 50 with
                     pbOff := off, pbOk := ok, pb := pb, slot := x.imm % 4 }, .done [])) s

/-- A record of a Trowel log: its offset and header fields (07 R158). -/
structure TrowelRec where
  off : Nat
  src : Nat
  epoch : Nat
  rows : Nat
  cols : Nat
  exp : Int
  finite : Bool
  deriving DecidableEq, Repr

def TrowelRec.of (off : Nat) (h : List Byte) : TrowelRec :=
  { off := off, src := fieldAt h 0 4, epoch := fieldAt h 4 4, rows := fieldAt h 8 2, cols := fieldAt h 10 2
    exp := sextN (fieldAt h 12 1) 8, finite := bitN (fieldAt h 13 1) 0 }

/-- Bytes of a record: header and elements padded to 64 (07 R158). -/
def TrowelRec.size (t : TrowelRec) : Nat := 64 + 64 * ceilDiv (4 * t.rows * t.cols) 64

/-- What a scan of the log holds: kept records, foreign epochs and duplicates (07 R159). -/
structure TrowelScan where
  kept : List TrowelRec
  foreign : Nat
  dups : Nat
  deriving DecidableEq, Repr

/-- Scan headers until one is not VALID or LOGLEN is reached (07 R159). -/
def trowelScan (w : Who) (blk base len epoch : Nat) : Nat → Nat → TrowelScan → State → State × Except Flt TrowelScan
  | 0, _, t, s => (s, .ok t)
  | fuel + 1, off, t, s =>
    if len ≤ off then (s, .ok t)
    else match engineRead s w (some blk) (base + off : Nat) 64 with
      | (s, .error f) => (s, .error f)
      | (s, .ok h) =>
        if !bitN (fieldAt h 15 1) 7 then (s, .ok t)
        else
          let r := TrowelRec.of off h
          let t := if r.epoch != epoch then { t with foreign := t.foreign + 1 }
            else if t.kept.any (fun k => k.src == r.src) then { t with dups := t.dups + 1 }
            else { t with kept := t.kept ++ [r] }
          trowelScan w blk base len epoch fuel (off + r.size) t s

/-- Records in increasing SRC. -/
def srcInsert (r : TrowelRec) : List TrowelRec → List TrowelRec
  | [] => [r]
  | k :: t => if r.src ≤ k.src then r :: k :: t else k :: srcInsert r t
def bySrc (rs : List TrowelRec) : List TrowelRec := rs.foldl (fun a r => srcInsert r a) []

/-- Multiply an f32 value by a power of two exactly; a value outside the range becomes infinite (07 R159). -/
def shiftVal (v : FV) (e : Int) : FV × Bool :=
  match v with
  | .fin n q =>
    let p := q.shift e
    if !q.zero && decide (128 ≤ p.ilogb) then (.inf n, true) else (.fin n p, false)
  | v => (v, false)

/-- Fold one element (07 R159). -/
def foldElem (m : Mode) (acc x : Nat) (e : Int) : Nat × Bool :=
  let (g, ovfl) := shiftVal (fval .f32 x) e
  let r := (fadd .f32 m (fval .f32 acc) g).1
  (r, ovfl || (isInf32 r && !isInf32 acc && !isNan32 acc && !(fval .f32 x).isInf))

/-- Fold one record's elements into a slot; `n` counts the kept records (07 R159). -/
def foldRecord (o : MatOp) (triad : Bool) (k : CofferSlot) (t : MatStat) (r : TrowelRec) (n : Nat) (bs : List Byte) :
    CofferSlot × MatStat :=
  let (k, t) := (List.range (r.rows * r.cols)).foldl (fun (a : CofferSlot × MatStat) c =>
    let e := 192 * (c / r.cols) + c % r.cols
    let m := rndMode o.rnd (if triad then some (bitN (onceDraw o.seed.toNat o.tid.toNat o.icount.toNat e n) 0) else none)
    let (v, ovfl) := foldElem m (SMap.get 0 a.1.elems e).toNat (fieldAt bs (4 * c) 4) (k.exp - r.exp)
    ({ a.1 with elems := SMap.set 0 a.1.elems e (BitVec.ofNat 32 v) },
     { a.2 with ovf := a.2.ovf + boolN ovfl, finite := a.2.finite && !isNan32 v && !isInf32 v })) (k, t)
  ({ k with finite := k.finite && t.finite && r.finite }, { t with satcnt := t.satcnt + 1 })

/-- Read the elements of the kept records. -/
def readRecords (w : Who) (blk base : Nat) : List TrowelRec → State → State × Except Flt (List (TrowelRec × List Byte))
  | [], s => (s, .ok [])
  | r :: rs, s =>
    match engineRead s w (some blk) (base + r.off + 64 : Nat) (4 * r.rows * r.cols) with
    | (s, .error f) => (s, .error f)
    | (s, .ok bs) =>
      match readRecords w blk base rs s with
      | (s, .error f) => (s, .error f)
      | (s, .ok l) => (s, .ok ((r, bs) :: l))

/-- Parameters of a FOLD (07 R158). -/
def MatOp.logBase (o : MatOp) : Nat := fieldAt o.pb 0 8
def MatOp.logLen (o : MatOp) : Nat := fieldAt o.pb 8 4
def MatOp.nsrc (o : MatOp) : Nat := fieldAt o.pb 16 4
def MatOp.foldOk (o : MatOp) : Bool :=
  o.pbOk && decide (o.logBase < 2 ^ 57) && o.logBase % 64 == 0 && o.logLen % 64 == 0 && o.nsrc != 0 &&
    (o.pb.drop 24).all (fun b => b == 0)

/-- The master of the Trowel's and the drain's accesses (18 R321). -/
def matWho (s : State) (o : MatOp) : Who := { engineOf (s.block o.blk) 0 with priv := false }

/-- One attempt at a FOLD: none while it must wait for sources; otherwise its CODE, the slot and the counters (07 R159). Its parameters are
checked first, then the slot's region, then its state, then the sources (notes/assumptions/128.md). -/
def tryFold (s : State) (c : Nat) (o : MatOp) : State × Option (Nat × CofferSlot × MatStat) :=
  let B := s.block o.blk
  let k := (s.core c).slot o.slot
  if !o.foldOk then (s, some (mcFormat, k, MatStat.zero))
  else if k.foreign B.region then (s, some (mcSlotRegion, k, MatStat.zero))
  else if k.state == 2 then (s, some (mcPoisoned, k, MatStat.zero))
  else match trowelScan (matWho s o) o.blk o.logBase o.logLen (fieldAt o.pb 12 4) (o.logLen / 64 + 1) 0
      { kept := [], foreign := 0, dups := 0 } s with
    | (s, .error _) => (s, some (mcAccess, k, MatStat.zero))
    | (s, .ok t) =>
      if t.kept.length < o.nsrc then (s, none)
      else if t.kept.any (fun r => r.rows == 0 || decide (192 < r.rows) || r.cols == 0 || decide (192 < r.cols) ||
          decide (o.logLen < r.off + r.size)) then (s, some (mcFormat, k, MatStat.zero))
      else match readRecords (matWho s o) o.blk o.logBase ((bySrc t.kept).take o.nsrc) s with
        | (s, .error _) => (s, some (mcAccess, k, MatStat.zero))
        | (s, .ok rs) =>
          let (k, st) := rs.zipIdx.foldl (fun (a : CofferSlot × MatStat) rn => foldRecord o B.triad a.1 a.2 rn.1.1 rn.2 rn.1.2)
            (k.activate o.lossexp B.region, { MatStat.zero with nanc := t.foreign, fmterr := t.dups, finite := true })
          (s, some (mcOk, k, st))

/-- FOLD_COMPLETE: the sources are held, or the operation cannot proceed (07 R159). -/
def execFoldComplete (core idx : Nat) (s : State) : Result :=
  .next (completeEntry s core idx .fold (fun s o =>
    match tryFold { s with reqs := [] } core o with
    | (_, none) => s
    | (s, some (code, k, t)) =>
      let s := sampleEngine s (s.block o.blk) o.pc
      let s := dequeueMat s core idx
      matDone (if code == mcOk then setSlot s core o.slot k else s) o code t))

/-- FOLD_TIMEOUT: TIMEOUT µs have passed and the sources are not held (07 R159). -/
def execFoldTimeout (core idx : Nat) (s : State) : Result :=
  .next (completeEntry s core idx .fold (fun s o =>
    let t := fieldAt o.pb 20 4
    match tryFold { s with reqs := [] } core o with
    | (_, some _) => s
    | (u, none) =>
      if t != 0 && decide (o.since + 1000 * t ≤ s.reft.toNat) then
        matDone (dequeueMat (sampleEngine u (u.block o.blk) o.pc) core idx) o mcIncomplete MatStat.zero
      else s))

/-- DRAIN (07 R142, R160); the α of a triad is the median, and raises no STEER (notes/assumptions/43.md). -/
def execDrain (x : Ext) (s : State) : Result :=
  onceRun x 50 { reads := [(false, opA x), noRead, (false, .pred x.c), noRead], steer := [] } false noDest (fun l s =>
    if (s.block l.b).tagN ≤ x.d % 64 then (s, .fault (fltOf .tagRange 0))
    else if !matRoom s l.b then (s, .notReady)
    else
      let (s, r) := useBuffer s l.b l.i x.b
      (acceptMat s { MatOp.base s .drain l.b l.i (x.d % 64) x 50 with
                     slot := x.imm % 4, recA := r, alpha := BitVec.ofNat 32 (medianBy unsignedV (l.src 0)), cond := x.m0
                     condTrue := majority ((l.src 2).map (fun v => v != 0)), wfmt := x.imm / 4 % 8 }, .done [])) s

/-- Weight formats of DRAIN (07 R141). -/
def drainFmt (n : Nat) : Fmt := if n == 0 then .f32 else if n == 1 then .bf16 else .f16

/-- The new weight: W + α × slot × 2^(-EXP), exact, one rounding (07 R160, 05 R114). -/
def drainWeight (f : Fmt) (o : MatOp) (e : Int) (n wt slot : Nat) : Nat :=
  let w := fval f wt
  let a := fval .f32 o.alpha.toNat
  let k := fval .f32 slot
  let k' : FV := match k with
    | .fin g q => .fin g (q.shift (-e))
    | v => v
  match w, a, k', o.rnd with
  | .fin _ _, .fin _ _, .fin _ _, .draw =>
    let p := a.sq.mul k'.sq
    let v := w.sq.add p
    if v.isZero then signOf f (zeroSumNeg ⟨.rne, false⟩ w.sq p)
    else roundStoch f (draw o.seed.toNat n (o.icount.toNat % 2 ^ 32)) v
  | _, _, _, r => (ffma f (rndMode r none) a k' w).1

/-- Apply a slot to the weights (07 R160): how many overflowed, and the fault that stopped it. -/
def drainWrite (s : State) (o : MatOp) (k : CofferSlot) : State × Nat × Option Flt :=
  let f := drainFmt o.wfmt
  let w := f.width / 8
  let rows := min 192 (recExt1 o.recA)
  let cols := min 192 (recExt0 o.recA)
  let who := matWho s o
  (List.range (rows * cols)).foldl (fun (acc : State × Nat × Option Flt) c =>
    match acc.2.2 with
    | some _ => acc
    | none =>
      let i := c / cols
      let j := c % cols
      let a : Int := (recBase o.recA : Int) + i * recStride1 o.recA + (j * w : Nat)
      match engineRead acc.1 who (some o.blk) a w with
      | (s, .error f) => (s, acc.2.1, some f)
      | (s, .ok bs) =>
        let x := (SMap.get 0 k.elems (192 * i + j)).toNat
        let v := drainWeight f o k.exp (192 * i + j) (leNat bs) x
        let ovfl := (fval f v).isInf && !(fval f (leNat bs)).isInf && !(fval f (leNat bs)).isNan && !isInf32 x && !isNan32 x
        match engineWrite s who (some o.blk) (some (o.digest.toNat, f.prec)) a.toNat (leBytes w v) with
        | (s, _, some f) => (s, acc.2.1 + boolN ovfl, some f)
        | (s, _, none) => (s, acc.2.1 + boolN ovfl, none)) (s, 0, none)

/-- DRAIN_COMPLETE (07 R160). -/
def execDrainComplete (core idx : Nat) (s : State) : Result :=
  .next (completeEntry s core idx .drain (fun s o =>
    let s := { dequeueMat s core idx with reqs := [] }
    let k := (s.core core).slot o.slot
    let st := { MatStat.zero with finite := k.finite }
    if k.foreign (s.block o.blk).region then matDone s o mcSlotRegion MatStat.zero
    else if k.state == 2 then matDone s o mcPoisoned MatStat.zero
    else if !o.cond || (o.condTrue && k.finite) then
      let (s, ovf, bad) := drainWrite s o k
      let s := sampleEngine s (s.block o.blk) o.pc
      match bad with
      | some _ => matDone s o mcAccess { st with ovf := ovf }
      | none => matDone (setSlot s core o.slot k.clear) o mcOk { st with ovf := ovf }
    else matDone (setSlot s core o.slot k.clear) o mcSkipped st))

/-- Sizes of an expansion: N columns (07 R163). -/
def mqCols (x : Ext) : Nat := if x.minor == 0 then 4 else 8

/-- Accumulator registers of an expansion. -/
def mqRegs (x : Ext) : List Nat := (List.range (4 * mqCols x)).map (fun e => x.d + e)

/-- MQ16 and MQ32: the expansion begins at micro-step 0, also when it restarts (02 R42, R43; 07 R163). -/
def mqStart (x : Ext) (s : State) : Result :=
  memRun x 53 { reads := [(false, .lane x.a), (false, .lane x.b), noRead, noRead], steer := [0, 1], more := mqRegs x } false noDest
    (fun l s => (s, .wait (.mq 0 (medianBy unsignedV (l.src 0)) (medianBy unsignedV (l.src 1)) []))) s
def execMq16 (x : Ext) (s : State) : Result := mqStart x s
def execMq16Base (x : Base) (s : State) : Result := execMq16 (Base.toExt 53 x) s
def execMq32 (x : Ext) (s : State) : Result := mqStart x s

/-- Read a tile of an expansion: the checks of LDS, four bytes at a time (07 R163). -/
def mqTile (s : State) (b off n : Nat) : Except Flt (List Nat) :=
  if off % 4 != 0 || decide (spadSizeOf s b < off + n) then
    match spadOff (spadSizeOf s b) off 4 with
    | .error f => .error f
    | .ok _ => .error (fltOf .addrRange (spadSizeOf s b + spadWin))
  else .ok ((spadRead s b off n).map BitVec.toNat)

/-- Row `i` of every sibling's result, appended to the temporaries (06 R137, 07 R163). Temporaries hold 64 bytes of A, 16 × N of B and
the rows so far, N values for each sibling. -/
def mqRow (B : Block) (i : Nat) (m : Member) (x : Ext) (row : Nat) (tmp : List Nat) : List Nat :=
  let n := mqCols x
  let byte (k : Nat) : Int := sextN (tmp.getD k 0) 8
  let sums (j : Nat) : List (Int × Nat × Nat) := (List.range 2).map (fun kb =>
    ((List.range 8).foldl (fun a t => a + byte (16 * row + 8 * kb + t) * byte (64 + n * (8 * kb + t) + j)) 0, 127, 127))
  tmp ++ m.sibs.zipIdx.flatMap (fun rp => (List.range n).map (fun j =>
    let e := n * row + j
    let dir (g : Nat) (_ : Nat) : Mode := rndMode x.rnd (if B.triad then
      some (bitN (onceDraw (m.first.ctl64 4).toNat (B.tid i) m.icount.toNat e g) rp.2) else none)
    (promoteAll false ⟨1, 1⟩ dir (sums j) [(rp.1.lane (x.d + e)).toNat]).accs.headD 0))

/-- The results of sibling `p` as one bit string (07 R163). -/
def mqResult (x : Ext) (nsib p : Nat) (tmp : List Nat) : Nat :=
  let n := mqCols x
  (List.range (4 * n)).foldl (fun a e => a + tmp.getD (64 + 16 * n + (e / n * nsib + p) * n + e % n) 0 * 2 ^ (32 * e)) 0

/-- One micro-step of one member that is no last step: its new wait, or a fault (02 R42, 07 R163). -/
def mqMicro (s : State) (b i : Nat) (x : Ext) (step offA offB : Nat) (tmp : List Nat) : Except Flt WaitKind :=
  match step with
  | 0 => (mqTile s b offA 64).map (fun bs => .mq 1 offA offB bs)
  | 1 => (mqTile s b offB (16 * mqCols x)).map (fun bs => .mq 2 offA offB (tmp ++ bs))
  | k => .ok (.mq (k + 1) offA offB (mqRow (s.block b) i (s.member b i) x (k - 2) tmp))

/-- MICRO_STEP: one micro-step of the expansion of a member and of the members of its issue (02 R42, R43; 07 R163). -/
def execMicroStep (blk mem : Nat) (s : State) : Result :=
  .next (
    let B := s.block blk
    match (B.member mem).wait, (B.member mem).cap with
    | some (.mq step _ _ _), some c =>
      if B.state != .running then s
      else
        let ms := (replayMembers B c.seq).filter (fun j => match (B.member j).wait with | some (.mq _ _ _ _) => true | _ => false)
        if step == 6 then
          let s0 := { s with reqs := [] }
          let a := ms.foldl (fun a j =>
            match (B.member j).wait with
            | some (.mq _ _ _ tmp) =>
              let vals := (List.range (B.member j).nsib).map (fun p => mqResult c.x (B.member j).nsib p tmp)
              let srcs := c.x
              let ev := steerEvent [((B.member j).cap.map (fun c => c.srcs.map (fun v => (v.getD 0 0).toNat))).getD [],
                                    ((B.member j).cap.map (fun c => c.srcs.map (fun v => (v.getD 1 0).toNat))).getD []]
              memComplete srcs 53 false (fun _ _ v => [stringRegs c.x.d (4 * mqCols c.x) v]) blk a (j, vals, ev)
            | _ => a) (Acc.start s0)
          afterIssue s0 (a.finish blk ms) blk ms
        else
          let r := ms.foldl (fun (acc : State × List (Nat × Flt)) j =>
            match (B.member j).wait with
            | some (.mq k offA offB tmp) =>
              match mqMicro s blk j c.x k offA offB tmp with
              | .ok w => (acc.1.setMember blk j { acc.1.member blk j with wait := some w }, acc.2)
              | .error f => (acc.1, acc.2 ++ [(j, f)])
            | _ => acc) (s, [])
          match r.2 with
          | [] => r.1
          | (j, f) :: _ =>
            let t := groupTrap B c.x c.major [] ms j f
            takeTrap s blk { t with micro := step, mems := r.2.map Prod.fst ++ ms.filter (fun k => !(r.2.map Prod.fst).contains k) }
    | _, _ => s)

/-- A member whose expansion the reset discards: canonical NaN accumulators, NV, the next instruction (19 R356). -/
def mqAbort (s : State) (b i : Nat) : State :=
  let m := s.member b i
  match m.wait, m.cap with
  | some (.mq _ _ _ _), some c =>
    let nan := .regs ((mqRegs c.x).map (fun n => (n, BitVec.ofNat 32 (Fmt.nanBits .f32))))
    let sibs := m.sibs.map (fun r => (r.setCtl 0 (r.ctl 0 ||| BitVec.ofNat 32 flNV)).writeAll [nan])
    traceJoins (((Acc.start s).retire b i c.x c.major { m with sibs := sibs } (nextPc m.pc c.x.len)).finish b [i]) b [i]
  | _, _ => s

/-- An operation that a reset ends: its registers become NaN, its slot POISONED, its tag set (07 R161). -/
def abortMat (s : State) (c : Nat) (o : MatOp) : State :=
  let s := if o.ownsRegs then
      let s := logMatx s o
      let B := s.block o.blk
      s.setBlock o.blk (B.members.foldl (fun (B : Block) kv => (List.range o.rused).foldl (fun (B : Block) n =>
        writeAcc B kv.1 (o.abase + n) (List.replicate (B.member kv.1).nsib (Fmt.nanBits .f32))) B) B)
    else if o.slot == 0xFFFF then s
    else
      let k := (s.core c).slot o.slot
      let r := (s.block o.blk).region
      let k := if k.foreign r then k
        else if o.kind == .matx || o.kind == .fold then k.activate o.lossexp r else { k with region := r }
      setSlot s c o.slot { k with state := 2 }
  matDone s o mcAborted MatStat.zero

/-- A reset of the matrix engine of core `c` (07 R161, 19 R356). -/
def matReset (s : State) (c : Nat) : State :=
  let q := (s.core c).matq
  let s := q.foldl (fun s o => abortMat s c o) (s.setCore c { s.core c with matq := [] })
  s.blocks.foldl (fun s kv =>
    if kv.2.core == c && kv.2.state == .running then kv.2.members.foldl (fun s mv => mqAbort s kv.1 mv.1) s else s) s

/-- An instruction that only a handler may issue: elsewhere ILLEGAL_INSTRUCTION, whatever the guard (02 R38, 07 R161, 19 R350). -/
def handlerOnly (x : Ext) (major : Nat) (f : State → Result) (s : State) : Result :=
  match s.cur with
  | none => .fault .noIssue
  | some is =>
    if (s.block is.blk).handler.isSome then f s
    else .next (fetchTrap s is (instrBytes major x) { cause := .illegalInstruction, fcode := 0, addr := 0 })

/-- MRESET (07 R161). -/
def execMreset (x : Ext) (s : State) : Result :=
  handlerOnly x 49 (fun s =>
    drainRun x 49 true { reads := [], steer := [] } false noDest (fun l s => (matReset s (s.block l.b).core, .done [])) s) s

/-- The operation that executes on the array: the first that neither shares anything with an earlier one nor is a FOLD that waits for its
sources (07 R142, R159, R161). `before` holds the earlier ones. -/
def onArray (s : State) (c : Nat) (before : List MatOp) : List MatOp → Option Nat
  | [] => none
  | o :: r =>
    if before.all (fun p => !p.conflicts o) && !(o.kind == .fold && (tryFold s c o).2.isNone) then some before.length
    else onArray s c (before ++ [o]) r

/-- `n` core cycles of the array: they count for the operation that executes (07 R161). -/
def tickMat (s : State) (c n : Nat) : CoreSt :=
  let C := s.core c
  match onArray s c [] C.matq with
  | none => C
  | some k => { C with matq := C.matq.modify k (fun o => { o with ran := o.ran + n }) }

/-- The cycles for which the operation on the array has executed (07 R161). -/
def matRan (s : State) (c : Nat) : Nat :=
  match onArray s c [] (s.core c).matq with
  | none => 0
  | some k => (((s.core c).matq[k]?).map MatOp.ran).getD 0

/-- MATRIX_WATCHDOG: an operation has executed for 1,048,576 core cycles (07 R161). -/
def execMatrixWatchdog (core : Nat) (s : State) : Result :=
  .next (if (s.core core).matq.any (fun o => decide (2 ^ 20 ≤ o.ran)) then matReset s core else s)

end Sys2Proof.Machine
end

