-- ==== Sys2Proof/Machine/System.lean ====
section
/-!
DEFINITION. TRAP and BKPT, the instructions of a privileged handler, its time limit, and the privileged registers they share with
the host (spec 10 R197; 18 R314, R319, R333; 19 R348 to R355).
-/
namespace Sys2Proof.Machine

/-- TRAP and BKPT of one member: it retires, then raises its cause (19 R351). -/
def trapStep (x : Ext) (cause : Cause) (b : Nat) (a : Acc) (i : Nat) : Acc :=
  let m := (a.s.block b).member i
  let pc := nextPc m.pc x.len
  if undersized m (guardRegs x) then a.raise (trapOf m i 61 x stallFault)
  else if !m.guard x then a.retire b i x 61 m pc
  else
    let a := a.retire b i x 61 m pc
    { a with after := a.after ++ [(i, trapOf m i 61 x { cause := cause, fcode := x.imm % 2 ^ 16, addr := 0 })] }

/-- TRAP (19 R351). -/
def execTrap (x : Ext) (s : State) : Result :=
  withIssue s fun is s => (is.mems.foldl (trapStep x .software is.blk) (Acc.start s)).finish is.blk is.mems
/-- The base form is TRAP #0 (19 R350). -/
def execTrapBase (x : Base) (s : State) : Result := execTrap (Base.toExt 61 x) s
/-- BKPT (19 R351). -/
def execBkpt (x : Ext) (s : State) : Result :=
  withIssue s fun is s => (is.mems.foldl (trapStep x .breakpoint is.blk) (Acc.start s)).finish is.blk is.mems

/-- The handler that a block is. -/
def handlerOf (s : State) (b : Nat) : Option Handler := (s.block b).handler

/-- RETT (19 R355). -/
def execRett (x : Ext) (s : State) : Result :=
  handlerOnly x 61 (fun s => withIssue s fun is s =>
    match handlerOf s is.blk with
    | some hd => returnTrap s is.blk hd
    | none => s) s

/-- DIEFAULT as read (18 R333). -/
def dieFault (s : State) (d : Nat) : Nat :=
  let D := s.die d
  let cores := (List.range 64).map (fun c => 64 * d + c)
  let rows := cores.foldl (fun a c => a + (s.core c).rowsFenced.length) 0
  let dead := D.fencedCompute || D.fencedFull
  let n := (cores.filter (fun c => dead || (s.core c).fenced)).length
  let ports := (List.range 16).foldl (fun a i => a + boolN (s.port (16 * d + i)).fenced * 2 ^ i) 0
  n + boolN D.lost * 2 ^ 16 + boolN dead * 2 ^ 17 + rows % 2 ^ 14 * 2 ^ 18 + ports * 2 ^ 32 + D.portFail % 2 ^ 16 * 2 ^ 48

/-- A write of DIEFAULT clears PORTFAIL bits and LOST where it holds 1 (18 R333). -/
def clearDieFault (s : State) (d : Nat) (v : Nat) : State :=
  let D := s.die d
  s.setDie d { D with portFail := D.portFail - (D.portFail &&& bitsAt v 48 16), lost := D.lost && !bitN v 16 }

/-- CNTCTL (10 R197): CLEAR, then FREEZE; a write with a reserved bit is ignored. -/
def clearCounters (s : State) (d : Nat) : State := s.setDie d { s.die d with counters := [] }
def freezeCounters (s : State) (d : Nat) (f : Bool) : State := s.setDie d { s.die d with freeze := f }
def writeCntctl (s : State) (d v : Nat) : State :=
  if v / 4 != 0 then s else freezeCounters (if bitN v 1 then clearCounters s d else s) d (bitN v 0)

/-- A register that a die page and a handler's FRD share: counters, CNTCTL, DIEFAULT (18 R334, 19 R352). -/
def diePageRead (s : State) (d off : Nat) : Option Nat :=
  if off ≤ 0x30 then some (SMap.get 0 (s.die d).counters off).toNat
  else if off == 0x38 then some (boolN (s.die d).freeze)
  else if off == 0x100 then some (dieFault s d) else none
def diePageWrite (s : State) (d off v : Nat) : State :=
  if off == 0x38 then writeCntctl s d v else if off == 0x100 then clearDieFault s d v else s

/-- The address of FRD and FWR (19 R352). -/
def privAddr (x : Ext) (l : MemIn) : Nat := wrapN ((l.src 0).headD 0 + x.simm) 32

/-- A privileged register as FRD reads it (19 R352). HINFO is read from the frame. -/
def privRead (s : State) (b a : Nat) : State × Except Flt Nat :=
  match handlerOf s b with
  | none => (s, .error (fltOf .addrRange a))
  | some hd =>
    let B := s.block b
    if a % 8 != 0 then (s, .error (fltOf .misalignedAddr a))
    else if a == 0x10000 then (s, .ok hd.frame)
    else if a == 0x10008 then
      match readRange s (keystoneOf B.region (coreDie B.core)) hd.frame 8 with
      | (s, .error f) => (s, .error f)
      | (s, .ok bs) => (s, .ok (leNat bs))
    else if a == 0x10010 then (s, .ok (matRan s B.core))
    else if a < 0x4000 then
      match diePageRead s (a / 0x1000) (a % 0x1000) with
      | some v => (s, .ok v)
      | none => (s, .error (fltOf .addrRange a))
    else (s, .error (fltOf .addrRange a))

/-- FRD (19 R352). -/
def execFrd (x : Ext) (s : State) : Result :=
  handlerOnly x 61 (fun s => drainRun x 61 false { reads := [(false, .lane x.a)], steer := [] } false
    (fun _ _ v => [.pair x.d (BitVec.ofNat 64 v)]) (fun l s =>
      match privRead s l.b (privAddr x l) with
      | (s, .ok v) => (s, .done [v])
      | (s, .error f) => (s, .fault f)) s) s

/-- FWR (19 R352): a field's access code decides what the write does; read-only registers ignore it. -/
def execFwr (x : Ext) (s : State) : Result :=
  handlerOnly x 61 (fun s => drainRun x 61 false { reads := [(false, .lane x.a), (true, .lane x.b)], steer := [] } false noDest
    (fun l s =>
      let a := privAddr x l
      if a % 8 != 0 then (s, .fault (fltOf .misalignedAddr a))
      else if a == 0x10000 || a == 0x10008 || a == 0x10010 then (s, .done [])
      else if decide (a < 0x4000) && (diePageRead s (a / 0x1000) (a % 0x1000)).isSome then
        (diePageWrite s (a / 0x1000) (a % 0x1000) ((l.src 1).headD 0), .done [])
      else (s, .fault (fltOf .addrRange a))) s) s

/-- Whether GRPCTL selects a member: quarter, lane of one of its siblings, slot (19 R353). -/
def grpSelects (m : Member) (mask sel : Nat) : Bool :=
  m.live && m.quarter == sel % 4 && (List.range m.nsib).any (fun k => bitN mask (m.lane % 48 + k)) &&
    (bitsAt sel 4 4 == 0xF || bitsAt sel 4 4 == m.slot)

/-- A STATE byte after .hold, .release or .step (19 R344, R353). -/
def grpState (mod st : Nat) : Nat :=
  if mod == 0 then setBitN st 4
  else if mod == 1 then st - boolN (bitN st 4) * 16 - boolN (bitN st 5) * 32 else setBitN st 5

/-- Edit STATE bytes of thread records of a frame, first to last; stops at the first fault. -/
def grpEdit (w : Who) (frame mod : Nat) : List Nat → State → State × Option Flt
  | [], s => (s, none)
  | k :: r, s =>
    let a := frame + 2048 + 2048 * k + 787
    match readRange s w a 1 with
    | (s, .error f) => (s, some f)
    | (s, .ok bs) => match writeRange s w a (leBytes 1 (grpState mod (leNat bs))) with
      | (s, some f) => (s, some f)
      | (s, none) => grpEdit w frame mod r s

/-- GRPCTL (19 R353). -/
def execGrpctl (x : Ext) (s : State) : Result :=
  handlerOnly x 61 (fun s => drainRun x 61 false { reads := [(true, .lane x.a), (false, .lane x.b)], steer := [] } false noDest
    (fun l s =>
      match handlerOf s l.b with
      | none => (s, .fault (fltOf .illegalInstruction 0))
      | some hd => match hd.block with
        | none => (s, .fault (fltOf .illegalInstruction 0))
        | some b =>
          let B := s.block b
          let ks := B.members.flatMap (fun kv =>
            if grpSelects kv.2 ((l.src 0).headD 0) ((l.src 1).headD 0) then
              (if B.triad then [3 * kv.1, 3 * kv.1 + 1, 3 * kv.1 + 2] else [kv.1]) else [])
          match grpEdit (keystoneOf B.region (coreDie B.core)) hd.frame x.mod ks s with
          | (s, some f) => (s, .fault f)
          | (s, none) => (s, .done [])) s) s

/-- Whether an invalidation covers a TLB entry: of the whole region, or of a range (18 R319). -/
def tlbCovers (region : Nat) (range : Option (Nat × Nat)) (e : TlbEntry) : Bool :=
  e.region == region && (match range with
    | none => true
    | some (lo, n) => decide (e.va < lo + n) && decide (lo < e.va + e.size))

/-- An invalidation on every core and die (18 R319). One of the whole region lets a staged root take effect (18 R314). -/
def tlbInvalidate (s : State) (region : Nat) (range : Option (Nat × Nat)) : State :=
  let keep (t : List TlbEntry) : List TlbEntry := t.filter (fun e => !tlbCovers region range e)
  let s : State := { s with
    cores := s.cores.map (fun kv => (kv.1, { kv.2 with tlb := keep kv.2.tlb }))
    dies := s.dies.map (fun kv => (kv.1, { kv.2 with tlb2 := keep kv.2.tlb2 })) }
  match range, (s.region region).stagedRoot with
  | none, some root => s.setRegion region { s.region region with root := root, stagedRoot := none }
  | _, _ => s

/-- The range of `count` 64 KiB units from an address; a count of 0 is the whole region (18 R335, 19 R354). -/
def tlbRange (va count : Nat) : Option (Nat × Nat) := if count == 0 then none else some (va - va % 2 ^ 16, count * 2 ^ 16)

/-- TLBI (19 R354). -/
def execTlbi (x : Ext) (s : State) : Result :=
  handlerOnly x 61 (fun s => drainRun x 61 false
    { reads := if x.mod == 1 then [] else [(true, .lane x.a), (false, .lane x.b)], steer := [] } false noDest (fun l s =>
      (tlbInvalidate s (s.block l.b).region
        (if x.mod == 1 then none else tlbRange ((l.src 0).headD 0) ((l.src 1).headD 0)), .done [])) s) s

/-- HANDLER_LIMIT: a handler still running after HLIMIT µs; an asynchronous one has no grid that could end (19 R348). -/
def execHandlerLimit (blk : Nat) (s : State) : Result :=
  .next (match handlerOf s blk with
    | some hd =>
      let H := s.block blk
      let limit := (s.eff 4 H.region).hlimit
      if H.state == .ended || limit == 0 || decide (s.reft.toNat < hd.started + 1000 * limit) then s
      else
        let s := match hd.block with
          | some b => faultGrid s b codeHandlerLimit false hd.addr
          | none => discardBlock s blk
        frameFreed (freeFrame s H.region hd.frameIdx) H.region
    | none => s)

end Sys2Proof.Machine
end

