-- ==== Sys2Proof/Machine/Interlock.lean ====
section
/-!
DEFINITION. The registers that an instruction names, which the interlock looks at before it issues (spec 02 R34, 07 R148), and which
instructions are replay-class (19 R341).
-/
namespace Sys2Proof.Machine

/-- Operand positions of a word: D, A, B and C as lane registers or, under MOD, uniform ones (02 R27). -/
def dRegs (x : Ext) (wide : Bool) : List Nat := (Opnd.lane x.d).regs wide
def aRegs (x : Ext) (wide : Bool) : List Nat := (opA x).regs wide
def bRegs (x : Ext) (wide : Bool) : List Nat := (opB x).regs wide
def cRegs (x : Ext) (wide : Bool) : List Nat := (Opnd.lane x.c).regs wide
def pRegs (n : Nat) : List Nat := (Opnd.pred n).regs false
def rowRegs (n k : Nat) : List Nat := (List.range k).map (fun i => n + i)

/-- Registers that a lane instruction reads or writes, its guard left out (the field tables of 04 and 05). -/
def laneNamed (i : Instr) (x : Ext) : List Nat :=
  let w := x.ty.wide
  match i with
  | .iadd _ | .isub _ | .imul _ | .imulh _ | .idiv _ | .irem _ | .imin _ | .imax _ | .andL _ | .orL _ | .xorL _ | .andn _
  | .fadd _ | .fsub _ | .fmul _ | .fmin _ | .fmax _ | .fdiv _ => dRegs x w ++ aRegs x w ++ bRegs x w
  | .imad _ | .ffma _ => dRegs x w ++ aRegs x w ++ bRegs x w ++ cRegs x w
  | .iabs _ | .ineg _ | .notL _ | .brev _ | .mov _ | .fsqrt _ | .frcp _ | .frsq _ | .fex2 _ | .flg2 _ | .fsin _ | .fcos _
  | .dmean _ => dRegs x w ++ aRegs x w
  | .shl _ | .shr _ | .sar _ | .rot _ | .bfx _ | .sibg _ => dRegs x w ++ aRegs x w ++ bRegs x false
  | .bfi _ | .perm _ => dRegs x false ++ aRegs x false ++ bRegs x false ++ cRegs x false
  | .popc _ | .clz _ | .fclass _ | .dig _ => dRegs x false ++ aRegs x w
  | .icmp _ | .fcmp _ => pRegs x.d ++ aRegs x w ++ bRegs x w
  | .isel _ => dRegs x w ++ aRegs x w ++ bRegs x w ++ pRegs x.c
  | .plop _ => pRegs x.d ++ pRegs x.a ++ pRegs x.c ++ bRegs x false
  | .movi _ | .movs _ | .rand _ => dRegs x w
  | .movk _ | .setc _ => aRegs x false
  | .getc _ => dRegs x false
  | .fcvt _ => dRegs x w ++ aRegs x (Ty.ofCode x.c).wide ++ (if x.ty.packed then bRegs x false else [])
  | .fcvti _ | .icvtf _ => dRegs x w ++ aRegs x (Ty.ofCode x.c).wide
  | .jmp _ | .ret _ | .waitc _ => aRegs x true
  | .call _ => dRegs x true ++ (if x.m0 then aRegs x true else [])
  | .elect _ => pRegs x.d
  | .vote _ => pRegs x.a ++ (if x.mod == 2 then dRegs x true else pRegs x.d)
  | .hint _ => if x.minor == 0x10 then dRegs x false else []
  | .qcvt _ => rowRegs x.a 8 ++ rowRegs x.d (codeRegs x.mod) ++ [x.b, x.c]
  | .dqcvt _ => rowRegs x.d 8 ++ rowRegs x.a (codeRegs x.mod) ++ [x.b, x.c]
  | .plpack _ => rowRegs x.d (nfPlanes x.mod) ++ rowRegs x.a (nfCw x.mod)
  | _ => []

/-- Registers that an instruction of majors 0x28 to 0x3D reads or writes (the field tables of 06 to 08, 12, 15, 16, 19). -/
def engNamed (i : Instr) (x : Ext) : List Nat :=
  let w := x.ty.wide
  match i with
  | .ld _ => dRegs x w ++ readRegs (recordReads x false)
  | .st _ => readRegs (recordReads x true)
  | .prf _ => readRegs (recordReads x false)
  | .ldl _ | .lds _ | .ldf _ => dRegs x w ++ readRegs (windowReads x false)
  | .ldx _ => dRegs x w ++ pRegs x.c ++ readRegs (windowReads x false)
  | .stl _ | .sts _ | .ste _ => readRegs (windowReads x true)
  | .tagset _ | .tagclr _ => readRegs [indexReads x] ++ (if x.m1 then [x.b] else [])
  | .ldbuf _ | .drophRelease _ | .drophBreak _ => aRegs x true
  | .walkNext _ => dRegs x w
  | .atom _ => dRegs x w ++ readRegs (atomReads x)
  | .red _ => readRegs (atomReads x)
  | .barArrive _ => dRegs x false ++ aRegs x true
  | .barWait _ => aRegs x true ++ cRegs x false
  | .syncop _ => dRegs x true ++ aRegs x true ++ (if x.m1 then (Opnd.uni x.c).regs true else cRegs x true)
  | .shape _ => readRegs (shapeReads x)
  | .shget _ | .hstat _ | .waith _ | .dlaunch _ => dRegs x true ++ (match i with | .shget _ => [] | _ => aRegs x true)
  | .mstat _ => rowRegs x.d 4
  | .cfread _ => dRegs x false ++ (if x.mod == 1 then [] else [x.a])
  | .drain _ => aRegs x false ++ pRegs x.c
  | .mq16 _ | .mq32 _ => [x.a, x.b] ++ mqRegs x
  | .matx _ | .fold _ | .walkBind _ | .xcopy _ | .coll _ | .selk _ | .smax _ | .samp _ | .redb _ => aRegs x false
  | .ownGive _ | .ownTake _ => readRegs (slotReads x)
  | .twaitany _ | .twaitall _ => readRegs (tagReads x)
  | .tfirst _ => dRegs x false ++ readRegs (tagReads x)
  | .enq _ | .deq _ | .callr _ => dRegs x true ++ aRegs x false
  | .callh _ => dRegs x true ++ aRegs x false ++ (Opnd.lane x.b).regs true
  | .rld _ => dRegs x w ++ readRegs (remoteReads x 0)
  | .rst _ => readRegs (remoteReads x 1)
  | .ratom _ => dRegs x w ++ readRegs (remoteReads x 2)
  | .frd _ => dRegs x true ++ [x.a]
  | .fwr _ => [x.a] ++ (Opnd.lane x.b).regs true
  | .grpctl _ => (Opnd.lane x.a).regs true ++ [x.b]
  | .tlbi _ => if x.mod == 1 then [] else (Opnd.lane x.a).regs true ++ [x.b]
  | _ => []

/-- The extended row and fields of an instruction word; a base form stands for its extended row (02 R23). -/
def Instr.full (i : Instr) : Option (Instr × Ext) :=
  match i.ext?, i.base? with
  | some x, _ => some (i, x)
  | none, some y => (extRow i.major (Base.toExt i.major y)).map (fun j => (j, Base.toExt i.major y))
  | none, none => none

/-- Registers that an instruction names, with its guard. -/
def namedRegs (i : Instr) : List Nat :=
  match Instr.full i with
  | some (j, x) => guardRegs x ++ (if i.major < 40 || i.major == 51 || i.major == 63 then laneNamed j x else engNamed j x)
  | none => []

/-- Predicates that WALK.next of a thread writes: those bound to its walker's dimensions (10 R194; 12 R228). -/
def walkNamed (m : Member) (i : Instr) : List Nat :=
  match Instr.full i with
  | some (.walkNext _, x) => if (m.walker (x.a % 8)).bound then (m.walker (x.a % 8)).dims.flatMap (fun d => pRegs d.pred) else []
  | _ => []

/-- GETC and SETC issue once every earlier instruction of the thread has completed (04 R85). -/
def waitsForAll (i : Instr) : Bool :=
  match i with
  | .getc _ | .setc _ => true
  | _ => false

/-- Replay-class instructions by major and minor (19 R341). WAITC and YIELD are waits at a blocking point. -/
def replayClass (i : Instr) : Bool :=
  let n := i.major
  let minor := match i.ext? with | some x => x.minor | none => 0
  (decide (40 ≤ n) && decide (n ≤ 46)) || n == 52 || n == 53 || (decide (57 ≤ n) && decide (n ≤ 59)) || n == 36 ||
    (n == 49 && minor == 0) || (n == 56 && minor != 1) || (n == 50 && minor != 1) || (n == 60 && decide (minor < 4))

/-- The instruction at a PC whose line the core holds, when its bytes decode. -/
def peekAt (s : State) (B : Block) (pc : Nat) : Option Instr :=
  match findLine s B (pc - pc % 64) with
  | none => none
  | some l => match decode (l.bytes.drop (pc % 64)) with
    | .ok i => some i
    | .error _ => none

/-- Instructions that are a release wider than thread: by their ORD and SCOPE, a barrier arrival, a transition of a scratchpad word, and
the issues that other agents' events follow (11 R202 to R204; 16 R308). -/
def releases (i : Instr) : Bool :=
  match Instr.full i with
  | some (j, x) =>
    ((x.ord == .release || x.ord == .acqRel || x.ord == .sc) && x.scope != .thread) ||
      (match j with
       | .barArrive _ | .ldf _ | .ste _ | .tagset _ | .tagclr _ | .matx _ | .cfzero _ | .fold _ | .drain _ | .selk _ | .smax _ | .samp _
       | .redb _ | .xcopy _ | .coll _ | .ownGive _ | .enq _ | .dlaunch _ | .callr _ | .callh _ => true
       | _ => false)
  | none => false

/-- Whether a thread waits for the acknowledgement of an RST before an instruction: a release is performed after the thread's earlier
stores (10 R186; 11 R215), and an access after an RST that is an SC event comes after it in S (11 R205; notes/assumptions/101.md). -/
def storesAwaited (s : State) (b k : Nat) (i : Instr) : Bool :=
  s.outs.any (fun o => o.blk == b && o.mem == k && o.op == 1 && !o.answered && o.dst != s.host.devid &&
    (releases i || (o.sc && decide (40 ≤ i.major))))

/-- Whether an interlock holds member `k` of a block before an instruction: a register that it names awaits a variable-latency result or
belongs to an operation in flight, GETC or SETC finds a result outstanding, an RST is not acknowledged, or the block's replay-class
issues are at their limit (02 R34, 04 R85, 07 R148, 11 R215, 19 R341). -/
def interlocked (s : State) (b k : Nat) (i : Instr) : Bool :=
  let m := s.member b k
  let busy := abusyRegs s b
  (namedRegs i ++ walkNamed m i).any (fun n => busy n || m.sibs.any (fun r => (r.infl.lookup n).isSome)) ||
    (waitsForAll i && m.sibs.any (fun r => r.infl != [])) || storesAwaited s b k i ||
    (replayClass i && decide (256 ≤ (replaySeqs (s.block b)).length))

end Sys2Proof.Machine
end

