-- ==== Sys2Proof/Machine/Sched.lean ====
section
/-!
DEFINITION. Time, the issue of entries, completions and caches (spec 02 R31 to R37, R41; 10 R186; 15 R263, R264, R278 to R280; 19 R353),
slices, eviction, forced save, restore and moves of blocks (15 R266 to R270, R276, R277; 19 R357 to R359).
-/
namespace Sys2Proof.Machine

/-- Core frequency of a step in MHz (02 R41). -/
def stepMhz (n : Nat) : Nat := match n with | 0 => 3300 | 1 => 2900 | 2 => 2600 | 3 => 2200 | _ => 1800

/-- Whether a die's core clock runs: no relock, and not off (15 R278 to R280). -/
def DieSt.clocked (D : DieSt) : Bool := D.relock.isNone && D.power != 4

/-- `n` core cycles of a die: CYC, and NCYC through its 32-bit fraction (15 R278). -/
def tickDie (s : State) (d n : Nat) : State :=
  let D := s.die d
  if !D.clocked then s
  else
    let t := D.ncycFrac + n * (3300 * 2 ^ 32 / stepMhz D.step)
    s.setDie d { D with cyc := D.cyc + BitVec.ofNat 64 n, ncyc := D.ncyc + BitVec.ofNat 64 (t / 2 ^ 32), ncycFrac := t % 2 ^ 32 }

/-- Lines of CACHED pages that have been in an L1 for 4 µs leave it (10 R186). -/
def expiries (s : State) : List Task :=
  s.cores.flatMap (fun kv => (kv.2.l1.filter (fun l => decide (l.filled + 4000 ≤ s.reft.toNat))).map (fun l =>
    .event (.l1LineExpiry kv.1 l.line)))

/-- Pending threads take entries in the order in which they became pending, with their RECONVERGE records (15 R263; 20 R368). -/
def takePending (c q : Nat) (s : State) : State :=
  let before := SMap.get [] (s.core c).pending q
  if before == [] then s
  else
    let s := before.foldl (fun s p => if tabled (s.block p.1) (s.member p.1 p.2) then enterTable s p.1 p.2 else s)
      (s.setCore c { s.core c with pending := SMap.put (s.core c).pending q [] })
    let taken := before.filter (fun p => !(SMap.get [] (s.core c).pending q).contains p)
    (distinct (taken.map Prod.fst)).foldl (fun s b => traceJoins s b ((taken.filter (fun p => p.1 == b)).map Prod.snd)) s

/-- A block that waits for a frame takes one that has become free with the end of another grid (19 R346). -/
def retryFrames (s : State) : State :=
  match s.blocks.find? (fun kv => (match kv.2.state with | .frameWait _ => true | _ => false) && (pickFrame s kv.2.region).isSome) with
  | some (_, B) => frameFreed s B.region
  | none => match s.asyncs.find? (fun e => (pickFrame s e.region).isSome) with
    | some e => frameFreed s e.region
    | none => s

/-- Whether a wait is one at a blocking point (15 R265): not of an RATOM, nor in an expansion. -/
def WaitKind.blocking : WaitKind → Bool
  | .remote b _ => b
  | .mq _ _ _ _ => false
  | _ => true
def Member.blocked (m : Member) : Bool := match m.wait with | some k => k.blocking | .none => false

/-- HOLD clears once every unheld live thread has exited or waits at a blocking point (19 R353). -/
def releaseHeld (s : State) (b : Nat) : State :=
  let B := s.block b
  if B.members.any (fun kv => kv.2.live && kv.2.hold) && B.members.all (fun kv => !kv.2.live || kv.2.hold || kv.2.blocked) then
    s.setBlock b { B with members := B.members.map (fun kv => (kv.1, { kv.2 with hold := false })) }
  else s

/-- The ready threads of an entry (15 R264). -/
def readyOf (s : State) (e : Entry) : List Nat :=
  let i := peekAt s (s.block e.blk) e.pc
  e.mems.filter (fun k =>
    let m := s.member e.blk k
    m.space == 0 && !m.hold && !i.any (interlocked s e.blk k))

/-- Lanes that an entry's ready threads count for, those under a spin hint left out (15 R264). -/
def rankOf (s : State) (e : Entry) (ready : List Nat) : Nat :=
  ready.foldl (fun a i => let m := s.member e.blk i; if m.spin == 0 then a + m.nsib else a) 0

/-- Whether entry `a` goes before entry `b` under a measure: greater, or equal with the lower PC (15 R264). -/
def goesBefore (key : Entry → Nat) (a b : Entry) : Bool := decide (key b < key a) || (key a == key b && decide (a.pc < b.pc))
def bestBy (key : Entry → Nat) : List Entry → Option Entry
  | [] => none
  | e :: r => some (r.foldl (fun a c => if goesBefore key c a then c else a) e)

/-- The entry that a quarter issues (15 R264). -/
def pickEntry (s : State) (t : List Entry) : Option Entry :=
  let eligible := t.filter (fun e => readyOf s e != [])
  if eligible.any (fun e => decide (64 < e.age)) then bestBy Entry.age eligible
  else bestBy (fun e => rankOf s e (readyOf s e) + e.age) eligible

/-- A running block after `n` core cycles: stall spacing and spin hints count down (02 R31, R41). They stand still while the block does not
run (notes/assumptions/108.md). -/
def Block.ticked (n : Nat) (B : Block) : Block :=
  if B.state == .running then
    { B with members := B.members.map (fun kv => (kv.1, { kv.2 with space := kv.2.space - n, spin := kv.2.spin - n })) }
  else B

/-- An issue-table entry after `n` core cycles; a thread that is ready at their end has become so in them (15 R264). -/
def Entry.ticked (s : State) (n : Nat) (e : Entry) : Entry :=
  { e with age := e.age + n, idle := if readyOf s e == [] then e.idle + n else 0 }

/-- A core after `n` core cycles: its array and its issue tables (07 R161; 15 R264). -/
def tickCore (s : State) (c n : Nat) : CoreSt :=
  { tickMat s c n with tables := (s.core c).tables.map (fun kv => (kv.1, kv.2.map (Entry.ticked s n))) }

/-- `n` core cycles of a die, for everything that counts cycles of its clock (00 R3). -/
def tickAll (s : State) (d n : Nat) : State :=
  if !(s.die d).clocked || n == 0 then s
  else
    let s := tickDie s d n
    let s : State := { s with blocks := s.blocks.map (fun kv => (kv.1, if coreDie kv.2.core == d then kv.2.ticked n else kv.2)) }
    { s with cores := s.cores.map (fun kv => (kv.1, if coreDie kv.1 == d then tickCore s kv.1 n else kv.2)) }

/-- What the time that has passed makes due: lines that leave an L1, acknowledgements, ACK flits and castlings (10 R186; 16 R285, R288, R383). -/
def dueTasks (s : State) : List Task := expiries s ++ dueAcks s ++ dueBeats s ++ dueCastlings s

/-- Time that passes before an event on a die: every clock and REFT go on, by amounts that are free, the die's own by `least` cycles or more
(15 R278; notes/assumptions/2.md). -/
def elapse (s : State) (die least : Nat) : State :=
  let (v, s) := s.free
  let s := (List.range 4).foldl (fun s d => tickAll s d (v.toNat / 2 ^ (8 * d) % 2 ^ 8 + (if d == die then least else 0))) s
  let s : State := { s with reft := s.reft + BitVec.ofNat 64 (v.toNat / 2 ^ 32) }
  let s : State := { s with beats := beatsOf s }
  { s with agenda := s.agenda ++ dueTasks s }

/-- Raise the first cause held pending in a thread, at its first boundary (19 R343). -/
def raiseHeld (s : State) (b i : Nat) : State :=
  let m := s.member b i
  match m.pendCause with
  | [] => s
  | t :: r => takeTrap (s.setMember b i { m with pendCause := r }) b { t with quarter := m.quarter, lanes := m.laneMask }

/-- The table of a core's quarter. -/
def State.table (s : State) (core quarter : Nat) : List Entry := SMap.get [] (s.core core).tables quarter

/-- A quarter issues once in a core cycle: whether it has in the present one (15 R264). -/
def hasIssued (s : State) (core quarter : Nat) : Bool :=
  (s.core core).issued.lookup quarter == some (s.die (coreDie core)).cyc

/-- The cycle of a quarter begins: its pending threads take entries, and the lines of its entries are fetched (02 R37; 15 R263). -/
def openCycle (s : State) (core quarter : Nat) : State :=
  let C := s.core core
  let s := takePending core quarter (s.setCore core { C with issued := SMap.put C.issued quarter (s.die (coreDie core)).cyc })
  { (s.table core quarter).foldl (fun s e => (fetchLine (releaseHeld s e.blk) (s.block e.blk) e.pc).1) s with reqs := [] }

/-- An entry issues with its ready threads: its age becomes 0, and a cause held in one of the threads is raised instead (15 R264; 19 R343). A
block whose log has no room for the issue begins its next course instead (20 R362; notes/assumptions/13.md). -/
def issueEntry (s : State) (core quarter : Nat) (e : Entry) (ready : List Nat) : State :=
  let C := s.core core
  let s := s.setCore core { C with tables := SMap.put C.tables quarter ((s.table core quarter).map (fun f => if f == e then { f with age := 0 } else f)) }
  match ready.find? (fun i => (s.member e.blk i).pendCause != []) with
  | some i => raiseHeld s e.blk i
  | none =>
    if logFull s e.blk (issueEntries s e.blk ready) then nextCourse s e.blk
    else { s with cur := some { blk := e.blk, mems := ready, words := none } }

/-- ISSUE_CYCLE: one core cycle of a quarter (15 R263, R264), in a later cycle of the die than its last. -/
def execIssueCycle (core quarter : Nat) (s : State) : Result :=
  .next (
    let s := retryFrames (elapse s (coreDie core) (boolN (hasIssued s core quarter)))
    if 256 ≤ core || 4 ≤ quarter || !(s.die (coreDie core)).clocked || (s.core core).power != 0 then s
    else
      let s := openCycle s core quarter
      match pickEntry s (s.table core quarter) with
      | none => s
      | some e => issueEntry s core quarter e (readyOf s e))

/-- ENTRY_IDLE_TIMEOUT: no thread of an entry has been ready for 512 core cycles (15 R264). -/
def execEntryIdleTimeout (core quarter entry : Nat) (s : State) : Result :=
  .next (
    let C := s.core core
    let t := SMap.get [] C.tables quarter
    match t[entry]? with
    | some e =>
      if e.idle < 512 then s
      else
        s.setCore core { C with
          tables := SMap.put C.tables quarter (t.eraseIdx entry)
          pending := SMap.put C.pending quarter (SMap.get [] C.pending quarter ++ e.mems.map (fun i => (e.blk, i))) }
    | none => s)

/-- VARIABLE_LATENCY_COMPLETE: a result reaches its registers, all of them together (02 R34; 05 R119). -/
def execVariableLatencyComplete (blk mem sib reg : Nat) (s : State) : Result :=
  .next (
    let m := s.member blk mem
    if m.sibs.any (fun r => (r.infl.lookup reg).isSome) then
      s.setMember blk mem { m with sibs := m.sibs.zipIdx.map (fun rk => if rk.2 == sib then rk.1.complete reg else rk.1) }
    else s)

/-- ICACHE_FILL: the fetch agent fills a line for a running block (02 R37). A fault is raised only where the line is needed. -/
def execIcacheFill (blk va : Nat) (s : State) : Result :=
  .next (
    let B := s.block blk
    if B.state == .running then { (fillLine s B (va - va % 64)).1 with reqs := [] } else s)

/-- L1_LINE_EXPIRY: a line has been in an L1 for 4 µs (10 R186). -/
def execL1LineExpiry (core line : Nat) (s : State) : Result :=
  .next (
    let C := s.core core
    s.setCore core { C with l1 := C.l1.filter (fun l => !(l.line == line && decide (l.filled + 4000 ≤ s.reft.toNat))) })

/-- EFFSLICE of a region in µs (15 R268). -/
def sliceOf (s : State) (r : Nat) : Nat :=
  let R := s.region r
  max (s.eff 2 r).slice (2 * (if R.sr == 0 then R.srEst else R.sr))

/-- EFFSLICE after a change of SLICE or SR: when it exceeds SLICE the device writes it and sets SLICE_RAISED (15 R268). -/
def updateSlice (s : State) (r : Nat) : State :=
  let e := sliceOf s r
  let s := s.setRegion r { s.region r with effSlice := e }
  if (s.eff 2 r).slice < e then orStatus (devField s r 72 8 e) r 1 else s

/-- The blocks that one eviction takes: all resident blocks of a GANG grid together (15 R256), or one block. -/
def withGang (s : State) (b : Nat) : List Nat :=
  let B := s.block b
  if (s.grid B.grid).gang then (gridBlocks s B.grid).filter (fun k => (s.block k).resident && (s.block k).handler.isNone) else [b]

/-- Whether a core's resident blocks leave a saved block its own lanes and slots, to which its threads are pinned, and some place in the
scratchpad (01 R14; 15 R257). -/
def Block.places (B : Block) : List Place := B.members.map (fun kv => { lane := kv.2.lane, slot := kv.2.slot })
def Block.fitsBeside (B : Block) (rs : List Block) : Bool := (List.range 129).any (fun u => placeOn rs u B.need B.places)

/-- Whether a waiting block within its limits waits for what a resident block holds: no core in service takes it now, and that block's core
would if the block were gone (15 R266; notes/assumptions/55.md). -/
def wantsPlaceOf (s : State) (b region slots : Nat) (fits : List Block → Bool) : Bool :=
  let B := s.block b
  let gone := withGang s b
  limitsOk s region B.core slots &&
    !(List.range 256).any (fun c => coreLive s c && limitsOk s region c slots && fits (residents s c)) &&
    fits ((s.blocks.filter (fun kv => kv.2.core == B.core && kv.2.resident && !gone.contains kv.1)).map Prod.snd)

/-- A block of a GANG grid that waits for a place: what it takes, and its own lanes and slots when it has been saved. -/
structure Want where
  need : BlockNeed
  pins : Option (List Place)
  deriving DecidableEq, Repr

/-- Lanes and slots that a new block can take beside others, lowest first. -/
def freePlaces (rs : List Block) (n : BlockNeed) : List Place :=
  ((List.range (if n.triad then 64 else 192)).flatMap (fun k =>
    let lanes := if n.triad then [3 * k, 3 * k + 1, 3 * k + 2] else [k]
    let taken := (rs.flatMap Block.lanesSlots).filter (fun a => lanes.contains a.1)
    (((List.range 12).filter (fun j => !taken.any (fun a => a.2 == j))).take (laneRoom rs n.triad n.ls k)).map (fun j =>
      { lane := lanes.headD 0, slot := j }))).take n.tb

/-- A wanted block at its place beside others on a core, if it has one (15 R257). -/
def Want.beside (w : Want) (rs : List Block) (region core : Nat) : Option Block :=
  let ps := w.pins.getD (freePlaces rs w.need)
  ((List.range 129).find? (fun u => placeOn rs u w.need ps)).map (fun u => { Block.none with
    region := region, core := core, triad := w.need.triad, tb := w.need.tb, spadBase := 4096 * u, spadSize := 4096 * w.need.spad
    lsSize := w.need.ls, tagN := w.need.tags, state := .running
    members := ps.zipIdx.map (fun pk => (pk.2, { Member.none with
      lane := pk.1.lane, slot := pk.1.slot, sibs := List.replicate (if w.need.triad then 3 else 1) Regs.zero })) })

/-- Whether wanted blocks of a region find places together, within its limits (15 R253, R256). -/
def placeAll (region : Nat) : List Want → State → Bool
  | [], _ => true
  | w :: r, s => (List.range 256).any (fun c => coreLive s c && limitsOk s region c w.need.slots &&
      (match w.beside (residents s c) region c with
       | some B => placeAll region r ({ s with nextBlock := s.nextBlock + 1 }.setBlock s.nextBlock B)
       | none => false))

/-- Saved blocks of a grid. -/
def savedBlocks (s : State) (g : Nat) : List Nat :=
  (gridBlocks s g).filter (fun b => match (s.block b).state with | .saved _ _ _ => true | _ => false)

/-- Blocks of a grid or stage that wait to be created. -/
def Grid.owed (G : Grid) (stage : Nat) : Nat :=
  match G.stages[stage]? with
  | some S => S.want
  | .none => if stage == 0 then G.nblocks - G.nextBlk else 0

/-- The blocks of a GANG grid that wait for places: those to be created, and all its saved ones once one of them is runnable (15 R256, R267). -/
def gangWants (s : State) (g : Nat) : List Want :=
  let G := s.grid g
  let saved := savedBlocks s g
  ((List.range (max 1 G.stages.length)).flatMap (fun k =>
    if G.owes k then List.replicate (G.owed k) { need := G.need k, pins := none } else [])) ++
  (if saved.any (runnable s) then saved.map (fun b => { need := (s.block b).need, pins := some (s.block b).places }) else [])

/-- Whether a GANG grid, which takes its places as a whole, waits for what a resident block holds: it finds no places together now, and that
block's core would take one of its blocks if the block were gone (15 R256, R266; notes/assumptions/55.md). -/
def gangWaitsFor (s : State) (b g : Nat) : Bool :=
  let B := s.block b
  let r := (s.grid g).region
  let ws := gangWants s g
  let rest := (s.blocks.filter (fun kv => kv.2.core == B.core && kv.2.resident && !(withGang s b).contains kv.1)).map Prod.snd
  !placeAll r ws s && ws.any (fun w => limitsOk s r B.core w.need.slots && (w.beside rest r B.core).isSome)

/-- Whether a block of priority at least `p` waits for the resources that a block holds (15 R266). -/
def holdsFor (s : State) (b p : Nat) : Bool :=
  s.grids.any (fun kv => decide (p ≤ prioOf s kv.2.region) &&
    (if kv.2.gang then gangWaitsFor s b kv.1
     else (List.range (max 1 kv.2.stages.length)).any (fun k =>
       kv.2.owes k && wantsPlaceOf s b kv.2.region (kv.2.need k).slots (fun rs => roomFor rs (kv.2.need k))))) ||
  s.blocks.any (fun kv => decide (p ≤ prioOf s kv.2.region) && !(s.grid kv.2.grid).gang && runnable s kv.1 &&
    wantsPlaceOf s b kv.2.region kv.2.nthread kv.2.fitsBeside)

/-- Whether R266 calls for a block's eviction, its slice being over: a block of equal or higher priority waits for what it holds. -/
def calledFor (s : State) (b : Nat) : Bool :=
  let B := s.block b
  B.sliceEnded && holdsFor s b (prioOf s B.region)

/-- SLICE_END: EFFSLICE has passed, or a block of strictly higher priority waits (15 R266, R268); the grace window begins when the
eviction is called for (15 R269). -/
def execSliceEnd (blk : Nat) (s : State) : Result :=
  .next (
    let B := s.block blk
    if !B.resident || B.handler.isSome then s
    else
      let ovfl := decide (B.placed + 1000 * (s.region B.region).effSlice ≤ s.reft.toNat) || holdsFor s blk (prioOf s B.region + 1)
      let s := s.setBlock blk { B with sliceEnded := B.sliceEnded || ovfl }
      let B := s.block blk
      s.setBlock blk { B with called := if calledFor s blk then some (B.called.getD s.reft.toNat) else none })

/-- Whether every live thread of a block is at a blocking point and no operation of it is in flight (15 R266). -/
def evictable (s : State) (b : Nat) : Bool :=
  let B := s.block b
  B.state == .running && B.handler.isNone && B.members.all (fun kv => !kv.2.live || kv.2.blocked) && !opsInFlight s b false

/-- Bytes that the arrival records of a saved block may take: of the replies it waits for and of its collectives, whose results come in
pieces of at most 64 bytes (19 R357). -/
def arrivalRoom (s : State) (b : Nat) : Nat :=
  64 * (s.outs.filter (fun o => o.blk == b && !o.answered)).length +
  s.dies.foldl (fun n kv => kv.2.collq.foldl (fun n o => if o.blk == b then n + 128 + 88 * (o.count * collWidth o.fmt / 64 + 2) else n) n) 0

/-- Save one block into an area taken for it, with room for arrival records, and free what it occupies; none when no area can be taken
(19 R357). -/
def saveOne (s : State) (b : Nat) (forced : Bool) : Option State :=
  let s := stopBlock (chargeCore s b) b
  let B := s.block b
  let bytes := saveBytes s b
  let all := bytes ++ areaTag s bytes
  match allocArea s B.region (all.length + arrivalRoom s b) with
  | (_, none) => none
  | (s, some (o, area)) =>
    match writeRange s (keystoneOf o (coreDie B.core)) area all with
    | (_, some _) => none
    | (s, none) => some (s.setBlock b { s.block b with
      state := .saved o area forced, sliceEnded := false, called := none, arrLen := 0 })

/-- Save blocks together: all, or none (15 R256). -/
def saveAll (s : State) (forced : Bool) : List Nat → Option State
  | [] => some s
  | b :: r => (saveOne s b forced).bind (fun s => saveAll s forced r)

/-- BLOCK_EVICT (15 R266). -/
def execBlockEvict (blk : Nat) (s : State) : Result :=
  .next (
    let bs := withGang s blk
    if bs.contains blk && calledFor s blk && bs.all (evictable s) then (saveAll { s with reqs := [] } false bs).getD s else s)

/-- Whether a forced save can take a block now: it is resident, outside a handler, and has no operation to wait for (15 R269). -/
def stoppable (B : Block) : Bool := (B.state == .running || B.state == .gangWait || B.state == .stopping) && B.handler.isNone
def savable (s : State) (b : Nat) : Bool := stoppable (s.block b) && !opsInFlight s b false

/-- Every thread stops at an instruction boundary for a forced save that waits for matrix, selection and copy work (15 R269). -/
def stopForSave (s : State) (b : Nat) : State :=
  if (s.block b).state == .running then
    let s := stopBlock s b
    s.setBlock b { s.block b with state := .stopping }
  else s

/-- A block that stopped for a save which finds no area runs on until one can be taken (19 R357). -/
def runOn (s : State) (b : Nat) : State := if (s.block b).state == .stopping then resumeBlock s b else s

/-- Take blocks by forced save together, or stop them until their engine work is done (15 R269; 19 R357). -/
def forceSave (s : State) (bs : List Nat) : State :=
  if bs.all (savable s) then
    match saveAll s true bs with
    | some t => t
    | none => bs.foldl runOn s
  else bs.foldl stopForSave s

/-- GRACE_EXPIRY: the block has not become evictable within GRACE µs and is taken by forced save (15 R269); one that is evictable by now is
evicted. A block that has been stopped for it is saved whatever waits by then. -/
def execGraceExpiry (blk : Nat) (s : State) : Result :=
  .next (
    let B := s.block blk
    let bs := withGang s blk
    let due := match B.called with
      | some t => decide (t + 1000 * (s.eff 4 B.region).grace ≤ s.reft.toNat) && calledFor s blk
      | none => false
    if (due || B.state == .stopping) && bs.contains blk && bs.all (fun b => stoppable (s.block b)) then
      if bs.all (evictable s) then (saveAll { s with reqs := [] } false bs).getD s else forceSave { s with reqs := [] } bs
    else s)

/-- Lane stores of the members from their image, member by member and sibling by sibling. -/
def lsImages (ls : Nat) (bytes : List Byte) : List (Nat × Member) → List (Nat × Member)
  | [] => []
  | kv :: r =>
    let m := kv.2
    let sibs := m.sibs.zipIdx.map (fun rk => { rk.1 with ls := storeWrite [] 0 ((bytes.drop (rk.2 * ls)).take ls) })
    (kv.1, { m with sibs := sibs }) :: lsImages ls (bytes.drop (m.nsib * ls)) r

/-- Restore the images: scratchpad, full/empty and owner bits, lane stores (19 R357). -/
def loadImages (B : Block) (bytes : List Byte) : Block :=
  let n := B.spadSize
  { B with
    spad := storeWrite [] 0 (bytes.take n)
    full := (List.range (n / 4)).foldl (fun f k => SMap.set false f k (bitN (bytes.getD (n + k / 8) 0).toNat (k % 8))) []
    own := (List.range (n / 4096)).foldl (fun f k =>
      SMap.set Owner.threads f k (if bytes.getD (n + n / 32 + k) 0 == 0 then .threads else .given)) []
    members := lsImages B.lsSize (bytes.drop (n + n / 32 + n / 4096)) B.members }

/-- Apply an arrival record (19 R357). -/
def applyArrival (B : Block) : Arrival → Block
  | .reply i result fault =>
    let m := B.member i
    B.setMember i { m with cap := m.cap.map (fun c => { c with result := result, faultReply := fault }) }
  | .spad off bytes => { B with spad := storeWrite B.spad off bytes }
  | .tag n st set => { B with
      tags := if set then SMap.set false B.tags n true else B.tags, tagStat := SMap.set 0 B.tagStat n st }

/-- A block whose save area fails its check is lost (19 R358). -/
def loseBlock (s : State) (b area : Nat) : State :=
  let B := s.block b
  let R := s.region B.region
  let n := min (R.lostCnt + 1) 0xFFFF
  let v := codeContextLost + B.blk % 2 ^ 23 * 512
  let s := (s.setBlock b { B with state := .lost }).setRegion B.region { R with lostCnt := n, faultCode := v, faultAddr := area }
  let s := devField (devField (devField s B.region 110 2 n) B.region 116 4 v) B.region 120 8 area
  let s := s.setGrid B.grid { s.grid B.grid with lostBlock := true }
  if R.policy % 2 == 1 then orStatus (endGrid s B.grid 6) B.region 4 else s

/-- A saved block put back from the bytes of its area, with its arrival records in their order after the images (19 R357 to R359; 15 R268,
R276, R277). -/
def putBack (s : State) (b core spad o area : Nat) (bytes : List Byte) (late : List Arrival) : State :=
  let B := s.block b
  let paid := prepaid s B.region
  let s := prepay (takeTurn s core B.region) B.region
  let s := if (residents s core).any (fun D => D.grid == B.grid) then s else s.setCore core { s.core core with icache := [] }
  let s := if core == B.core then s else
    s.setCore B.core { s.core B.core with fwd := (s.core B.core).fwd ++ [{ blk := b, core := core, since := s.reft.toNat }] }
  let tags := fieldAt bytes 1664 8
  let s := (flushL1 s core).setBlock b { B with
    core := core, spadBase := 4096 * spad, placed := s.reft.toNat, paid := paid
    tags := (List.range 64).foldl (fun t k => SMap.set false t k (bitN tags k)) [], arrLen := 0
    dbg := (s.region B.region).descr.isSome }
  let s := reload s b (bytes.take (saveLen B))
  let s := s.setBlock b (late.foldl applyArrival (loadImages (s.block b) (bytes.drop (saveLen B))))
  let (v, s) := (freeArea s o area B.region).free
  let R := s.region B.region
  let s := updateSlice (s.setRegion B.region { R with sr := max R.sr (v.toNat % 2 ^ 32 + 1) }) B.region
  if (s.grid B.grid).gang then s.setBlock b { s.block b with state := .gangWait } else resumeBlock s b

/-- Restore a saved block at a place: the whole area, arrival records included, is read and checked before anything changes, and an ECC
error of the memory or a wrong tag loses the block (19 R357, R358; notes/assumptions/99.md). -/
def restoreAt (s : State) (b core spad o area : Nat) : State :=
  let B := s.block b
  let n := saveLen B + imageLen B
  let ecc := Config.eccError s.choice
  match readRange { s with choice := s.choice + 1 } (keystoneOf o (coreDie core)) area (n + 8 + B.arrLen) with
  | (s, .error _) => loseBlock s b area
  | (s, .ok all) =>
    let bytes := all.take n
    if ecc || (all.drop n).take 8 != areaTag s bytes then loseBlock s b area
    else match arrivalsOf s B.arrLen (all.drop (n + 8)) with
      | none => loseBlock s b area
      | some late => putBack s b core spad o area bytes late

/-- Whether a core of a die takes blocks and holds none (15 R267). -/
def freeCore (s : State) (die : Nat) : Bool :=
  ((List.range 64).map (fun k => 64 * die + k)).any (fun c => coreTakes s c && (residents s c).isEmpty)

/-- Whether a saved block may be put on a core now, on its own lanes and slots (01 R14; 15 R253, R257, R270, R277). -/
def mayPutBack (s : State) (b core spad : Nat) (ps : List Place) : Bool :=
  let B := s.block b
  coreTakes s core && placeOk s core spad B.need ps && ps == B.places && limitsOk s B.region core B.nthread &&
    !waiting s core (prioOf s B.region + 1) && hasTurn s core B.region && (core == B.core || decide ((s.core B.core).fwd.length < 64))

/-- Whether a saved block, or the saved GANG grid that it belongs to, is runnable (15 R256, R267). -/
def mayRun (s : State) (b : Nat) : Bool :=
  let B := s.block b
  runnable s b || ((s.grid B.grid).gang && (gridBlocks s B.grid).any (runnable s))

/-- Whether a saved block may be placed on a core now (15 R253, R257, R267, R270, R277). -/
def mayRestore (s : State) (b core spad : Nat) (ps : List Place) : Bool := mayRun s b && mayPutBack s b core spad ps

/-- Whether a plan holds a place for every block of a GANG grid that is not resident (15 R256). -/
def planFull (s : State) (g : Nat) (plan : List Planned) : Bool :=
  let G := s.grid g
  (List.range (max 1 G.stages.length)).all (fun k => (plan.filter (fun p => p.saved.isNone && p.stage == k)).length == G.owed k) &&
    (savedBlocks s g).all (fun b => plan.any (fun p => p.saved == some b))

/-- Take one planned place; none where it no longer fits. -/
def planStep (g : Nat) (acc : Option State) (p : Planned) : Option State :=
  acc.bind (fun s =>
    if (s.grid g).status.isSome then some s
    else match p.saved with
      | none => if mayCreate s g p.stage p.core p.spad p.places then some (createBlock s g p.stage p.core p.spad p.places) else none
      | some b => match (s.block b).state with
        | .saved o area _ => if mayPutBack s b p.core p.spad p.places then some (restoreAt s b p.core p.spad o area) else none
        | _ => none)

/-- A place for a block of a GANG grid is chosen: the blocks take their places together, in the step that chooses the last of them, and
start; where one no longer fits, none does (15 R256; notes/assumptions/70.md). -/
def gangPlace (s : State) (g : Nat) (p : Planned) : State :=
  let plan := (s.grid g).plan.filter (fun q => p.saved.isNone || q.saved != p.saved) ++ [p]
  if planFull s g plan then
    let t := s.setGrid g { s.grid g with plan := [] }
    match plan.foldl (planStep g) (some t) with
    | some u => gangStart u g
    | none => t
  else if p.saved.isNone && decide ((s.grid g).owed p.stage < (plan.filter (fun q => q.saved.isNone && q.stage == p.stage)).length) then s
  else s.setGrid g { s.grid g with plan := plan }

/-- BLOCK_CREATE: the next block of a grid or stage takes its place and starts (15 R253, R256, R257, R259, R260, R270). -/
def execBlockCreate (grid stage core spad : Nat) (places : List Place) (s : State) : Result :=
  .next (
    let s' := { s with reqs := [] }
    if !mayCreate s grid stage core spad places then s
    else if (s.grid grid).gang then gangPlace s' grid { saved := none, stage := stage, core := core, spad := spad, places := places }
    else
      let t := createBlock s' grid stage core spad places
      if t.nextBlock == s.nextBlock then t else seatBlock t s.nextBlock)

/-- A saved block takes a place, alone or with its GANG grid. -/
def restoreTo (s : State) (b core spad : Nat) (places : List Place) (o area : Nat) : State :=
  if (s.grid (s.block b).grid).gang then
    gangPlace s (s.block b).grid { saved := some b, stage := 0, core := core, spad := spad, places := places }
  else restoreAt s b core spad o area

/-- BLOCK_RESTORE: onto a core of the same die when one is free, else onto any core that fits (15 R267). -/
def execBlockRestore (blk core spad : Nat) (places : List Place) (s : State) : Result :=
  .next (match (s.block blk).state with
    | .saved o area _ =>
      if mayRestore s blk core spad places && (coreDie core == coreDie (s.block blk).core || !freeCore s (coreDie (s.block blk).core)) then
        restoreTo { s with reqs := [] } blk core spad places o area
      else s
    | _ => s)

/-- STREAMER_MOVE: off a core that is out of service, or to balance two runnable blocks of a region that wait on one core (15 R276). -/
def execStreamerMove (blk core spad : Nat) (places : List Place) (s : State) : Result :=
  .next (match (s.block blk).state with
    | .saved o area _ =>
      let B := s.block blk
      let peers := s.blocks.filter (fun kv => kv.2.core == B.core && kv.2.region == B.region && runnable s kv.1)
      if core != B.core && (!coreLive s B.core || decide (2 ≤ peers.length)) && mayRestore s blk core spad places then
        restoreTo { s with reqs := [] } blk core spad places o area
      else s
    | _ => s)

/-- FORWARDING_ENTRY_EXPIRY: after 100 µs, when no stream still carries an undelivered packet (15 R277). -/
def execForwardingEntryExpiry (core entry : Nat) (s : State) : Result :=
  .next (
    let C := s.core core
    match C.fwd[entry]? with
    | some f =>
      if decide (f.since + 100000 ≤ s.reft.toNat) && s.recvs.all (fun kv => kv.2.delivered == [] && kv.2.held == []) then
        s.setCore core { C with fwd := C.fwd.eraseIdx entry }
      else s
    | none => s)

/-- FREQUENCY_STEP_CHANGE: the die's clock stops to relock (15 R279). -/
def execFrequencyStepChange (die step : Nat) (s : State) : Result :=
  .next (
    let D := s.die die
    if 4 ≤ die || 5 ≤ step || D.relock.isSome then s else s.setDie die { D with step := step, relock := some s.reft.toNat })

/-- RELOCK_DONE: 800 ns have passed (15 R279). -/
def execRelockDone (die : Nat) (s : State) : Result :=
  .next (
    let D := s.die die
    match D.relock with
    | some t => if t + 800 ≤ s.reft.toNat then s.setDie die { D with relock := none } else s
    | none => s)

/-- A region is active while it has a live grid; the smallest effective TOL of the active ones, or the idle tolerance (15 R280). -/
def activeTol (s : State) : Nat :=
  match (s.grids.filter (fun kv => !kv.2.complete)).map (fun kv => (s.eff 3 kv.2.region).tol) with
  | [] => s.host.idleTol
  | t :: r => r.foldl min t

/-- Nothing resident or in flight in a core, or in a die (15 R280). -/
def coreQuiet (s : State) (c : Nat) : Bool := (residents s c).isEmpty && (s.core c).matq == [] && (s.core c).selq == []
def dieQuiet (s : State) (d : Nat) : Bool :=
  ((List.range 64).all (fun k => coreQuiet s (64 * d + k))) && (s.die d).copyq == [] && (s.die d).collq == []

/-- Exit latency of a power state in ns (15 R280). -/
def exitLatency (state : Nat) : Nat :=
  match state with
  | 1 => 50 | 2 => 2000 | 3 => 20000 | 4 => 400000 | 5 => 5000000 | _ => 0

/-- The deepest of some states that a tolerance allows, 0 when it allows none (15 R280). -/
def deepest (tol : Nat) (states : List Nat) : Nat := (states.find? (fun n => decide (exitLatency n ≤ tol))).getD 0

/-- POWER_STATE_ENTER: a part in service with nothing resident or in flight goes into the deepest of its states that the tolerance allows, from
P0 or from another of its states; at P3 the die runs at 1.8 GHz (15 R280). -/
def execPowerStateEnter (part : Part) (state : Nat) (s : State) : Result :=
  .next (
    let tol := activeTol s
    match part with
    | .core c =>
      if state != 0 && state == deepest tol [2, 1] && coreLive s c && coreQuiet s c && (s.core c).power != state then
        s.setCore c { s.core c with power := state }
      else s
    | .die d =>
      if decide (d < 4) && state != 0 && state == deepest tol [4, 3] && !(s.die d).fencedFull && dieQuiet s d && (s.die d).power != state then
        s.setDie d { s.die d with power := state, step := 4 }
      else s
    | .package =>
      if state == 5 && deepest tol [5] == 5 && (List.range 4).all (fun d => (s.die d).power == 4) then { s with packagePower := 5 } else s)

/-- Whether a launch has blocks to place, or a saved block has become runnable, as a WAITC of one of its threads makes it (15 R280). -/
def workWaits (s : State) : Bool :=
  s.grids.any (fun kv => (List.range (max 1 kv.2.stages.length)).any kv.2.owes) || s.blocks.any (fun kv => runnable s kv.1)

/-- Whether a part leaves its state: work waits, or the tolerance has fallen below the state's exit latency (15 R280). -/
def leavesState (s : State) (state : Nat) : Bool := workWaits s || decide (activeTol s < exitLatency state)

/-- POWER_STATE_EXIT: a launch, a wait that ends, or a smaller tolerance brings a part in service out of its state; requests, flits and host
accesses do so where they arrive (15 R280; 18 R332). -/
def execPowerStateExit (part : Part) (s : State) : Result :=
  .next (match part with
    | .core c => if leavesState s (s.core c).power && coreLive s c then s.setCore c { s.core c with power := 0 } else s
    | .die d =>
      if leavesState s (s.die d).power && s.packagePower == 0 && !(s.die d).fencedFull then s.setDie d { s.die d with power := 0 } else s
    | .package => if leavesState s s.packagePower then { s with packagePower := 0 } else s)

end Sys2Proof.Machine
end

