-- ==== Sys2Proof/Machine/Stop.lean ====
section
/-!
DEFINITION. The end of a course as an event, stop requests and the frames they rebuild (spec 20 R362, R364 to R367).
-/
namespace Sys2Proof.Machine

/-- COURSE_END (20 R362). -/
def execCourseEnd (blk : Nat) (s : State) : Result := .next (endCourse s blk)

/-- Write device bytes of a region's debug descriptor (20 R360, R364). -/
def debugBytes (s : State) (r off n value : Nat) : State :=
  match (s.region r).descr with
  | some pa => { s with mem := Memory.write s.mem (pa + off) (leBytes n value) }
  | none => s
def debugRead (s : State) (r off n : Nat) : Nat :=
  match (s.region r).descr with
  | some pa => Memory.nat s.mem (pa + off) n
  | none => 0

def stopReq (s : State) (r : Nat) : StopReq :=
  { grid := debugRead s r 96 4, blk := debugRead s r 100 4, mem := debugRead s r 104 2, sib := debugRead s r 106 1,
    course := debugRead s r 108 4, count := debugRead s r 112 8 }

/-- The block that a request names: the latest of its grid, index and region with a course slot. -/
def stopTarget (s : State) (r : Nat) (q : StopReq) : Option Nat :=
  (s.blocks.filter (fun kv => kv.2.region == r && kv.2.grid == q.grid && kv.2.blk == q.blk && kv.2.handler.isNone &&
    kv.2.course.isSome)).foldl (fun _ kv => some kv.1) none

/-- The course that a slot holds under a number, once it has begun (20 R361). -/
def CourseSlot.find (c : CourseSlot) (n : Nat) : Option Course :=
  if c.current.number == n && c.current.begun then some c.current
  else match c.before with
    | some k => if k.number == n then some k else .none
    | .none => .none

/-- Whether a stop may proceed (20 R365); the member has the sibling that the request names
(notes/assumptions/116.md). -/
def stopCourse (s : State) (b : Nat) (q : StopReq) : Option Course :=
  match (s.block b).course.bind (fun c => c.find q.course) with
  | some c =>
    let m := SMap.get Member.none c.start q.mem
    if m.live && decide (q.sib < m.nsib) && decide (1 ≤ q.count) && decide (q.count ≤ SMap.get 0 c.retired q.mem) then some c else none
  | none => none

/-- Retirements of a course up to the named member's COUNT-th (20 R366). -/
def uptoStop (q : StopReq) : List Retired → List Retired
  | [] => []
  | h :: r => if h.mem == q.mem && h.count == q.count then [h] else h :: uptoStop q r

/-- Log entries before the named member's COUNT-th retirement (20 R366). -/
def stopMark (c : Course) (q : StopReq) : Nat :=
  match (uptoStop q c.history).getLast? with
  | some h => h.logged
  | none => 0

/-- A member after its `n`-th retirement in the course, or as the course began (20 R366). -/
def Course.after (c : Course) (i n : Nat) : Member :=
  match c.history.find? (fun h => h.mem == i && h.count == n) with
  | some h => h.state
  | none => SMap.get Member.none c.start i

/-- Retirements of a member in a list. -/
def retiredIn (i : Nat) (hs : List Retired) : Nat := hs.foldl (fun n h => if h.mem == i then max n h.count else n) 0

/-- How many instructions of the course another member has retired at the stop (20 R365, R366): up to the last whose retirement, or whose
log entries, precede it; all of them when nothing that it reads was logged. -/
def stopCount (c : Course) (q : StopReq) (i : Nat) : Nat :=
  let mine (es : List LogEntry) : List Nat := (es.filter (fun e => e.member == i && !e.late && e.dest != 135)).map LogEntry.count
  if i == q.mem then q.count
  else if !c.log.any (fun e => e.member == i && e.dest != 135) then retiredIn i c.history
  else
    let later := mine (c.log.drop (stopMark c q))
    ((mine (c.log.take (stopMark c q))).filter (fun n => !later.contains n && decide (n ≤ SMap.get 0 c.retired i))).foldl max
      (retiredIn i (uptoStop q c.history))

/-- Register writes of a MATX among log entries, which take effect when the member's count reaches theirs (20 R363, R365). -/
def serveLate (es : List LogEntry) (i n : Nat) (m : Member) : Member :=
  (es.filter (fun e => e.late && e.member == i && e.count == n)).foldl (fun m e =>
    { m with sibs := m.sibs.zipIdx.map (fun rk => if rk.2 == e.sib then rk.1.writeNow (.reg e.dest (e.value.setWidth 32)) else rk.1) }) m

/-- The rebuilt state of a member (20 R365, R366). Writes of a MATX that come after the stop in log order reach the named member alone,
whose count they name (notes/assumptions/81.md). -/
def rebuilt (c : Course) (q : StopReq) (i : Nat) : Member :=
  let n := stopCount c q i
  let m := serveLate (if i == q.mem then c.log else c.log.take (stopMark c q)) i n (c.after i n)
  { m with sibs := m.sibs.map Regs.settleAll }

/-- The plumb word that re-execution computes for one of the course (20 R369, R370). -/
def Course.plumb (c : Course) (p : Plumb) : Nat :=
  let m := serveLate c.log p.mem (p.count - 1) (c.after p.mem (p.count - 1))
  plumbWord p.busy p.icount (m.sibs.getD p.sib Regs.zero)

/-- The plumb word that the written log holds (20 R363, R370). -/
def loggedPlumb (log : List Byte) (p : Plumb) : Option Nat :=
  (List.range (log.length / 16)).findSome? (fun k =>
    let e := fieldAt log (16 * k) 16
    if bitsAt e 56 8 == 135 && bitsAt e 42 12 == p.mem % 2 ^ 12 && bitsAt e 40 2 == p.sib % 4 && bitsAt e 0 40 == p.count % 2 ^ 40 then
      some (bitsAt e 64 32)
    else none)

/-- Whether a plumb word computed up to the stop differs from the one logged (20 R365). -/
def diverged (c : Course) (q : StopReq) (log : List Byte) : Bool :=
  c.plumbs.any (fun p => decide (p.count ≤ stopCount c q p.mem) &&
    (match loggedPlumb log p with | some w => w != c.plumb p | none => false))

/-- The rebuilt frame: the course's snapshot with the members' states in their thread records (20 R365). -/
def stopFrameBytes (B : Block) (c : Course) (q : StopReq) (snap : List Byte) : List Byte :=
  let me := rebuilt c q q.mem
  let head := snap.take 2 ++ [BitVec.ofNat 8 (setBitN (fieldAt snap 2 1) 3)] ++ (snap.drop 3).take 5 ++ leBytes 8 me.recordPc ++
    leBytes 8 me.icount.toNat ++ (snap.drop 24).take 2024
  let records := (List.range B.nthread).flatMap (fun k =>
    let i := if B.triad then k / 3 else k
    if (SMap.get Member.none c.start i).live then
      threadRecord (rebuilt c q i) (if B.triad then k % 3 else 0) false (fun _ => false) (fun _ => 0)
    else (snap.drop (2048 + 2048 * k)).take 2048)
  head ++ records ++ snap.drop (2048 + 2048 * B.nthread)

/-- The frame of a course whose area no longer holds what was written there: what its re-execution yields is free, in the header's PC and
ICOUNT and in the thread records (20 R365, R366; notes/assumptions/81.md). -/
def freeFrameBytes (s : State) (B : Block) (snap : List Byte) : List Byte :=
  let undef (o n : Nat) : List Byte := (List.range n).flatMap (fun k => leBytes 8 (Config.freeValue (s.choice + o + k)).toNat)
  snap.take 2 ++ [BitVec.ofNat 8 (setBitN (fieldAt snap 2 1) 3)] ++ (snap.drop 3).take 5 ++ undef 0 2 ++ (snap.drop 24).take 2024 ++
    undef 2 (256 * B.nthread) ++ snap.drop (2048 + 2048 * B.nthread)

/-- The result of a re-execution from the snapshot and the log as they are read: whether a plumb word diverges, and the frame. Where both are
as they were written, that is the course's own (20 R365, R366). -/
def reexecute (s : State) (B : Block) (c : Course) (q : StopReq) (snap log : List Byte) : State × Bool × List Byte :=
  if snap == c.snap.take snap.length && log == (c.log.take (log.length / 16)).flatMap LogEntry.bytes then
    (s, diverged c q log, stopFrameBytes B c q snap)
  else
    let (v, s) := s.free
    ({ s with choice := s.choice + (256 * B.nthread + 2) }, bitN v.toNat 0, freeFrameBytes s B snap)

/-- Report a request's status; GO reads 0 (20 R364). -/
def stopStatus (s : State) (r v : Nat) : State := debugBytes (debugBytes s r 107 1 0) r 124 1 v

/-- Hold a resident block: it takes no further entry, and issued instructions complete (19 R342; 20 R365, R367). One that has stopped for a
forced save, or waits for its gang, is held as it stands. -/
def holdBlock (s : State) (b : Nat) : State :=
  match (s.block b).state with
  | .running =>
    let s := leaveTables s b (fun _ => true)
    s.setBlock b { settleBlock (s.block b) with state := .heldForStop .running }
  | .stopping => s.setBlock b { s.block b with state := .heldForStop .stopping }
  | .gangWait => s.setBlock b { s.block b with state := .heldForStop .gang }
  | _ => s

/-- Remote accesses whose last reply came while their block was held are taken up (16 R293). -/
def wakeReplies (s : State) (b : Nat) : State :=
  let B := s.block b
  (replaySeqs B).foldl (fun s seq =>
    match (replayMembers B seq).find? (fun i => match (B.member i).wait with | some (.remote _ _) => true | _ => false) with
    | some i => if repliesIn B seq then wakeGroup s b i else s
    | none => s) s

/-- Let a held block go on where it was held: its waits stand, its other threads enter their tables (20 R367); a stopped one goes on
waiting for its save, and one of a gang starts with it. -/
def unholdBlock (s : State) (b : Nat) : State :=
  let B := s.block b
  match B.state with
  | .heldForStop .running => wakeReplies (seatBlock (s.setBlock b { B with state := .running }) b) b
  | .heldForStop .stopping => s.setBlock b { B with state := .stopping }
  | .heldForStop .gang => s.setBlock b { B with state := .gangWait }
  | .heldForStop .started => resumeBlock s b
  | _ => s

/-- End a region's request: its block goes on, and no request is outstanding (20 R364, R367). -/
def endStop (s : State) (region : Nat) : State :=
  let D := s.debug region
  let s := s.setDebug region { D with stop := none, stopBlk := none, stopFrame := none }
  match D.stopBlk with
  | some b => unholdBlock s b
  | none => s
def refuseStop (s : State) (region : Nat) : State := stopStatus (endStop s region) region 3

/-- The re-execution of a stop that may proceed, into frame `n` (20 R365): snapshot and log are read from the course area. -/
def runStop (s : State) (region b n : Nat) (q : StopReq) (c : Course) : State :=
  let B := s.block b
  let D := s.debug region
  let w := keystoneOf region (coreDie B.core)
  let at_ := courseAddr D ((B.course.map CourseSlot.slot).getD 0) c.number
  let o := effOwner s.regions 4 s.regions.length region
  let E := s.region o
  let head := 2048 + 2048 * B.nthread
  match readRange s w at_ head with
  | (s, .error _) => refuseStop s region
  | (s, .ok h) => match readRange s w at_ (head + 2368 * fieldAt h 82 2) with
    | (s, .error _) => refuseStop s region
    | (s, .ok snap) => match readRange s w (at_ + c.snap.length) (16 * min c.log.length (logRoom D c)) with
      | (s, .error _) => refuseStop s region
      | (s, .ok log) =>
        let (s, differs, frame) := reexecute s B c q snap log
        if differs then stopStatus s region 4
        else match writeRange s w (E.frameBase + E.frameSize * n) frame with
          | (s, some _) => refuseStop s region
          | (s, none) =>
            let s := s.setRegion o { s.region o with frames := n :: (s.region o).frames }
            stopStatus (debugBytes (s.setDebug region { s.debug region with stopFrame := some n }) region 120 4 n) region 2

/-- Stop and hold the block of a request, if it is resident and not held yet; its log reaches the course area (20 R365). -/
def stopHold (s : State) (region b : Nat) : State :=
  match (s.block b).state with
  | .running | .stopping | .gangWait =>
    let s := writeLog (holdBlock { s with reqs := [] } b) b
    s.setDebug region { s.debug region with stopBlk := some b }
  | _ => s

/-- A region's outstanding request goes on (20 R364 to R367): it is refused, waits for a handler's RETT or for a frame, or is re-executed. -/
def stopOnce (s : State) (region : Nat) (q : StopReq) : State :=
  match ((s.debug region).stopBlk <|> stopTarget s region q) with
  | none => refuseStop s region
  | some b => match stopCourse s b q with
    | none => refuseStop s region
    | some c =>
      if match (s.block b).state with | .frameWait _ | .handled _ _ => true | _ => false then s
      else
        let s := stopHold s region b
        match pickFrame s region with
        | none => s
        | some n => runStop { s with reqs := [] } region b n q c

/-- STOP_REQUEST (20 R364 to R367): the outstanding request of a region is taken up while its STATUS is BUSY. -/
def execStopRequest (region : Nat) (s : State) : Result :=
  .next (match (s.debug region).stop with
    | none => s
    | some q =>
      if (s.region region).descr.isNone || (s.debug region).stopFrame.isSome || debugRead s region 124 1 != 1 then s
      else stopOnce s region q)

/-- The request that an update signal with GO starts: its fields are read then, and one runs at a time (20 R360, R364). -/
def startStop (s : State) (region : Nat) : State :=
  if (s.debug region).stop.isSome then s
  else
    let q := stopReq s region
    stopOnce (stopStatus (s.setDebug region { s.debug region with stop := some q }) region 1) region q

/-- STOP_RELEASE: the host writes STATUS := IDLE; the block goes on and the rebuilt frame is freed (20 R367). -/
def execStopRelease (region : Nat) (s : State) : Result :=
  .next (
    let D := s.debug region
    if (s.region region).descr.isNone then s
    else
      let s := stopStatus (endStop s region) region 0
      match D.stopFrame with
      | some n => frameFreed (freeFrame s region n) region
      | none => s)

end Sys2Proof.Machine
end

