-- ==== Sys2Proof/Machine/Regions.lean ====
section
/-!
DEFINITION. Region commands of the host: control blocks, registration, update and end (spec 15 R252 to R255; 18 R314, R323, R336; 19 R339),
debug descriptors (20 R360) and arenas (15 R384), and the launch doorbell (18 R336).
-/
namespace Sys2Proof.Machine

/-- The host-written fields of a control block at `pa` over a region's device fields (15 R252, 19 R339). -/
def readControl (s : State) (R : Region) (pa : Nat) : Region :=
  let b := Memory.read s.mem pa 128
  { R with
    paddr := pa, parent := fieldAt b 2 2, ovr := fieldAt b 4 2, prio := fieldAt b 6 1, policy := fieldAt b 7 1
    weight := fieldAt b 8 2, cores := fieldAt b 10 2, slots := fieldAt b 12 4, slice := fieldAt b 16 4, tol := fieldAt b 20 4
    grace := fieldAt b 24 4, vquota := fieldAt b 32 8, dquota := fieldAt b 40 8, logBase := fieldAt b 48 8, logN := fieldAt b 56 4
    handler := fieldAt b 80 8, hmask := BitVec.ofNat 64 (fieldAt b 88 8), frameBase := fieldAt b 96 8, frameSize := fieldAt b 104 4
    nframe := fieldAt b 108 2, hlimit := fieldAt b 112 4 }

/-- Whether every field that is checked lies in its range: those with their OVR bit 1 and those with no OVR bit (15 R253). -/
def controlOk (id : Nat) (R : Region) : Bool :=
  let own (bit : Nat) (ok : Bool) : Bool := !bitN R.ovr bit || ok
  let within (x lo hi : Nat) : Bool := decide (lo ≤ x) && decide (x ≤ hi)
  id != 0 && decide (R.ovr < 2 ^ 10) && decide (R.policy < 2) && own 0 (decide (R.prio ≤ 15)) && own 1 (within R.weight 1 65535) &&
    own 2 (within R.slice 10 10000000) &&
    own 4 (within R.grace 1 1000000 && R.handler % 64 == 0 && decide (R.handler < 2 ^ 57) && R.frameBase % 4096 == 0 &&
      R.frameSize % 4096 == 0) &&
    own 5 (within R.cores 1 256) && own 9 (R.logBase % 32 == 0 && decide (R.logN ≤ 24))

/-- Whether a region with a new parent would lie on a cycle of the tree (15 R253). -/
def onCycle (s : State) (id parent : Nat) : Bool := parent == id || (s.ancestors parent).contains id

/-- REASON codes 1 to 4 of a control block, the lowest that applies (18 R336; 15 R253). -/
def controlReason (s : State) (id : Nat) (R : Region) : Nat :=
  if R.parent == 0 && R.ovr % 2 ^ 10 != 2 ^ 10 - 1 then 1
  else if R.parent != 0 && !(s.region R.parent).live then 2
  else if R.parent != 0 && onCycle s id R.parent then 3
  else if !controlOk id R then 4 else 0

/-- Device-written fields that registration starts at 0 (15 R252, 19 R339): STATUS, LOGWR, LOGDROP, EFFSLICE, LOSTCNT, FAULTCODE,
FAULTADDR. -/
def clearDevice (s : State) (pa : Nat) : State :=
  { s with mem := [(28, 4), (60, 4), (68, 4), (72, 8), (110, 2), (116, 4), (120, 8)].foldl (fun m f =>
      Memory.write m (pa + f.1) (leBytes f.2 0)) s.mem }

/-- REGROOT (18 R336). -/
def rootSet (s : State) : Bool := bitN s.host.regRoot.toNat 0
def rootStaged (s : State) : Nat := bitsAt s.host.regRoot.toNat 12 36 * 2 ^ 12
def clearRootSet (s : State) : State := { s with host := { s.host with regRoot := s.host.regRoot &&& ~~~1 } }

/-- EFFSLICE of a region and of every region below it, after a change of SLICE (15 R268). -/
def updateSlices (s : State) (r : Nat) : State :=
  s.regions.foldl (fun s kv => if (s.region kv.1).live && s.within kv.1 r then updateSlice s kv.1 else s) s

/-- REGISTER (15 R252, R253; 18 R336): the outcome's REASON. -/
def registerRegion (s : State) (pa id : Nat) : State × Nat :=
  let R := readControl s Region.none pa
  let c := controlReason s id R
  if c != 0 then (s, c)
  else if (s.region id).live then (s, 5)
  else if !rootSet s then (s, 7)
  else
    let (v, s) := s.free
    let s := clearRootSet (clearDevice s pa) |>.setRegion id { R with live := true, root := rootStaged s, srEst := v.toNat % 2 ^ 32 }
    (updateSlice s id, 0)

/-- Whether a region has a live grid. -/
def hasGrid (s : State) (r : Nat) : Bool := s.grids.any (fun kv => kv.2.region == r && !kv.2.complete)

/-- UPDATE (15 R252; 18 R314, R336): host fields are read again; a staged root takes effect at once, or with the next invalidation of a
region that has a live grid. -/
def updateRegion (s : State) (pa id : Nat) : State × Nat :=
  let R := readControl s (s.region id) pa
  let c := controlReason s id R
  if c != 0 then (s, c)
  else if !(s.region id).live then (s, 6)
  else
    let R := if !rootSet s then R
      else if hasGrid s id then { R with stagedRoot := some (rootStaged s) } else { R with root := rootStaged s, stagedRoot := none }
    (updateSlices (clearRootSet (s.setRegion id R)) id, 0)

/-- Blocks and operations of a grid leave the machine at once (15 R255). -/
def dropOps (s : State) (g : Nat) : State :=
  let own (b : Nat) : Bool := (s.block b).grid == g
  { s with
    cores := s.cores.map (fun kv => (kv.1, { kv.2 with
      matq := kv.2.matq.filter (fun o => !own o.blk), selq := kv.2.selq.filter (fun o => !own o.blk) }))
    dies := s.dies.map (fun kv => (kv.1, { kv.2 with
      copyq := kv.2.copyq.filter (fun o => !own o.blk), collq := kv.2.collq.filter (fun o => !own o.blk) }))
    outs := s.outs.filter (fun o => !(o.blk != 0 && own o.blk && !o.answered && o.op != 3)) }

/-- A grid of an ending region completes ABORTED (15 R255, R257). -/
def abortGrid (s : State) (g : Nat) : State :=
  if (s.grid g).complete then s
  else
    let s := endGrid (dropOps s g) g 7
    completeGrid (s.setGrid g { s.grid g with status := some 7 }) g

/-- A slot of a region that ends becomes EMPTY; its EXP stays, and its REGION reads 0 (07 R155, 15 R255; notes/assumptions/129.md). -/
def emptySlots (s : State) (hit : Nat → Bool) : State :=
  { s with cores := s.cores.map (fun kv => (kv.1, { kv.2 with
      coffer := kv.2.coffer.map (fun c => (c.1, if c.2.region != 0 && hit c.2.region then { c.2.clear with region := 0 } else c.2)) })) }

/-- Handle entries and result areas that remain are freed (16 R307). -/
def dropHandles (s : State) (r : Nat) : State :=
  s.dies.foldl (fun s kv => kv.2.handles.foldl (fun s e =>
    let h := mkHandle s.dev kv.1 e.1 e.2.gen
    if e.2.state != 0 && e.2.region == r then
      tellCallee (s.setHandle h { HandleEntry.free with gen := (e.2.gen + 1) % 2 ^ 34 }) e.2.exec h 0 0
    else s) s) s

/-- What remains of a region after its grids: asynchronous handlers end, areas and handles are freed, its masters leave the access
tables, and STATUS.ENDED is set (15 R255; 18 R323). -/
def closeRegion (s : State) (r : Nat) : State :=
  let s := s.blocks.foldl (fun s kv => if kv.2.region == r && kv.2.handler.isSome && kv.2.state != .ended then discardBlock s kv.1 else s) s
  let s := dropHandles s r
  let s : State := { s with
    asyncs := s.asyncs.filter (fun e => e.region != r)
    atab := s.atab.filter (fun e => bitsAt e.2.toNat 0 16 != r)
    regions := s.regions.map (fun kv => (kv.1, { kv.2 with areas := kv.2.areas.filter (fun a => a.2.2 != r) })) }
  let s := s.setRegion r { s.region r with
    live := false, stagedRoot := none, frames := [], areas := [], arenaBase := 0, arenaSize := 0, descr := none }
  orStatus (s.setDebug r Debug.none) r 2

/-- End a region and its descendants (15 R255): their live grids complete ABORTED and their Coffer slots become EMPTY. -/
def endRegion (s : State) (r : Nat) : State :=
  let below := (s.regions.filter (fun kv => kv.2.live && s.within kv.1 r)).map Prod.fst
  let s := s.grids.foldl (fun s kv => if below.contains kv.2.region then abortGrid s kv.1 else s) s
  below.foldl closeRegion (emptySlots s below.contains)

/-- A debug descriptor's host-written fields over its device counters (20 R360). -/
def readDebug (s : State) (D : Debug) (pa : Nat) : Debug :=
  let b := Memory.read s.mem pa 128
  { D with
    region := fieldAt b 0 2, enable := fieldAt b 2 2, courseLen := fieldAt b 4 4, snapBase := fieldAt b 8 8, snapSize := fieldAt b 16 4
    nslot := fieldAt b 20 4, trBase := fieldAt b 24 8, trLog := fieldAt b 32 4, plBase := fieldAt b 40 8, plLog := fieldAt b 48 4
    smBase := fieldAt b 56 8, smLog := fieldAt b 64 4, speriod := fieldAt b 72 4 }

/-- Whether a debug descriptor's fields are in range (20 R360). -/
def debugOk (D : Debug) (reserved : Nat) : Bool :=
  decide (D.enable < 16) && decide (1024 ≤ D.courseLen) && decide (D.courseLen ≤ 2 ^ 31) && D.snapBase % 4096 == 0 &&
    D.snapSize % 4096 == 0 && D.trBase % 32 == 0 && decide (D.trLog ≤ 24) && D.plBase % 16 == 0 && decide (D.plLog ≤ 24) &&
    D.smBase % 64 == 0 && decide (D.smLog ≤ 24) && decide (1 ≤ D.speriod) && decide (D.speriod ≤ 2 ^ 24) && reserved == 0

/-- Course slots of a region's blocks are given up (20 R361). -/
def dropCourses (s : State) (r : Nat) : State :=
  { s with blocks := s.blocks.map (fun kv => if kv.2.region == r then (kv.1, { kv.2 with course := none }) else kv) }

/-- What a descriptor leaves behind: a held block goes on, its frame is freed, course slots are given up, and no block of the region is
observed any more (20 R360, R361, R367). -/
def clearDebug (s : State) (id : Nat) : State :=
  let D := s.debug id
  let s := endStop s id
  let s := match D.stopFrame with | some n => frameFreed (freeFrame s id n) id | none => s
  let s := dropCourses s id
  { s with blocks := s.blocks.map (fun kv => if kv.2.region == id then (kv.1, { kv.2 with dbg := false }) else kv) }

/-- Bytes of a descriptor that are 0 (20 R360, R364). -/
def debugZeros (s : State) (pa : Nat) : Nat := Memory.nat s.mem (pa + 80) 16 + Memory.nat s.mem (pa + 125) 3

/-- REGISTER, UPDATE and REMOVE of a debug descriptor (20 R360). Device counters, FRAME and STATUS start at 0; a descriptor applies to blocks created or
restored after it is registered. An UPDATE reads the host's fields again, and one with GO starts a stop request, which names courses, instead of
giving up the course slots (20 R361, R364). -/
def registerDebug (s : State) (pa id : Nat) : State × Nat :=
  let D := readDebug s Debug.none pa
  if !(s.region id).live || id == 0 then (s, 6)
  else if !debugOk D (debugZeros s pa) then (s, 4)
  else
    let s := clearDebug s id
    let s : State := { s with mem := [(36, 4), (52, 4), (68, 4), (76, 4), (120, 5)].foldl (fun m f =>
      Memory.write m (pa + f.1) (leBytes f.2 0)) s.mem }
    ((s.setRegion id { s.region id with descr := some pa }).setDebug id D, 0)
def updateDebug (s : State) (pa id : Nat) : State × Nat :=
  let D := readDebug s (s.debug id) pa
  if !(s.region id).live || (s.region id).descr.isNone then (s, 6)
  else if !debugOk D (debugZeros s pa) then (s, 4)
  else
    let s := (s.setRegion id { s.region id with descr := some pa }).setDebug id D
    if debugRead s id 107 1 == 1 then (startStop s id, 0)
    else ((dropCourses s id).setDebug id { D with usedSlots := [] }, 0)
def removeDebug (s : State) (id : Nat) : State × Nat :=
  if !(s.region id).live || (s.region id).descr.isNone then (s, 6)
  else
    let s := clearDebug s id
    ((s.setRegion id { s.region id with descr := none }).setDebug id Debug.none, 0)

/-- SET ARENA (15 R384). -/
def setArena (s : State) (pa id : Nat) : State × Nat :=
  let b := Memory.read s.mem pa 128
  let base := fieldAt b 8 8
  let size := fieldAt b 16 8
  if id == 0 || fieldAt b 2 6 != 0 || fieldAt b 24 104 != 0 || base % 2 ^ 16 != 0 || 2 ^ 57 ≤ base || size % 2 ^ 16 != 0 then (s, 4)
  else if !(s.region id).live then (s, 6)
  else if hasGrid s id || (s.region id).areas != [] then (s, 8)
  else (s.setRegion id { s.region id with arenaBase := base, arenaSize := size }, 0)

/-- REGCMD with GO (18 R336): the command acts, REGCMD keeps OP and PADDR, and REGSTAT tells the outcome. -/
def regCommand (s : State) (op pa : Nat) : State :=
  let pa := bitsAt pa 7 31 * 128
  let id := Memory.nat s.mem pa 2
  let s0 := { s with reqs := [] }
  let (t, reason) : State × Nat := match op with
    | 1 => registerRegion s0 pa id
    | 2 => updateRegion s0 pa id
    | 3 => if (s.region id).live then (endRegion s0 id, 0) else (s, 6)
    | 4 => registerDebug s0 pa id
    | 5 => updateDebug s0 pa id
    | 6 => removeDebug s0 id
    | 7 => setArena s0 pa id
    | _ => (s, 0)
  let status := if reason == 0 && op != 0 then 2 else 3
  { t with host := { t.host with
      regCmd := BitVec.ofNat 64 (op % 8 * 2 ^ 60 + pa), regStat := BitVec.ofNat 64 (status + reason * 2 ^ 8 + id * 2 ^ 16) } }

/-- REGISTER_REGION, UPDATE_REGION and END_REGION (15 R252, R255). -/
def execRegisterRegion (paddr : Nat) (s : State) : Result := .next (regCommand s 1 paddr)
def execUpdateRegion (paddr : Nat) (s : State) : Result := .next (regCommand s 2 paddr)
def execEndRegion (paddr : Nat) (s : State) : Result := .next (regCommand s 3 paddr)
/-- REGISTER_DEBUG_DESCRIPTOR, UPDATE_DEBUG_DESCRIPTOR and REMOVE_DEBUG_DESCRIPTOR (20 R360). -/
def execRegisterDebugDescriptor (paddr : Nat) (s : State) : Result := .next (regCommand s 4 paddr)
def execUpdateDebugDescriptor (paddr : Nat) (s : State) : Result := .next (regCommand s 5 paddr)
def execRemoveDebugDescriptor (paddr : Nat) (s : State) : Result := .next (regCommand s 6 paddr)
/-- SET_ARENA (15 R384). -/
def execSetArena (paddr : Nat) (s : State) : Result := .next (regCommand s 7 paddr)

/-- A write to LAUNCH (18 R336): the record is read at its physical address; REGION 0 fails with REGION. The host link attaches to
die 0 (01 R16). -/
def hostLaunch (s : State) (value : Nat) : State :=
  let r := LaunchRec.of (Memory.read s.mem (bitsAt value 6 32 * 64) 128)
  let (s, status, g) := launch { s with reqs := [] } none 0 r
  { s with host := { s.host with launchStat := BitVec.ofNat 64 (status + g * 2 ^ 32) } }

/-- HOST_LAUNCH (18 R336). -/
def execHostLaunch (value : BitVec 64) (s : State) : Result := .next (hostLaunch s value.toNat)

end Sys2Proof.Machine
end

