-- ==== Sys2Proof/Machine/Fence.lean ====
section
/-!
DEFINITION. In-service fencing and return of cores, array rows, ports and dies (spec 06 R126; 15 R255; 18 R331, R332; 19 R357).
-/
namespace Sys2Proof.Machine

/-- Fields of a FENCECTL request (18 R331). -/
structure FenceReq where
  op : Nat
  kind : Nat
  die : Nat
  row : Nat
  core : Nat
  port : Nat
  deriving DecidableEq, Repr

def FenceReq.of (v : Nat) : FenceReq :=
  { op := bitsAt v 61 2, kind := bitsAt v 58 3, die := bitsAt v 56 2, row := bitsAt v 48 8, core := bitsAt v 40 6, port := bitsAt v 32 4 }

/-- Writable bits of FENCECTL, and a request's outcome in STATUS (18 R331). -/
def fenceMask : W64 := 0x7FFF_3F0F_0000_0000
def fenceStatus (s : State) (v : W64) (st : Nat) : State :=
  { s with host := { s.host with fenceCtl := (v &&& fenceMask) ||| BitVec.ofNat 64 st } }

/-- Blocks on a core that are neither handlers nor ended. -/
def coreBlocks (s : State) (c : Nat) : List Nat :=
  (s.blocks.filter (fun kv => kv.2.core == c && kv.2.resident && kv.2.handler.isNone)).map Prod.fst

/-- A grid that a fence ends FAULTED (18 R332, 19 R357). -/
def fenceFault (s : State) (g : Nat) : State := orStatus (endGrid s g 6) (s.grid g).region 4

/-- Save a resident block for a fence, with its GANG grid; where no area can be taken, a core or die fence ends its grid FAULTED, and the
save for an array row waits. A block that has operations in flight is stopped until they are done; one with a handler stays (15 R269; 18 R332;
19 R357). -/
def fenceSave (row : Bool) (s : State) (b : Nat) : State :=
  if !(s.block b).resident then s
  else
    let bs := withGang s b
    if !bs.all (fun b => stoppable (s.block b)) then s
    else if !bs.all (savable s) then bs.foldl stopForSave s
    else match saveAll s true bs with
      | some t => t
      | none => if row then bs.foldl runOn s else fenceFault s (s.block b).grid

/-- Whether nothing is resident on a core. -/
def coreEmpty (s : State) (c : Nat) : Bool := (residents s c).isEmpty

def fenceCores (s : State) (row : Bool) (cs : List Nat) : State :=
  cs.foldl (fun s c => (coreBlocks s c).foldl (fenceSave row) s) { s with reqs := [] }

/-- A GANG grid that no longer has room ends FAULTED (18 R332). -/
def gangRooms (s : State) : State :=
  s.grids.foldl (fun s kv =>
    let G := kv.2
    let needs : List (BlockNeed × Nat) :=
      if G.stages == [] then [(G.need 0, G.nblocks)] else G.stages.zipIdx.map (fun k => (G.need k.2, k.1.created + k.1.want))
    if G.gang && !G.complete && G.status.isNone && !budgetOk s G.region true needs then fenceFault s kv.1 else s) s

/-- Leaves of a region's tables (18 R315): entry and page size. -/
def tableLeaves (m : Memory) : List (Nat × Nat × Option Nat) → Nat → List (Nat × Nat)
  | [], _ => []
  | (_, n, leafSize) :: rest, table =>
    if 2 ^ 38 ≤ table then []
    else (List.range (2 ^ n)).flatMap (fun k =>
      let e := Memory.nat m (table + 8 * k) 8
      if e % 2 == 0 then []
      else if e / 2 % 8 == 0 then tableLeaves m rest (bitsAt e 12 36 * 2 ^ 12)
      else match leafSize with
        | some size => [(e, size)]
        | none => [])

/-- Whether a page lies on a die: homed on it, or in its vaults; an interleaved page is homed on every die (10 R184). -/
def leafOnDie (d : Nat) (l : Nat × Nat) : Bool :=
  let pa := bitsAt l.1 17 33 * 2 ^ 16
  if bitN l.1 16 then pa / 2 ^ 30 == d
  else if 2 ^ 47 ≤ pa then false
  else decide (bitsAt l.1 7 3 < 4) || bitsAt l.1 7 3 - 4 == d

/-- Whether a region has a page homed on a die, a vault page on it, a sync word in it, or a handle entry in it (18 R332). -/
def touchesDie (s : State) (r d : Nat) : Bool :=
  (tableLeaves s.mem walkLevels (s.region r).root).any (leafOnDie d) ||
    s.atab.any (fun e => e.1 / 1024 == targetKeystone d && bitsAt e.2.toNat 0 16 == r && bitsAt e.2.toNat 32 4 != 0) ||
    (s.die d).handles.any (fun e => e.2.state != 0 && e.2.region == r)

/-- Fence a port: its streams are castled (16 R288; 18 R332). -/
def fencePort (s : State) (p : Nat) : State := castlePort (noteRoutes s (s.setPort p { s.port p with fenced := true })) p

/-- The user-mode queues of a die stop with STATE OFF (12 R243; 18 R332). -/
def stopQueues (s : State) (d : Nat) : State :=
  (s.die d).qtab.foldl (fun s kv => if kv.2.valid then queueOff s d (kv.1 / 16) (kv.1 % 16) else s) s

def dieCores (d : Nat) : List Nat := (List.range 64).map (fun k => 64 * d + k)

/-- A fence takes what it can take now; the answer says whether it is done (18 R332). -/
def fenceOnce (s : State) (q : FenceReq) : State × Bool :=
  let c := 64 * q.die + q.core
  match q.kind with
  | 0 =>
    let s := fenceCores (s.setCore c { s.core c with fenced := true }) false [c]
    if coreEmpty s c then (gangRooms (s.setCore c { s.core c with power := 2 }), true) else (s, false)
  | 1 =>
    let s := fenceCores s true [c]
    if coreEmpty s c then
      let C := s.core c
      let rows := if C.rowsFenced.contains q.row then C.rowsFenced else q.row :: C.rowsFenced
      (gangRooms (s.setCore c { C with rowsFenced := rows }), true)
    else (s, false)
  | 2 => (fencePort s (16 * q.die + q.port), true)
  | _ =>
    let s := s.setDie q.die { s.die q.die with fencedCompute := true }
    let s := fenceCores (stopQueues s q.die) false (dieCores q.die)
    if !(dieCores q.die).all (coreEmpty s) || (s.die q.die).copyq != [] then (s, false)
    else
      let s := gangRooms ((dieCores q.die).foldl (fun s c => s.setCore c { s.core c with power := 2 }) s)
      if q.kind == 3 then (s, true)
      else
        let hit := (s.regions.filter (fun kv => kv.2.live && touchesDie s kv.1 q.die)).map Prod.fst
        let s := hit.foldl endRegion s
        let s := s.setDie q.die { s.die q.die with fencedFull := true }
        ((List.range 16).foldl (fun s i => fencePort s (16 * q.die + i)) s, true)

def FenceReq.ok (q : FenceReq) : Bool := decide (q.kind ≤ 4) && (q.kind != 1 || decide (q.row < 192))
def fenceBusy (s : State) : Bool := s.host.fenceCtl.toNat % 256 == 1

/-- FENCE_PART: a fence begins, or the one that is BUSY goes on once its blocks can be saved, whatever the fields of FENCECTL say by then
(18 R331, R332). -/
def execFencePart (value : BitVec 64) (s : State) : Result :=
  .next (
    let busy := fenceBusy s
    let v := if busy then s.host.fenceReq else value
    let q := FenceReq.of v.toNat
    if q.op != 1 || !q.ok then fenceStatus s v 3
    else
      let (s, done) := fenceOnce { s with host := { s.host with fenceReq := v } } q
      fenceStatus s (if busy then s.host.fenceCtl else v) (if done then 2 else 1))

/-- Put the named part back into service: the compute part of a die that is fenced whole stays out of service with it (18 R332). -/
def returnOnce (s : State) (q : FenceReq) : State :=
  let c := 64 * q.die + q.core
  match q.kind with
  | 0 => s.setCore c { s.core c with fenced := false, power := 0 }
  | 1 => s.setCore c { s.core c with rowsFenced := (s.core c).rowsFenced.filter (fun r => r != q.row) }
  | 2 => s.setPort (16 * q.die + q.port) { s.port (16 * q.die + q.port) with fenced := false }
  | _ =>
    let s := (dieCores q.die).foldl (fun s c => if (s.core c).fenced then s else s.setCore c { s.core c with power := 0 }) s
    let s := s.setDie q.die { s.die q.die with fencedCompute := false, fencedFull := (s.die q.die).fencedFull && q.kind != 4 }
    if q.kind == 4 then
      (List.range 16).foldl (fun s i => s.setPort (16 * q.die + i) { s.port (16 * q.die + i) with fenced := false }) s
    else s

/-- RETURN_PART: refused when the part fails its self-test (18 R332). -/
def execReturnPart (value : BitVec 64) (selfTest : Bool) (s : State) : Result :=
  .next (
    let q := FenceReq.of value.toNat
    if fenceBusy s then s
    else if q.op != 2 || !q.ok || !selfTest then fenceStatus s value 3
    else fenceStatus (returnOnce s q) value 2)

end Sys2Proof.Machine
end

