-- ==== Sys2Proof/Machine/Window.lean ====
section
/-!
DEFINITION. The host register window: die pages, module registers, routes and counters (spec 10 R197; 16 R282, R300; 18 R331 to R337),
links that train again and switches that fail (16 R287, R289), access-table updates (18 R321, R323) and host accesses to memory (10 R187,
R197; 11 R214).
-/
namespace Sys2Proof.Machine

/-- DEVID (16 R282; 18 R336): the first write sets it; a later one drops every stream, each of which is lost, and trains the links
again. No collective survives it. -/
def writeDevid (s : State) (v : Nat) : State :=
  let set (s : State) : State := { s with host := { s.host with devid := v % 2 ^ 12, devidSet := true } }
  if !s.host.devidSet then set s
  else
    let keys := distinct (s.sends.map Prod.fst ++ s.recvs.map Prod.fst)
    let s := keys.foldl (fun s k => if k / 4 == s.dev then s else loseStream s (k / 4) (k % 4)) { s with reqs := [] }
    let s := loseColls s (fun _ => true)
    set { s with ports := s.ports.map (fun kv => (kv.1, { kv.2 with failed := false, trained := true })) }

/-- DEVID_WRITE (16 R282). -/
def execDevidWrite (value : BitVec 64) (s : State) : Result := .next (writeDevid s value.toNat)

/-- TLBICMD (18 R335): GO invalidates on every core and STATUS then reads DONE. -/
def tlbiMask : W64 := 0x4003_FFFF_FFFC_FFFF
def writeTlbicmd (s : State) (d : Nat) (v : W64) : State :=
  let D := s.die d
  let n := v.toNat
  let go := bitN n 63
  let st := if go then 2 else bitsAt D.tlbiCmd.toNat 16 2
  let s := s.setDie d { D with tlbiCmd := (v &&& tlbiMask) ||| BitVec.ofNat 64 (st * 2 ^ 16) }
  if go then
    tlbInvalidate s (bitsAt n 0 16) (if bitN n 62 then none else tlbRange (D.tlbiAddr.toNat % 2 ^ 57) (bitsAt n 18 32))
  else s

/-- HOST_TLB_INVALIDATE: a write of TLBICMD with GO (18 R335). -/
def execHostTlbInvalidate (die : Nat) (value : BitVec 64) (s : State) : Result :=
  .next (if die < 4 then writeTlbicmd s die (value ||| 0x8000_0000_0000_0000) else s)

/-- COUNTER_CLEAR and COUNTER_FREEZE: the bits of CNTCTL (10 R197). -/
def execCounterClear (die : Nat) (s : State) : Result := .next (if die < 4 then clearCounters s die else s)
def execCounterFreeze (die : Nat) (freeze : Bool) (s : State) : Result := .next (if die < 4 then freezeCounters s die freeze else s)

/-- HOVFBASE and HOVFCNT take a write only while no region is registered; a COUNT out of its range is ignored (16 R300). -/
def writeHovf (s : State) (d : Nat) (count : Bool) (v : Nat) : State :=
  let D := s.die d
  let n := v % 2 ^ 16
  if s.regions.any (fun kv => kv.2.live) then s
  else if count then (if n % 64 == 0 && decide (n ≤ 49152) then s.setDie d { D with hovfCnt := n } else s)
  else s.setDie d { D with hovfBase := bitsAt v 12 26 * 2 ^ 12 }

/-- HANDLE_OVERFLOW_CONFIG (16 R300). -/
def execHandleOverflowConfig (die : Nat) (count : Bool) (value : BitVec 64) (s : State) : Result :=
  .next (if die < 4 then writeHovf s die count value.toNat else s)

/-- A route-table entry; one that names a port above 63 other than 0xFF is ignored (18 R337). -/
def writeRoute (s : State) (m : Nat) (v : Nat) : State :=
  if m ≤ 4094 && (List.range 4).all (fun k => decide (bitsAt v (8 * k) 8 ≤ 63) || bitsAt v (8 * k) 8 == 0xFF) then
    noteRoutes s { s with host := { s.host with routes := SMap.set 0xFFFF_FFFF s.host.routes m (BitVec.ofNat 64 (v % 2 ^ 32)) } }
  else s

/-- ROUTE_TABLE_WRITE (18 R337). -/
def execRouteTableWrite (dst : Nat) (value : BitVec 64) (s : State) : Result := .next (writeRoute s dst value.toNat)

/-- DIEFAULT_CLEAR (18 R333). -/
def execDiefaultClear (die : Nat) (value : BitVec 64) (s : State) : Result :=
  .next (if die < 4 then clearDieFault s die value.toNat else s)

/-- A write of FENCECTL (18 R331): with GO a fence or a return, which is taken as passing its self-test; one with GO is ignored while a
request is BUSY, and one without GO changes the fields alone. -/
def writeFencectl (s : State) (v : W64) : State :=
  if bitN v.toNat 63 && fenceBusy s then s
  else
    let r := if !bitN v.toNat 63 then .next (fenceStatus s v (s.host.fenceCtl.toNat % 256))
      else if (FenceReq.of v.toNat).op == 2 then execReturnPart v true s else execFencePart v s
    match r with
    | .next t => t
    | _ => s

/-- An aligned host write of 8 bytes at an offset of the window (18 R334 to R337). An offset that is not assigned ignores it; what
is written to a Z field is dropped (notes/assumptions/105.md). -/
def writeWindow (s : State) (off : Nat) (v : W64) : State :=
  let n := v.toNat
  let d := off / 0x1000
  let o := off % 0x1000
  if off < 0x4000 then
    if o == 0x38 || o == 0x100 then diePageWrite s d o n
    else if o == 0x200 then s.setDie d { s.die d with tlbiAddr := BitVec.ofNat 64 (n % 2 ^ 57) }
    else if o == 0x208 then writeTlbicmd s d v
    else if o == 0x300 || o == 0x308 then writeHovf s d (o == 0x308) n
    else if decide (0x400 ≤ o) && decide (o < 0x800) then writeQtab s d ((o - 0x400) / 0x80) ((o - 0x400) % 0x80 / 8) v
    else s
  else if off == 0x8010 then writeDevid s n
  else if off == 0x8018 then { s with host := { s.host with idleTol := n % 2 ^ 32 } }
  else if off == 0x8020 then writeFencectl s v
  else if off == 0x8028 then hostLaunch s n
  else if off == 0x8040 then { s with host := { s.host with regRoot := v &&& 0x0000_FFFF_FFFF_F001 } }
  else if off == 0x8048 then
    (if bitN n 63 then regCommand s (bitsAt n 60 3) n else { s with host := { s.host with regCmd := v &&& 0x7000_003F_FFFF_FF80 } })
  else if decide (0x10000 ≤ off) && decide (off ≤ 0x17FF0) then writeRoute s ((off - 0x10000) / 8) n
  else s

/-- How the last access to the window ended: with an unsupported-request completion or not (18 R334). -/
def answered (s : State) (unsupported : Bool) : State := { s with host := { s.host with unsupported := unsupported } }

/-- REGISTER_WRITE (18 R334): a host access, which brings the die of its page, or the package, out of its power state (15 R280). One that
is not aligned completes with an unsupported-request completion and changes nothing. -/
def execRegisterWrite (offset : Nat) (value : BitVec 64) (s : State) : Result :=
  .next (if offset % 8 != 0 then answered s true
    else writeWindow (answered (if offset < 0x4000 then wakeDie s (offset / 0x1000) else wakePackage s) false) offset value)

/-- What an aligned host read of a register returns (18 R333 to R337); in RECOVERY only the mailbox answers the host (18 R327). -/
def readRegister (s : State) (off : Nat) : Nat :=
  let d := off / 0x1000
  let o := off % 0x1000
  let D := s.die d
  if s.host.mailboxState == 1 && off != 0x8008 then 0
  else if off < 0x4000 then
    if o == 0x200 then D.tlbiAddr.toNat
    else if o == 0x208 then D.tlbiCmd.toNat
    else if o == 0x300 then D.hovfBase
    else if o == 0x308 then D.hovfCnt
    else if decide (0x400 ≤ o) && decide (o < 0x800) then
      let k := D.queue ((o - 0x400) / 0x80) ((o - 0x400) % 0x80 / 8)
      k.paddr + boolN k.valid
    else (diePageRead s d o).getD 0
  else if off == 0x8000 then Config.classStamp
  else if off == 0x8008 then s.host.mailboxState + s.host.mailboxStep * 2 ^ 8 + boolN s.host.mailboxWarm * 2 ^ 16
  else if off == 0x8010 then s.host.devid
  else if off == 0x8018 then s.host.idleTol
  else if off == 0x8020 then s.host.fenceCtl.toNat
  else if off == 0x8030 then s.host.launchStat.toNat
  else if off == 0x8040 then s.host.regRoot.toNat
  else if off == 0x8048 then s.host.regCmd.toNat
  else if off == 0x8050 then s.host.regStat.toNat
  else if decide (0x10000 ≤ off) && decide (off ≤ 0x17FF0) then (s.route ((off - 0x10000) / 8)).toNat
  else 0

/-- A host read of the window: the register's value, or an unsupported-request completion for an access that is not aligned (18 R334). -/
def readWindow (s : State) (off : Nat) : Option Nat := if off % 8 != 0 then none else some (readRegister s off)

/-- LINK_RETRAIN: a port trains again; its PORTFAIL bit stays (16 R289; 18 R333). -/
def execLinkRetrain (port : Nat) (s : State) : Result :=
  .next (if port < 64 then s.setPort port { s.port port with failed := false, trained := true } else s)

/-- SWITCH_FAILURE: every port that leads to the switch fails (16 R287). -/
def execSwitchFailure (ports : List Nat) (s : State) : Result := .next (ports.foldl failPort s)

/-- ACCESS_TABLE_UPDATE: one whole entry (18 R321, R323). -/
def execAccessTableUpdate (target entry : Nat) (value : BitVec 128) (s : State) : Result :=
  .next (if entry < 1024 then
    { s with atab := SMap.set 0 s.atab (1024 * target + entry) (value &&& ~~~(((0xFFF_FFFF : BitVec 128)) <<< 36)) } else s)

/-- The master of a host access (18 R321). -/
def hostWho : Who := { region := 0, kind := 4, priv := false, core := none, die := none, src := 0 }

/-- One line of a host access to device memory, checked at its home (10 R184, R185; 18 R322), or of the host's own memory. -/
def hostPiece (s : State) (pa n : Nat) (write : Option (List Byte)) : State × List Byte :=
  if hostKey pa then
    (match write with
     | some bs => ({ s with mem := Memory.write s.mem pa bs }, [])
     | none => (s, Memory.read s.mem pa n))
  else if 2 ^ 38 < pa + n then (s, [])
  else match checkTarget s hostWho 0 pa n pa (if write.isSome then .write else .read) with
    | (s, some _) => (s, [])
    | (s, none) =>
      let p := physPage pa
      match write with
      | some bs => (countReq { s with mem := Memory.write s.mem pa bs } hostWho p pa 1, [])
      | none => (countReq s hostWho p pa 0, Memory.read s.mem pa n)

/-- HOST_MEMORY_ACCESS (11 R214): line by line; what a read returns is kept. -/
def execHostMemoryAccess (pa n : Nat) (write : Option (List (BitVec 8))) (s : State) : Result :=
  .next (
    let len := match write with | some bs => bs.length | none => n
    let (s, got) := (pieces (len / 64 + 2) pa len).foldl (fun (acc : State × List Byte) pc =>
      let (t, b) := hostPiece acc.1 pc.1 pc.2 (write.map (fun bs => (bs.drop (pc.1 - pa)).take pc.2))
      (t, acc.2 ++ b)) ({ s with reqs := [] }, [])
    if write.isSome then s else { s with host := { s.host with hostRead := got } })

end Sys2Proof.Machine
end

