-- ==== Sys2Proof/Machine/Start.lean ====
section
/-!
DEFINITION. Cold and warm starts, recovery and attestation (spec 18 R325 to R330), and which steps a module takes before it is READY.
-/
namespace Sys2Proof.Machine

/-- Fields of a firmware image (18 R326). -/
def imageVersion (b : List Byte) : Nat := fieldAt b 8 4
def imageLength (b : List Byte) : Nat := fieldAt b 12 4
def imageKey (b : List Byte) : List Byte := (b.drop 16).take 1793
def imageDigest (b : List Byte) : List Byte := Config.shake256 (b.take 16 ++ (b.drop 3136).take (imageLength b)) 64

/-- Whether the boot ROM accepts an image (18 R326). -/
def imageOk (b : List Byte) : Bool :=
  fieldAt b 0 8 == 0x3158_5248_4344_4C50 && decide (imageLength b ≤ 2 ^ 23) && decide (3136 + imageLength b ≤ b.length) &&
    ((b.drop 1809).take 47).all (fun x => x == 0) && Config.shake256 (imageKey b) 32 == Config.fusedKeyDigest &&
    decide (Config.fusedCounter ≤ imageVersion b) && Config.falconVerify (imageKey b) (imageDigest b) ((b.drop 1856).take 1280)

/-- Whether an address lies in a die's handle overflow area (16 R300). -/
def inOverflow (s : State) (a : Nat) : Bool :=
  s.dies.any (fun kv => decide (kv.2.hovfBase ≤ a) && decide (a < kv.2.hovfBase + 64 * kv.2.hovfCnt) && decide (a < 2 ^ 38))

/-- Device state after a start, at its reset values, with what a start does not reach: memory, REFT, the number of starts and the model's
own counters (18 R329, R330). The handle overflow areas are cleared (16 R300). -/
def restarted (s : State) (warm : Bool) : State :=
  { State.reset with
    mem := s.mem.filter (fun e => !inOverflow s e.1), reft := s.reft, choice := s.choice, issues := s.issues
    host := { HostRegs.reset with mailboxWarm := warm, starts := s.host.starts + 1 } }

/-- Mailbox of a start that stopped (18 R327, R329). -/
def mailbox (s : State) (state step : Nat) : State := { s with host := { s.host with mailboxState := state, mailboxStep := step } }

/-- Memory that step 6 keeps: the host's own, and on a warm start device memory and the vaults (18 R329, R330). -/
def keptMemory (warm : Bool) (m : Memory) : Memory := m.filter (fun e => hostKey e.1 || (warm && decide (e.1 < 2 ^ 49)))

/-- Steps 6 and 7: memory cleared, READY (18 R329). -/
def finishStart (s : State) (warm : Bool) (image : List Byte) (fail : Option Nat) : State :=
  if fail == some 6 then mailbox s 3 6
  else
    let s : State := { s with mem := keptMemory warm s.mem }
    if fail == some 7 then mailbox s 3 7
    else mailbox { s with host := { s.host with digest := imageDigest image, version := imageVersion image } } 2 0

/-- A start (18 R329): a step that fails stops it; an image that is refused leaves the boot ROM in RECOVERY (18 R327). -/
def start (s : State) (warm : Bool) (env : StartEnv) : State :=
  let t := restarted s warm
  match env.failStep with
  | some n =>
    if 1 ≤ n && n ≤ 4 then mailbox t 3 n
    else if n == 5 || !imageOk env.image then mailbox t 1 5
    else finishStart t warm env.image (some n)
  | none => if imageOk env.image then finishStart t warm env.image none else mailbox t 1 5

/-- COLD_START and WARM_START (18 R329, R330). Stored training parameters that fail make a step run as for a cold start, which changes
nothing that the model shows. -/
def execColdStart (env : StartEnv) (s : State) : Result := .next (start s false env)
def execWarmStart (env : StartEnv) (s : State) : Result := .next (start s true env)

/-- RECOVERY_IMAGE: an image that is accepted lets the start go on (18 R327). -/
def execRecoveryImage (image : List (BitVec 8)) (s : State) : Result :=
  .next (if s.host.mailboxState == 1 && imageOk image then finishStart s s.host.mailboxWarm image none else s)

/-- What a report covers (18 R328), in the order of the rule (notes/assumptions/4.md). -/
def reportBody (s : State) (nonce : List Byte) : List Byte :=
  nonce ++ s.host.digest ++ leBytes 4 s.host.version ++ leBytes 8 Config.classStamp ++ Config.fuseConfig ++
    (List.range 256).map (fun c => BitVec.ofNat 8 (boolN (s.core c).fenced)) ++
    (List.range 256).flatMap (fun c => leBytes 24 ((List.range 192).foldl (fun a r => a + boolN ((s.core c).rowsFenced.contains r) * 2 ^ r) 0)) ++
    (List.range 64).map (fun p => BitVec.ofNat 8 (boolN (s.port p).fenced)) ++
    (List.range 4).map (fun d => BitVec.ofNat 8 (boolN (s.die d).fencedCompute + 2 * boolN (s.die d).fencedFull)) ++
    [BitVec.ofNat 8 (boolN s.host.mailboxWarm)]

/-- ATTESTATION_REPORT: signed over SHAKE256 under the key that fused secrets and the image digest give (18 R328). -/
def execAttestationReport (nonce : List (BitVec 8)) (s : State) : Result :=
  .next (if 64 < nonce.length then s
    else
      let body := reportBody s nonce
      { s with host := { s.host with report := body ++ Config.falconSign s.host.digest (Config.shake256 body 64) } })

/-- Steps of the module while no start has reached READY: only a start or a recovery image (18 R327, R329). -/
def allowed (s : State) (i : Instr) : Bool :=
  s.host.mailboxState == 2 || (match i with
    | .coldStart _ => true
    | .warmStart _ => true
    | .recoveryImage _ => true
    | _ => false)

end Sys2Proof.Machine
end

