-- ==== Sys2Proof/Machine/Dispatch.lean ====
section
/-!
DEFINITION. The dispatch of every row of the opcode table to its meaning, one arm per constructor of Instr.
-/
namespace Sys2Proof.Machine

def exec (i : Instr) (s : State) : Host.Outcome State Fault Refusal :=
  match i with
  | .iadd x => Sys2Proof.Machine.execIadd x s
  | .iaddBase x => Sys2Proof.Machine.execIaddBase x s
  | .isub x => Sys2Proof.Machine.execIsub x s
  | .isubBase x => Sys2Proof.Machine.execIsubBase x s
  | .imul x => Sys2Proof.Machine.execImul x s
  | .imulBase x => Sys2Proof.Machine.execImulBase x s
  | .imulh x => Sys2Proof.Machine.execImulh x s
  | .imad x => Sys2Proof.Machine.execImad x s
  | .imadBase x => Sys2Proof.Machine.execImadBase x s
  | .idiv x => Sys2Proof.Machine.execIdiv x s
  | .idivBase x => Sys2Proof.Machine.execIdivBase x s
  | .irem x => Sys2Proof.Machine.execIrem x s
  | .imin x => Sys2Proof.Machine.execImin x s
  | .iminBase x => Sys2Proof.Machine.execIminBase x s
  | .imax x => Sys2Proof.Machine.execImax x s
  | .iabs x => Sys2Proof.Machine.execIabs x s
  | .iabsBase x => Sys2Proof.Machine.execIabsBase x s
  | .ineg x => Sys2Proof.Machine.execIneg x s
  | .andL x => Sys2Proof.Machine.execAndL x s
  | .andBase x => Sys2Proof.Machine.execAndBase x s
  | .orL x => Sys2Proof.Machine.execOrL x s
  | .xorL x => Sys2Proof.Machine.execXorL x s
  | .andn x => Sys2Proof.Machine.execAndn x s
  | .notL x => Sys2Proof.Machine.execNotL x s
  | .shl x => Sys2Proof.Machine.execShl x s
  | .shlBase x => Sys2Proof.Machine.execShlBase x s
  | .shr x => Sys2Proof.Machine.execShr x s
  | .sar x => Sys2Proof.Machine.execSar x s
  | .rot x => Sys2Proof.Machine.execRot x s
  | .bfx x => Sys2Proof.Machine.execBfx x s
  | .bfxBase x => Sys2Proof.Machine.execBfxBase x s
  | .bfi x => Sys2Proof.Machine.execBfi x s
  | .popc x => Sys2Proof.Machine.execPopc x s
  | .popcBase x => Sys2Proof.Machine.execPopcBase x s
  | .clz x => Sys2Proof.Machine.execClz x s
  | .brev x => Sys2Proof.Machine.execBrev x s
  | .perm x => Sys2Proof.Machine.execPerm x s
  | .permBase x => Sys2Proof.Machine.execPermBase x s
  | .icmp x => Sys2Proof.Machine.execIcmp x s
  | .icmpBase x => Sys2Proof.Machine.execIcmpBase x s
  | .isel x => Sys2Proof.Machine.execIsel x s
  | .iselBase x => Sys2Proof.Machine.execIselBase x s
  | .plop x => Sys2Proof.Machine.execPlop x s
  | .mov x => Sys2Proof.Machine.execMov x s
  | .movBase x => Sys2Proof.Machine.execMovBase x s
  | .movi x => Sys2Proof.Machine.execMovi x s
  | .movk x => Sys2Proof.Machine.execMovk x s
  | .movs x => Sys2Proof.Machine.execMovs x s
  | .getc x => Sys2Proof.Machine.execGetc x s
  | .setc x => Sys2Proof.Machine.execSetc x s
  | .fadd x => Sys2Proof.Machine.execFadd x s
  | .faddBase x => Sys2Proof.Machine.execFaddBase x s
  | .fsub x => Sys2Proof.Machine.execFsub x s
  | .fmul x => Sys2Proof.Machine.execFmul x s
  | .fmulBase x => Sys2Proof.Machine.execFmulBase x s
  | .ffma x => Sys2Proof.Machine.execFfma x s
  | .ffmaBase x => Sys2Proof.Machine.execFfmaBase x s
  | .fmin x => Sys2Proof.Machine.execFmin x s
  | .fminBase x => Sys2Proof.Machine.execFminBase x s
  | .fmax x => Sys2Proof.Machine.execFmax x s
  | .fdiv x => Sys2Proof.Machine.execFdiv x s
  | .fdivBase x => Sys2Proof.Machine.execFdivBase x s
  | .fsqrt x => Sys2Proof.Machine.execFsqrt x s
  | .fsqrtBase x => Sys2Proof.Machine.execFsqrtBase x s
  | .fcmp x => Sys2Proof.Machine.execFcmp x s
  | .fcmpBase x => Sys2Proof.Machine.execFcmpBase x s
  | .fclass x => Sys2Proof.Machine.execFclass x s
  | .fcvt x => Sys2Proof.Machine.execFcvt x s
  | .fcvti x => Sys2Proof.Machine.execFcvti x s
  | .icvtf x => Sys2Proof.Machine.execIcvtf x s
  | .dig x => Sys2Proof.Machine.execDig x s
  | .digBase x => Sys2Proof.Machine.execDigBase x s
  | .sibg x => Sys2Proof.Machine.execSibg x s
  | .dmean x => Sys2Proof.Machine.execDmean x s
  | .rand x => Sys2Proof.Machine.execRand x s
  | .randBase x => Sys2Proof.Machine.execRandBase x s
  | .frcp x => Sys2Proof.Machine.execFrcp x s
  | .frcpBase x => Sys2Proof.Machine.execFrcpBase x s
  | .frsq x => Sys2Proof.Machine.execFrsq x s
  | .fex2 x => Sys2Proof.Machine.execFex2 x s
  | .fex2Base x => Sys2Proof.Machine.execFex2Base x s
  | .flg2 x => Sys2Proof.Machine.execFlg2 x s
  | .fsin x => Sys2Proof.Machine.execFsin x s
  | .fsinBase x => Sys2Proof.Machine.execFsinBase x s
  | .fcos x => Sys2Proof.Machine.execFcos x s
  | .bra x => Sys2Proof.Machine.execBra x s
  | .braBase x => Sys2Proof.Machine.execBraBase x s
  | .jmp x => Sys2Proof.Machine.execJmp x s
  | .call x => Sys2Proof.Machine.execCall x s
  | .callBase x => Sys2Proof.Machine.execCallBase x s
  | .ret x => Sys2Proof.Machine.execRet x s
  | .exitT x => Sys2Proof.Machine.execExitT x s
  | .exitBase x => Sys2Proof.Machine.execExitBase x s
  | .elect x => Sys2Proof.Machine.execElect x s
  | .electBase x => Sys2Proof.Machine.execElectBase x s
  | .vote x => Sys2Proof.Machine.execVote x s
  | .yield x => Sys2Proof.Machine.execYield x s
  | .yieldBase x => Sys2Proof.Machine.execYieldBase x s
  | .waitc x => Sys2Proof.Machine.execWaitc x s
  | .waitcWake blk mem => Sys2Proof.Machine.execWaitcWake blk mem s
  | .nop x => Sys2Proof.Machine.execNop x s
  | .nopBase x => Sys2Proof.Machine.execNopBase x s
  | .hint x => Sys2Proof.Machine.execHint x s
  | .spinHintExpiry blk mem => Sys2Proof.Machine.execSpinHintExpiry blk mem s
  | .qcvt x => Sys2Proof.Machine.execQcvt x s
  | .qcvtBase x => Sys2Proof.Machine.execQcvtBase x s
  | .dqcvt x => Sys2Proof.Machine.execDqcvt x s
  | .plpack x => Sys2Proof.Machine.execPlpack x s
  | .shape x => Sys2Proof.Machine.execShape x s
  | .shapeBase x => Sys2Proof.Machine.execShapeBase x s
  | .shget x => Sys2Proof.Machine.execShget x s
  | .matx x => Sys2Proof.Machine.execMatx x s
  | .matxBase x => Sys2Proof.Machine.execMatxBase x s
  | .matxComplete core idx => Sys2Proof.Machine.execMatxComplete core idx s
  | .mstat x => Sys2Proof.Machine.execMstat x s
  | .mreset x => Sys2Proof.Machine.execMreset x s
  | .matrixWatchdog core => Sys2Proof.Machine.execMatrixWatchdog core s
  | .cfzero x => Sys2Proof.Machine.execCfzero x s
  | .cfzeroBase x => Sys2Proof.Machine.execCfzeroBase x s
  | .cfzeroComplete core idx => Sys2Proof.Machine.execCfzeroComplete core idx s
  | .cfread x => Sys2Proof.Machine.execCfread x s
  | .fold x => Sys2Proof.Machine.execFold x s
  | .foldComplete core idx => Sys2Proof.Machine.execFoldComplete core idx s
  | .foldTimeout core idx => Sys2Proof.Machine.execFoldTimeout core idx s
  | .drain x => Sys2Proof.Machine.execDrain x s
  | .drainComplete core idx => Sys2Proof.Machine.execDrainComplete core idx s
  | .mq16 x => Sys2Proof.Machine.execMq16 x s
  | .mq16Base x => Sys2Proof.Machine.execMq16Base x s
  | .mq32 x => Sys2Proof.Machine.execMq32 x s
  | .microStep blk mem => Sys2Proof.Machine.execMicroStep blk mem s
  | .selk x => Sys2Proof.Machine.execSelk x s
  | .selkBase x => Sys2Proof.Machine.execSelkBase x s
  | .smax x => Sys2Proof.Machine.execSmax x s
  | .samp x => Sys2Proof.Machine.execSamp x s
  | .redb x => Sys2Proof.Machine.execRedb x s
  | .selectionComplete core => Sys2Proof.Machine.execSelectionComplete core s
  | .ld x => Sys2Proof.Machine.execLd x s
  | .ldBase x => Sys2Proof.Machine.execLdBase x s
  | .st x => Sys2Proof.Machine.execSt x s
  | .ldbuf x => Sys2Proof.Machine.execLdbuf x s
  | .prf x => Sys2Proof.Machine.execPrf x s
  | .ldl x => Sys2Proof.Machine.execLdl x s
  | .ldlBase x => Sys2Proof.Machine.execLdlBase x s
  | .stl x => Sys2Proof.Machine.execStl x s
  | .lds x => Sys2Proof.Machine.execLds x s
  | .ldsBase x => Sys2Proof.Machine.execLdsBase x s
  | .sts x => Sys2Proof.Machine.execSts x s
  | .ldx x => Sys2Proof.Machine.execLdx x s
  | .ldf x => Sys2Proof.Machine.execLdf x s
  | .ldfBase x => Sys2Proof.Machine.execLdfBase x s
  | .ste x => Sys2Proof.Machine.execSte x s
  | .fullEmptyTransition blk mem => Sys2Proof.Machine.execFullEmptyTransition blk mem s
  | .tagset x => Sys2Proof.Machine.execTagset x s
  | .tagclr x => Sys2Proof.Machine.execTagclr x s
  | .walkBind x => Sys2Proof.Machine.execWalkBind x s
  | .walkBindBase x => Sys2Proof.Machine.execWalkBindBase x s
  | .walkNext x => Sys2Proof.Machine.execWalkNext x s
  | .walkerRunAhead blk mem w => Sys2Proof.Machine.execWalkerRunAhead blk mem w s
  | .atom x => Sys2Proof.Machine.execAtom x s
  | .atomBase x => Sys2Proof.Machine.execAtomBase x s
  | .red x => Sys2Proof.Machine.execRed x s
  | .fence x => Sys2Proof.Machine.execFence x s
  | .barArrive x => Sys2Proof.Machine.execBarArrive x s
  | .barWait x => Sys2Proof.Machine.execBarWait x s
  | .syncop x => Sys2Proof.Machine.execSyncop x s
  | .xcopy x => Sys2Proof.Machine.execXcopy x s
  | .xcopyBase x => Sys2Proof.Machine.execXcopyBase x s
  | .copyComplete die idx => Sys2Proof.Machine.execCopyComplete die idx s
  | .ownGive x => Sys2Proof.Machine.execOwnGive x s
  | .ownTake x => Sys2Proof.Machine.execOwnTake x s
  | .twaitany x => Sys2Proof.Machine.execTwaitany x s
  | .twaitanyBase x => Sys2Proof.Machine.execTwaitanyBase x s
  | .twaitall x => Sys2Proof.Machine.execTwaitall x s
  | .tfirst x => Sys2Proof.Machine.execTfirst x s
  | .blockedThreadWake blk mem => Sys2Proof.Machine.execBlockedThreadWake blk mem s
  | .queueNop die eng q => Sys2Proof.Machine.execQueueNop die eng q s
  | .queueCopy die eng q => Sys2Proof.Machine.execQueueCopy die eng q s
  | .queueQuantise die eng q => Sys2Proof.Machine.execQueueQuantise die eng q s
  | .queueFill die eng q => Sys2Proof.Machine.execQueueFill die eng q s
  | .queueSignal die eng q => Sys2Proof.Machine.execQueueSignal die eng q s
  | .queueBadtype die eng q => Sys2Proof.Machine.execQueueBadtype die eng q s
  | .queueHeaderFault die eng q => Sys2Proof.Machine.execQueueHeaderFault die eng q s
  | .queueRegionEnded die eng q => Sys2Proof.Machine.execQueueRegionEnded die eng q s
  | .queueResume die eng q => Sys2Proof.Machine.execQueueResume die eng q s
  | .queueEnable die eng q value => Sys2Proof.Machine.execQueueEnable die eng q value s
  | .queueDisable die eng q value => Sys2Proof.Machine.execQueueDisable die eng q value s
  | .dlaunch x => Sys2Proof.Machine.execDlaunch x s
  | .enq x => Sys2Proof.Machine.execEnq x s
  | .enqBase x => Sys2Proof.Machine.execEnqBase x s
  | .deq x => Sys2Proof.Machine.execDeq x s
  | .issueCycle core quarter => Sys2Proof.Machine.execIssueCycle core quarter s
  | .entryIdleTimeout core quarter entry => Sys2Proof.Machine.execEntryIdleTimeout core quarter entry s
  | .variableLatencyComplete blk mem sib reg => Sys2Proof.Machine.execVariableLatencyComplete blk mem sib reg s
  | .icacheFill blk va => Sys2Proof.Machine.execIcacheFill blk va s
  | .l1LineExpiry core line => Sys2Proof.Machine.execL1LineExpiry core line s
  | .blockCreate grid stage core spad places => Sys2Proof.Machine.execBlockCreate grid stage core spad places s
  | .sliceEnd blk => Sys2Proof.Machine.execSliceEnd blk s
  | .blockEvict blk => Sys2Proof.Machine.execBlockEvict blk s
  | .graceExpiry blk => Sys2Proof.Machine.execGraceExpiry blk s
  | .blockRestore blk core spad places => Sys2Proof.Machine.execBlockRestore blk core spad places s
  | .streamerMove blk core spad places => Sys2Proof.Machine.execStreamerMove blk core spad places s
  | .forwardingEntryExpiry core entry => Sys2Proof.Machine.execForwardingEntryExpiry core entry s
  | .stageReview grid => Sys2Proof.Machine.execStageReview grid s
  | .pipelineQuiesce grid => Sys2Proof.Machine.execPipelineQuiesce grid s
  | .gridComplete grid => Sys2Proof.Machine.execGridComplete grid s
  | .frequencyStepChange die step => Sys2Proof.Machine.execFrequencyStepChange die step s
  | .relockDone die => Sys2Proof.Machine.execRelockDone die s
  | .powerStateEnter part state => Sys2Proof.Machine.execPowerStateEnter part state s
  | .powerStateExit part => Sys2Proof.Machine.execPowerStateExit part s
  | .rld x => Sys2Proof.Machine.execRld x s
  | .rldBase x => Sys2Proof.Machine.execRldBase x s
  | .rst x => Sys2Proof.Machine.execRst x s
  | .ratom x => Sys2Proof.Machine.execRatom x s
  | .remoteRequestReceive src => Sys2Proof.Machine.execRemoteRequestReceive src s
  | .remoteReplyReceive src => Sys2Proof.Machine.execRemoteReplyReceive src s
  | .coll x => Sys2Proof.Machine.execColl x s
  | .collBase x => Sys2Proof.Machine.execCollBase x s
  | .collComplete die idx outcome => Sys2Proof.Machine.execCollComplete die idx outcome s
  | .collTimeout die idx => Sys2Proof.Machine.execCollTimeout die idx s
  | .callr x => Sys2Proof.Machine.execCallr x s
  | .callh x => Sys2Proof.Machine.execCallh x s
  | .invokeReceive src => Sys2Proof.Machine.execInvokeReceive src s
  | .callhAtHome src => Sys2Proof.Machine.execCallhAtHome src s
  | .waith x => Sys2Proof.Machine.execWaith x s
  | .hstat x => Sys2Proof.Machine.execHstat x s
  | .drophBreak x => Sys2Proof.Machine.execDrophBreak x s
  | .drophRelease x => Sys2Proof.Machine.execDrophRelease x s
  | .flitReceive port flit => Sys2Proof.Machine.execFlitReceive port flit s
  | .ackTimer src tc => Sys2Proof.Machine.execAckTimer src tc s
  | .keepaliveAck src => Sys2Proof.Machine.execKeepaliveAck src s
  | .gapTimeout src tc => Sys2Proof.Machine.execGapTimeout src tc s
  | .laneLockLoss port => Sys2Proof.Machine.execLaneLockLoss port s
  | .ackProgressTimeout port => Sys2Proof.Machine.execAckProgressTimeout port s
  | .castling port => Sys2Proof.Machine.execCastling port s
  | .streamLost dst tc => Sys2Proof.Machine.execStreamLost dst tc s
  | .replyStreamLost target => Sys2Proof.Machine.execReplyStreamLost target s
  | .trap x => Sys2Proof.Machine.execTrap x s
  | .trapBase x => Sys2Proof.Machine.execTrapBase x s
  | .bkpt x => Sys2Proof.Machine.execBkpt x s
  | .rett x => Sys2Proof.Machine.execRett x s
  | .frd x => Sys2Proof.Machine.execFrd x s
  | .fwr x => Sys2Proof.Machine.execFwr x s
  | .grpctl x => Sys2Proof.Machine.execGrpctl x s
  | .tlbi x => Sys2Proof.Machine.execTlbi x s
  | .handlerLimit blk => Sys2Proof.Machine.execHandlerLimit blk s
  | .courseEnd blk => Sys2Proof.Machine.execCourseEnd blk s
  | .stopRequest region => Sys2Proof.Machine.execStopRequest region s
  | .stopRelease region => Sys2Proof.Machine.execStopRelease region s
  | .registerRegion paddr => Sys2Proof.Machine.execRegisterRegion paddr s
  | .updateRegion paddr => Sys2Proof.Machine.execUpdateRegion paddr s
  | .endRegion paddr => Sys2Proof.Machine.execEndRegion paddr s
  | .registerDebugDescriptor paddr => Sys2Proof.Machine.execRegisterDebugDescriptor paddr s
  | .updateDebugDescriptor paddr => Sys2Proof.Machine.execUpdateDebugDescriptor paddr s
  | .removeDebugDescriptor paddr => Sys2Proof.Machine.execRemoveDebugDescriptor paddr s
  | .setArena paddr => Sys2Proof.Machine.execSetArena paddr s
  | .hostLaunch value => Sys2Proof.Machine.execHostLaunch value s
  | .devidWrite value => Sys2Proof.Machine.execDevidWrite value s
  | .fencePart value => Sys2Proof.Machine.execFencePart value s
  | .returnPart value selfTest => Sys2Proof.Machine.execReturnPart value selfTest s
  | .hostTlbInvalidate die value => Sys2Proof.Machine.execHostTlbInvalidate die value s
  | .counterClear die => Sys2Proof.Machine.execCounterClear die s
  | .counterFreeze die freeze => Sys2Proof.Machine.execCounterFreeze die freeze s
  | .handleOverflowConfig die count value => Sys2Proof.Machine.execHandleOverflowConfig die count value s
  | .routeTableWrite dst value => Sys2Proof.Machine.execRouteTableWrite dst value s
  | .diefaultClear die value => Sys2Proof.Machine.execDiefaultClear die value s
  | .registerWrite offset value => Sys2Proof.Machine.execRegisterWrite offset value s
  | .hostMemoryAccess pa n write => Sys2Proof.Machine.execHostMemoryAccess pa n write s
  | .coldStart env => Sys2Proof.Machine.execColdStart env s
  | .warmStart env => Sys2Proof.Machine.execWarmStart env s
  | .recoveryImage image => Sys2Proof.Machine.execRecoveryImage image s
  | .attestationReport nonce => Sys2Proof.Machine.execAttestationReport nonce s
  | .linkRetrain port => Sys2Proof.Machine.execLinkRetrain port s
  | .switchFailure ports => Sys2Proof.Machine.execSwitchFailure ports s
  | .accessTableUpdate target entry value => Sys2Proof.Machine.execAccessTableUpdate target entry value s

end Sys2Proof.Machine
end

