-- ==== Sys2Proof/Machine/Step.lean ====
section
/-!
DEFINITION. One step of the machine: the selected issue is fetched, decoded and executed; otherwise the next waiting step is
taken; otherwise the step that the machine's agents choose (spec 02 R35 to R38; 15 R264; notes/assumptions/1.md).
-/
namespace Sys2Proof.Machine

/-- Rows that are no instruction word: completions, scheduler, host and link events. -/
def isEvent (i : Instr) : Bool := i.ext?.isNone && i.base?.isNone

/-- Fetch, decode and execute the selected issue (02 R35, R38); the words of a FETCH_SPLIT frame are notes/assumptions/106.md. -/
def runIssue (is : Issue) (s : State) : Host.Outcome State Fault Refusal :=
  match fetchBytes s is with
  | (s, .error f) => .next (fetchTrap s is [] f)
  | (s, .ok bs) =>
    let len := lenOf (wordAt bs 0)
    if bs.length < len then .next (fetchTrap s is (bs.take len) { cause := .fetchSplit, fcode := 0, addr := 0 })
    else match decode (bs.take len) with
      | .error _ => .next (fetchTrap s is (bs.take len) { cause := .illegalInstruction, fcode := 0, addr := 0 })
      | .ok i => exec i s

/-- Take an event; a choice that names no event, or none that the module takes now, changes nothing (18 R327). -/
def runEvent (i : Instr) (s : State) : Host.Outcome State Fault Refusal :=
  if isEvent i && allowed s i then exec i s else .next s

def step (s : State) : Host.Outcome State Fault Refusal :=
  match s.cur with
  | some is => runIssue is s
  | none => match s.agenda with
    | .issue k :: r => .next (startIssue { s with agenda := r } k)
    | .courseEnd b :: r => .next (endCourse { s with agenda := r } b)
    | .event i :: r => runEvent i { s with agenda := r }
    | [] => runEvent (Config.nextEvent s.choice) { s with choice := s.choice + 1 }

/-- `s` with one instruction stored where the next step fetches its instruction (notes/assumptions/10.md). -/
def State.withFetchWord (s : State) (nbits w : Nat) : State := placeWord s (leBytes 20 (w % 2 ^ nbits))

end Sys2Proof.Machine
end

