-- ==== Sys2Proof/Safety.lean ====
section
/-!
DEFINITION. The terms that statements use: what a safe run is, when an issue of an instruction word meets nothing that keeps it from
executing, and what the machine is after it has executed.
-/
namespace Sys2Proof.Safety

open Machine

/-- `a` is at most `b`, for fractions with a denominator above 0. -/
def AtMost (a b : Q) : Prop := a.n * b.d ≤ b.n * a.d

/-- Two fractions of one value. -/
def SameValue (a b : Q) : Prop := a.n * b.d = b.n * a.d

/-- m × 2^k. -/
def dyadic (m : Nat) (k : Int) : Q := Q.shift ⟨m, 1⟩ k

/-- The bits `r` of a format stand for the finite value of sign `neg` and magnitude `w` (03 R44). -/
def StandsFor (f : Fmt) (neg : Bool) (r : Nat) (w : Q) : Prop := r < 2 ^ f.width ∧ fval f r = .fin neg w

/-- `r` is the representable value of sign `neg` next to the magnitude `q` toward zero (03 R52). -/
def TowardZero (f : Fmt) (neg : Bool) (q : Q) (r : Nat) : Prop :=
  ∃ w, StandsFor f neg r w ∧ AtMost w q ∧ ∀ b x, StandsFor f neg b x → AtMost x q → AtMost x w

/-- `r` is the representable value of sign `neg` next to the magnitude `q` away from zero, beyond the largest finite one infinity
(03 R52). -/
def AwayFromZero (f : Fmt) (neg : Bool) (q : Q) (r : Nat) : Prop :=
  (∃ w, StandsFor f neg r w ∧ AtMost q w ∧ ∀ b x, StandsFor f neg b x → AtMost q x → AtMost w x) ∨
    (r = signOf f neg + f.infBits ∧ ∀ b x, StandsFor f neg b x → ¬ AtMost q x)

/-- `w` lies on the same side of every number of at most `p` bits as the square root of `q`. -/
def LikeRoot (p : Nat) (q w : Q) : Prop :=
  ∀ m k, m < 2 ^ p → let g := dyadic m k
    (AtMost g w ↔ AtMost ⟨g.n * g.n, g.d * g.d⟩ q) ∧ (AtMost w g ↔ AtMost q ⟨g.n * g.n, g.d * g.d⟩)

/-- The memory `m'` is `m` with the bytes `bs` at the address `k`, and every other byte as before. -/
def WroteAt (m' m : Memory) (k : Nat) (bs : List Byte) : Prop :=
  ∀ a, m'.byte a = if k ≤ a ∧ a < k + bs.length then bs.getD (a - k) 0 else m.byte a

/-- The memory `m'` is `m` with `bs k` in plane `k` of a TRIPLET page, and every other byte as before (03 R65). -/
def WrotePlanes (m' m : Memory) (p : Page) (n : Nat) (bs : Nat → List Byte) : Prop :=
  ∀ a, m'.byte a = match (List.range 3).find? (fun k => decide (p.plane k ≤ a ∧ a < p.plane k + n)) with
    | some k => (bs k).getD (a - p.plane k) 0
    | none => m.byte a

/-- A step that answers a next state. -/
def goesOn (s : State) : Prop := ∃ t, step s = .next t

/-- The memory of the module is in canonical form. -/
def memOk (s : State) : Prop := Memory.wf s.mem = true

/-- An issue is selected, and no member stands twice in it (15 R264). -/
structure Issued (s : State) (is : Issue) : Prop where
  cur : s.cur = some is
  nodup : is.mems.Nodup

/-- Member `i` of an issue stands in no unfinished instruction (19 R341), its STEP bit is clear (19 R353), under ctl.stallchk its
guard and the registers `regs` that it reads meet no invisible write (02 R33), and, where the instruction can raise a
numerical-instability cause (`ni`) and the member is a triad, ctl.nimode disables all four (03 R59, R60). -/
structure Ready (ni : Bool) (x : Ext) (regs : List Nat) (s : State) (is : Issue) (i : Nat) : Prop where
  fresh : (s.member is.blk i).cap = none
  step : (s.member is.blk i).step = false
  guardSeen : undersized (s.member is.blk i) (guardRegs x) = false
  seen : (s.member is.blk i).guard x = true → undersized (s.member is.blk i) regs = false
  quiet : ni = true → (s.member is.blk i).sibs.length = 3 → ∀ c, c < 4 → niAction (s.member is.blk i) c = 0

/-- A member that has retired (02 R31, R32; 03 R49): it stands at `pc`, has counted the instruction unless it is a handler, and each
sibling holds its result of `outs` from `lat` on, or as a variable-latency result, its other registers aged by the declared
distance. Everything else in it is as before. -/
def retired (x : Ext) (lat : Option Nat) (handler : Bool) (m : Member) (outs : List SibOut) (pc : Nat) : Member :=
  { m with
    pc := pc
    came := m.pc
    icount := if handler then m.icount else m.icount + 1
    sibs := (applyOuts lat outs m.sibs).map (Regs.age (max x.stall 1))
    space := max x.stall 1
    cap := none
    wait := none }

/-- What an issue of one block leaves: every other block, the grids, regions, ports, streams, outstanding requests, access tables,
module registers, the reference time and waiting asynchronous causes. -/
structure IssueFrame (b : Nat) (s t : State) : Prop where
  others : ∀ c, c ≠ b → t.block c = s.block c
  grids : t.grids = s.grids
  regions : t.regions = s.regions
  ports : t.ports = s.ports
  sends : t.sends = s.sends
  recvs : t.recvs = s.recvs
  outs : t.outs = s.outs
  wire : t.wire = s.wire
  atab : t.atab = s.atab
  host : t.host = s.host
  reft : t.reft = s.reft
  asyncs : t.asyncs = s.asyncs

/-- The machine after a lane instruction of an issue (02 R24; 04 R73): each member with a true guard has retired with its results
`res` at its next PC `pcs`, each other member of the issue has retired with none, every thread outside the issue and every block
register but the uniform registers is as before, and, where no debug descriptor applies to the block, so is every byte of memory. -/
structure Retires (x : Ext) (lat : Option Nat) (s : State) (is : Issue) (t : State) (res : Nat → List SibOut)
    (pcs : Nat → Nat) (k : SMap W32) : Prop extends IssueFrame is.blk s t where
  done : ∀ i ∈ is.mems, (s.member is.blk i).guard x = true → t.member is.blk i =
    retired x lat (s.block is.blk).handler.isSome (s.member is.blk i) (res i) (pcs i)
  skipped : ∀ i ∈ is.mems, (s.member is.blk i).guard x = false → t.member is.blk i =
    retired x lat (s.block is.blk).handler.isSome (s.member is.blk i) [] (nextPc (s.member is.blk i).pc x.len)
  rest : ∀ j, j ∉ is.mems → t.member is.blk j = s.member is.blk j
  block : t.block is.blk = { s.block is.blk with
    members := (t.block is.blk).members, k := k, course := (t.block is.blk).course }
  memory : (s.block is.blk).dbg = false → (s.block is.blk).course = none → ∀ a, t.mem.byte a = s.mem.byte a

/-- An instruction word `i` with fields `x` executes as a lane instruction: from every state in which it is issued and nothing keeps
its members from executing, the next state is the one that `Retires` describes, sibling by sibling with the result `out`. -/
def LaneClaim (ni : Bool) (lat : Option Nat) (reads : List (Bool × Opnd)) (out : Block → Regs → SibOut) (i : Instr) (x : Ext) :
    Prop :=
  ∀ s is, Issued s is → (∀ j ∈ is.mems, Ready ni x (readRegs reads) s is j) →
    ∃ t, exec i s = .next t ∧ Retires x lat s is t (fun j => (s.member is.blk j).sibs.map (out (s.block is.blk)))
      (fun j => nextPc (s.member is.blk j).pc x.len) (s.block is.blk).k

/-- The same for an instruction whose results depend on the whole member, its block or the issue. -/
def LaneClaimM (ni : Bool) (lat : Option Nat) (reads : List (Bool × Opnd)) (outs : State → Issue → Nat → List SibOut)
    (i : Instr) (x : Ext) : Prop :=
  ∀ s is, Issued s is → (∀ j ∈ is.mems, Ready ni x (readRegs reads) s is j) →
    ∃ t, exec i s = .next t ∧ Retires x lat s is t (outs s is) (fun j => nextPc (s.member is.blk j).pc x.len) (s.block is.blk).k

/-- A claim of a lane instruction that may change the flow of control: where each target is a multiple of 4, each member with a
true guard continues at its target (02 R36). -/
def JumpClaim (ni : Bool) (lat : Option Nat) (reads : List (Bool × Opnd)) (out : State → Issue → Nat → SibOut)
    (target : State → Issue → Nat → Nat) (i : Instr) (x : Ext) : Prop :=
  ∀ s is, Issued s is → (∀ j ∈ is.mems, Ready ni x (readRegs reads) s is j) →
    (∀ j ∈ is.mems, (s.member is.blk j).guard x = true → target s is j % 4 = 0) →
    ∃ t, exec i s = .next t ∧ Retires x lat s is t (fun j => (s.member is.blk j).sibs.map (fun _ => out s is j)) (target s is)
      (s.block is.blk).k

/-- The rounding mode of half `h` in sibling `k` of member `i` (03 R51, R53): under DRAW in triad mode a direction is bit k + 3h of
the draw word of the thread at its icount, and in solo mode it is nearest even. -/
def modeOf (x : Ext) (B : Block) (i : Nat) (m : Member) (k h : Nat) : Mode :=
  rndMode x.rnd (if B.triad then
    some (bitN (draw (m.first.ctl64 4).toNat (B.tid i % 2 ^ 32) (m.icount.toNat % 2 ^ 32)) (k + 3 * h)) else none)

/-- A floating-point lane instruction (03 R44, R46; 04 R87): each sibling computes `op` on its own sources `ops`, each half on its own
in its own mode, writes the result to D and joins the flags to its ctl.fpstatus. -/
def FltClaim (ni : Bool) (lat : Option Nat) (ops : List Opnd) (op : Fmt → Mode → List FV → Nat × Nat) (i : Instr) (x : Ext) : Prop :=
  LaneClaimM ni lat (ops.map (fun o => (x.ty.wide, o))) (fun s is j =>
    let B := s.block is.blk
    let m := s.member is.blk j
    m.sibs.zipIdx.map (fun rk =>
      let r := fltHalves x.ty (fun h a => op (tyFmt x.ty) (modeOf x B j m rk.2 h) (a.map (fval (tyFmt x.ty))))
        (ops.map (fun o => opRead B rk.1 x.ty.wide o))
      SibOut.flagged (outTy x.ty.wide x.d r.1) r.2)) i x

/-- A claim of an extended row and of the base row that executes as it (02 R23). -/
def Rows (e : Ext → Instr) (b : Base → Instr) (major : Nat) (P : Instr → Ext → Prop) : Prop :=
  (∀ x, P (e x) x) ∧ ∀ y : Base, P (b y) (Base.toExt major y)

/-- The state in which the first access of an issue is made: the issue is taken up, its number is counted, and no request of an
earlier step is noted. -/
def started (s : State) : State := { s with cur := none, issues := s.issues + 1, reqs := [] }

/-- What member `i` of a one-member issue brings to its access: its sources A, B, C, D of each sibling. -/
def memIn (s : State) (is : Issue) (i : Nat) (x : Ext) (reads : List (Bool × Opnd)) : MemIn :=
  { b := is.blk, i := i, m := s.member is.blk i, x := x, first := true
    vals := (s.member is.blk i).sibs.map (fun r => reads.map (fun w =>
      (BitVec.ofNat 64 (opRead (s.block is.blk) r w.1 w.2)).toNat)) }

/-- A one-member issue of an instruction with a true guard that nothing keeps from executing, in a block that no debug descriptor
applies to. -/
structure Single (ni : Bool) (x : Ext) (regs : List Nat) (s : State) (is : Issue) (i : Nat) : Prop where
  cur : s.cur = some is
  mems : is.mems = [i]
  guard : (s.member is.blk i).guard x = true
  ready : Ready ni x regs s is i
  dbg : (s.block is.blk).dbg = false
  course : (s.block is.blk).course = none

/-- `t` is the machine after member `i` has retired from the state `u` that its access left, with the results `outs` of each sibling
on their way to its registers: nothing but the member's record and the issue tables differs from `u`. -/
structure Completes (x : Ext) (u t : State) (b i : Nat) (outs : Nat → List Out) : Prop where
  member : t.member b i =
    { u.member b i with
      pc := nextPc (u.member b i).pc x.len
      came := (u.member b i).pc
      icount := if (u.block b).handler.isSome then (u.member b i).icount else (u.member b i).icount + 1
      sibs := ((u.member b i).sibs.zipIdx.map (fun rk => rk.1.writeAll (outs rk.2))).map (Regs.age (max x.stall 1))
      space := max x.stall 1
      cap := none
      wait := none }
  rest : ∀ j, j ≠ i → t.member b j = u.member b j
  others : ∀ c, c ≠ b → t.block c = u.block c
  block : t.block b = { u.block b with members := (t.block b).members }
  state : t = { u with blocks := t.blocks, cores := t.cores }
  cores : ∀ c, t.core c = { u.core c with tables := (t.core c).tables, pending := (t.core c).pending }

/-- What an unfinished instruction of a member keeps (15 R265; 19 R341, R345): the number of its issue, its fields and bytes, its
captured sources, and the PC at which the member goes on. -/
def captured (s : State) (b : Nat) (m : Member) (x : Ext) (major : Nat) (reads : List (Bool × Opnd)) (requests : List Nat) : Captured :=
  { seq := s.issues + 1, x := x, major := major, words := instrBytes major x
    srcs := m.sibs.map (fun r => reads.map (fun w => BitVec.ofNat 64 (opRead (s.block b) r w.1 w.2)))
    result := none, faultReply := none, requests := requests, nextPc := nextPc m.pc x.len
    icount := m.icount }

/-- `t` is the machine after member `i` of block `b` has come to wait as `k` from the state `u` that its access left: its PC, icount
and registers are unchanged, it stands in no issue table, and nothing else differs from `u`. -/
structure Waits (u t : State) (b i : Nat) (k : WaitKind) (c : Captured) : Prop where
  member : t.member b i = { u.member b i with wait := some k, cap := some c }
  rest : ∀ j, j ≠ i → t.member b j = u.member b j
  others : ∀ c, c ≠ b → t.block c = u.block c
  block : t.block b = { u.block b with members := (t.block b).members }
  state : t = { u with blocks := t.blocks, cores := t.cores }
  cores : ∀ c, t.core c = { u.core c with tables := (t.core c).tables, pending := (t.core c).pending }

/-- The precise trap of a single member's instruction: cause, fault code and address, the member's PC, icount and lanes, and the
instruction's bytes; no lane has taken effect (12 R220; 19 R344). -/
def memTrap (m : Member) (i : Nat) (x : Ext) (major : Nat) (f : Flt) : Trap :=
  { cause := f.cause, fcode := f.fcode, addr := f.addr, pc := m.pc, icount := m.icount, words := instrBytes major x, micro := 0xFF,
    tag := 0, quarter := m.quarter, lanes := m.laneMask, done := 0, mems := [i] }

/-- The machine after the precise trap of a single member `i`, taken in the state `u` (19 R343). -/
def trapped (s u : State) (is : Issue) (i : Nat) (x : Ext) (major : Nat) (f : Flt) : State :=
  afterIssue s (takeTrap (reseat u is.blk [i]) is.blk (memTrap (s.member is.blk i) i x major f)) is.blk [i]

/-- State `u` with the faulting instruction of member `i` kept for its replay (19 R341, R345). -/
def keptAt (s u : State) (is : Issue) (i : Nat) (x : Ext) (major : Nat) (reads : List (Bool × Opnd)) : State :=
  u.setMember is.blk i { s.member is.blk i with
    wait := claimed (s.member is.blk i).wait, cap := some (captured s is.blk (s.member is.blk i) x major reads []) }

/-- Nothing but TLBs, caches, request counters, power states and free choices differs from `s`. -/
def lookedUp (s u : State) : Prop :=
  u = { s with cores := u.cores, dies := u.dies, choice := u.choice, packagePower := u.packagePower, reqs := u.reqs }

end Sys2Proof.Safety
end

