-- ==== Sys2Proof/Certificates/Slice0/Obligations.lean ====
section
/-!
DEFINITION. The statements about the model, for provers: encodings, the step, every instruction's effect and where it completes,
exceptions, the scheduler and the links, and the invariant that every step keeps.
-/

open Sys2Proof Sys2Proof.Machine Sys2Proof.Safety

/-- 04 R75 with the latencies of 02 R34: IADD to INEG compute on exact integers and wrap; a zero divisor gives all ones and the
dividend; the extreme cases that R75 lists. No integer instruction sets a flag or traps. -/
def Obligations.IntegerArithmetic : Prop :=
  let A := fun (x : Ext) (B : Block) (r : Regs) => ival x.ty (opRead B r x.ty.wide (opA x))
  let B' := fun (x : Ext) (B : Block) (r : Regs) => ival x.ty (opRead B r x.ty.wide (opB x))
  let C := fun (x : Ext) (B : Block) (r : Regs) => ival x.ty (opRead B r x.ty.wide (opC x))
  let mul := fun (x : Ext) => some (if x.ty.wide then 6 else 4)
  let put := fun (x : Ext) (v : Int) => SibOut.write (outTy x.ty.wide x.d (putInt x.ty v))
  let one := fun (op : Int → Int) (i : Instr) (x : Ext) =>
    LaneClaim false (some 2) [(x.ty.wide, opA x)] (fun B r => put x (op (A x B r))) i x
  let two := fun (lat : Ext → Option Nat) (op : Ext → Int → Int → Int) (i : Instr) (x : Ext) =>
    LaneClaim false (lat x) [(x.ty.wide, opA x), (x.ty.wide, opB x)] (fun B r => put x (op x (A x B r) (B' x B r))) i x
  let two2 := two (fun _ => some 2)
  Rows .iadd .iaddBase 1 (two2 (fun _ a b => a + b)) ∧ Rows .isub .isubBase 2 (two2 (fun _ a b => a - b)) ∧
  Rows .imul .imulBase 3 (two mul (fun _ a b => a * b)) ∧ (∀ x, two mul (fun x a b => a * b / 2 ^ x.ty.width) (.imulh x) x) ∧
  Rows .imad .imadBase 4 (fun i x => LaneClaim false (mul x) [(x.ty.wide, opA x), (x.ty.wide, opB x), (x.ty.wide, opC x)]
    (fun B r => put x (A x B r * B' x B r + C x B r)) i x) ∧
  Rows .idiv .idivBase 5 (two (fun _ => none) (fun x a b => if b = 0 then 2 ^ x.ty.width - 1 else Int.tdiv a b)) ∧
  (∀ x, two (fun _ => none) (fun _ a b => if b = 0 then a else a - b * Int.tdiv a b) (.irem x) x) ∧
  Rows .imin .iminBase 6 (two2 (fun _ a b => min a b)) ∧ (∀ x, two2 (fun _ a b => max a b) (.imax x) x) ∧
  Rows .iabs .iabsBase 7 (one (fun a => if 0 ≤ a then a else -a)) ∧ (∀ x, one (fun a => -a) (.ineg x) x) ∧
  ∀ t : Ty, t.signed = true → putInt t (-(-2 ^ (t.width - 1))) = putInt t (-2 ^ (t.width - 1)) ∧
    putInt t (Int.tdiv (-2 ^ (t.width - 1)) (-1)) = putInt t (-2 ^ (t.width - 1))

/-- 04 R76: logic on the whole operand width, and the four shifts of the table, whose amount is B[7:0] of a 32-bit source. -/
def Obligations.LogicAndShifts : Prop :=
  let A := fun (x : Ext) (B : Block) (r : Regs) => opRead B r x.ty.wide (opA x)
  let B' := fun (x : Ext) (B : Block) (r : Regs) => opRead B r x.ty.wide (opB x)
  let N := fun (x : Ext) (B : Block) (r : Regs) => opRead B r false (opB x) % 2 ^ 8
  let put := fun (x : Ext) (v : Nat) => SibOut.write (outTy x.ty.wide x.d v)
  let flip := fun (x : Ext) (v : Nat) => 2 ^ x.ty.width - 1 - v % 2 ^ x.ty.width
  let two := fun (op : Ext → Nat → Nat → Nat) (i : Instr) (x : Ext) =>
    LaneClaim false (some 2) [(x.ty.wide, opA x), (x.ty.wide, opB x)] (fun B r => put x (op x (A x B r) (B' x B r))) i x
  let shift := fun (op : Nat → Nat → Nat → Nat) (i : Instr) (x : Ext) =>
    LaneClaim false (some 2) [(x.ty.wide, opA x), (false, opB x)] (fun B r => put x (op x.ty.width (A x B r) (N x B r))) i x
  Rows .andL .andBase 8 (two (fun _ a b => a &&& b)) ∧ (∀ x, two (fun _ a b => a ||| b) (.orL x) x) ∧
  (∀ x, two (fun _ a b => a ^^^ b) (.xorL x) x) ∧ (∀ x, two (fun x a b => a &&& flip x b) (.andn x) x) ∧
  (∀ x, LaneClaim false (some 2) [(x.ty.wide, opA x)] (fun B r => put x (flip x (A x B r))) (.notL x) x) ∧
  Rows .shl .shlBase 9 (shift (fun w a n => if n < w then a * 2 ^ n % 2 ^ w else 0)) ∧
  (∀ x, shift (fun w a n => if n < w then a / 2 ^ n else 0) (.shr x) x) ∧
  (∀ x, shift (fun w a n => if n < w then wrapN (sextN a w / 2 ^ n) w else if bitN a (w - 1) then 2 ^ w - 1 else 0) (.sar x) x) ∧
  (∀ x, shift (fun w a n => (a * 2 ^ (n % w) ||| a / 2 ^ (w - n % w)) % 2 ^ w) (.rot x) x)

/-- 04 R77: BFX and BFI with the descriptor in B. -/
def Obligations.BitFields : Prop :=
  let pos := fun b : Nat => b % 2 ^ 5
  let len := fun b : Nat => min (b / 2 ^ 8 % 2 ^ 6) (32 - pos b)
  let A := fun (x : Ext) (w : Bool) (B : Block) (r : Regs) => opRead B r w (opA x)
  let D := fun (x : Ext) (w : Bool) (B : Block) (r : Regs) => opRead B r w (opB x)
  Rows .bfx .bfxBase 10 (fun i x => LaneClaim false (some 2) [(x.ty.wide, opA x), (x.ty.wide, opB x)] (fun B r =>
    let b := D x x.ty.wide B r
    let v := A x x.ty.wide B r / 2 ^ pos b % 2 ^ len b
    SibOut.write (outTy x.ty.wide x.d (if len b = 0 then 0 else if x.ty.signed then wrapN (sextN v (len b)) 32 else v))) i x) ∧
  ∀ x, LaneClaim false (some 2) [(x.ty.wide, opA x), (x.ty.wide, opB x), (x.ty.wide, opC x)] (fun B r =>
    let b := D x false B r
    let c := opRead B r false (opC x)
    SibOut.write (.reg x.d (BitVec.ofNat 32 (c % 2 ^ pos b + A x false B r % 2 ^ len b * 2 ^ pos b +
      c / 2 ^ (pos b + len b) * 2 ^ (pos b + len b))))) (.bfi x) x

/-- 04 R78: POPC counts 1 bits, CLZ leading 0 bits, both to a single register; BREV moves bit i to bit w − 1 − i. -/
def Obligations.BitCounts : Prop :=
  let A := fun (x : Ext) (B : Block) (r : Regs) => opRead B r x.ty.wide (opA x)
  let one := fun (out : Ext → Nat → Out) (i : Instr) (x : Ext) =>
    LaneClaim false (some 2) [(x.ty.wide, opA x)] (fun B r => SibOut.write (out x (A x B r))) i x
  Rows .popc .popcBase 11 (one (fun x a =>
    .reg x.d (BitVec.ofNat 32 ((List.range x.ty.width).filter (bitN a)).length))) ∧
  (∀ x, one (fun x a => .reg x.d (BitVec.ofNat 32 (clzOp x.ty.width a))) (.clz x) x) ∧
  (∀ x, one (fun x a => outTy x.ty.wide x.d (brevOp a x.ty.width)) (.brev x) x) ∧
  (∀ w a, clzOp w a ≤ w ∧ (∀ k, k < clzOp w a → bitN a (w - 1 - k) = false) ∧
    (clzOp w a < w → bitN a (w - 1 - clzOp w a) = true)) ∧
  ∀ w a, brevOp a w < 2 ^ w ∧ ∀ i, i < w → bitN (brevOp a w) (w - 1 - i) = bitN a i

/-- 04 R79: each result byte of PERM is a source byte that its selector nibble names, or eight copies of that byte's bit 7. -/
def Obligations.Permute : Prop :=
  let byte := fun (a b k : Nat) => if k < 4 then a / 2 ^ (8 * k) % 2 ^ 8 else b / 2 ^ (8 * (k - 4)) % 2 ^ 8
  let pick := fun (a b e : Nat) => if bitN e 3 then (if bitN (byte a b (e % 8)) 7 then 0xFF else 0) else byte a b (e % 8)
  let sel := fun (c i : Nat) => c / 2 ^ (4 * i) % 2 ^ 4
  Rows .perm .permBase 12 (fun i x =>
    LaneClaim false (some 2) [(x.ty.wide, opA x), (x.ty.wide, opB x), (x.ty.wide, opC x)] (fun B r =>
      let a := opRead B r false (opA x)
      let b := opRead B r false (opB x)
      let c := opRead B r false (opC x)
      SibOut.write (.reg x.d (BitVec.ofNat 32 (pick a b (sel c 0) + pick a b (sel c 1) * 2 ^ 8 + pick a b (sel c 2) * 2 ^ 16 +
        pick a b (sel c 3) * 2 ^ 24)))) i x)

/-- 04 R80, R81: ICMP by its condition, signed for s types and unsigned for n types; ISEL by each sibling's own p(C); PLOP by its
table. ICMP completes so where the COMPARE cause does not act (03 R60). -/
def Obligations.CompareAndSelect : Prop :=
  let A := fun (x : Ext) (B : Block) (r : Regs) => opRead B r x.ty.wide (opA x)
  let B' := fun (x : Ext) (B : Block) (r : Regs) => opRead B r x.ty.wide (opB x)
  Rows .icmp .icmpBase 13 (fun i x => x.minor < 6 → LaneClaim true (some 2) [(x.ty.wide, opA x), (x.ty.wide, opB x)] (fun B r =>
    let a := ival x.ty (A x B r)
    let b := ival x.ty (B' x B r)
    SibOut.write (.pred x.d ([decide (a = b), decide (a ≠ b), decide (a < b), decide (a ≤ b), decide (a > b), decide (a ≥ b)].getD
      x.minor false))) i x) ∧
  Rows .isel .iselBase 14 (fun i x =>
    LaneClaim false (some 2) [(x.ty.wide, opA x), (x.ty.wide, opB x), (false, .pred x.c)] (fun B r =>
      SibOut.write (outTy x.ty.wide x.d (if r.pred x.c then A x B r else B' x B r))) i x) ∧
  ∀ x, LaneClaim false (some 1) [(false, .pred x.a), (false, opB x), (false, .pred x.c)] (fun B r =>
    SibOut.write (.pred x.d (bitN (opRead B r false (opB x)) (2 * boolN (r.pred x.a) + boolN (r.pred x.c))))) (.plop x) x

/-- 04 R82 to R86; 03 R47, R56; 07 R154; 19 R340: MOV, MOVI, MOVS with the table of special registers, GETC, SETC with the bits that each
control register takes, and MOVK, whose writer sees the new value at distance 2. SETC completes so where the STEER cause does not act
(03 R60). That every other thread sees MOVK's value at once is the model's choice (log entry 25). -/
def Obligations.MovesAndControlRegisters : Prop :=
  Rows .mov .movBase 15 (fun i x => LaneClaim false (some 2) [(x.ty.wide, opA x)] (fun B r =>
    SibOut.write (outTy x.ty.wide x.d (opRead B r x.ty.wide (opA x)))) i x) ∧
  (∀ x, LaneClaim false (some 2) [] (fun B r => SibOut.write (outTy x.ty.wide x.d (opRead B r x.ty.wide (opB x)))) (.movi x) x) ∧
  (∀ x, x.a ≤ 10 → LaneClaimM false (some 2) [] (fun s is j =>
    let B := s.block is.blk
    let m := s.member is.blk j
    let D := s.die (coreDie B.core)
    m.sibs.zipIdx.map (fun rk =>
      let v := [BitVec.ofNat 64 (B.blk * B.tb + j), BitVec.ofNat 64 B.blk, BitVec.ofNat 64 (m.lane + rk.2), BitVec.ofNat 64 rk.2,
        BitVec.ofNat 64 (B.core % 64), BitVec.ofNat 64 (B.core / 64), BitVec.ofNat 64 s.host.devid, m.icount, D.cyc, D.ncyc,
        s.reft].getD x.a 0
      { SibOut.write (outTy x.ty.wide x.d v.toNat) with logged := specialLogged x.a })) (.movs x) x) ∧
  (∀ x, LaneClaim false (some 4) [] (fun _ r => SibOut.write (.reg x.d (r.ctl x.a))) (.getc x) x) ∧
  (∀ x, LaneClaimM true none [(false, opA x)] (fun s is j =>
    let B := s.block is.blk
    let m := s.member is.blk j
    let med := medianBy (fun v => (v : Int)) (m.sibs.map (fun r => opRead B r false (opA x)))
    m.sibs.map (fun r =>
      let new := BitVec.ofNat 32 (if x.d = 0 then opRead B r false (opA x) else med)
      { SibOut.write .none with ctl := [(x.d, (r.ctl x.d &&& ~~~ctlMask x.d) ||| (new &&& ctlMask x.d))] })) (.setc x) x) ∧
  (List.range 16).map ctlMask = [0x3F, 0xFF, 0x3F, 0xFFFF_FFFF, 0, 0, 0xFFFF_FFFF, 0x01FF_FFFF, 0xFFFF_FFFF, 0xFFFF_FFFF,
    0xFFFF_FFFF, 1, 0xFF, 0, 0, 0] ∧
  ∀ x s is, Issued s is → (∀ j ∈ is.mems, Ready false x (readRegs [(false, opA x)]) s is j) →
    let B := s.block is.blk
    let k' := match is.mems.filter (fun j => (s.member is.blk j).guard x) with
      | [] => B.k
      | j :: _ => SMap.set 0 B.k (x.d % 64)
        (BitVec.ofNat 32 (medianBy (fun v => (v : Int)) ((s.member is.blk j).sibs.map (fun r => opRead B r false (opA x)))))
    ∃ t, exec (.movk x) s = .next t ∧ Retires x (some 2) s is t
      (fun j => (s.member is.blk j).sibs.map (fun _ => SibOut.write (.uni x.d (SMap.get 0 B.k (x.d % 64)))))
      (fun j => nextPc (s.member is.blk j).pc x.len) k'

/-- 04 R87, R89; 03 R44 to R46, R52, R53 with the latencies of 02 R34: each half computes the exact result and rounds it once under its
mode, with the flags of that rounding; the special cases of the rules follow. `roundTo` is pinned: toward zero and away from zero it gives
the next representable value, to nearest the nearer of the two, and OF, UF and NX as R46 says. FADD, FSUB, FFMA, FDIV, FRCP and FRSQ
complete so where the causes of 03 R59 do not act. -/
def Obligations.FloatArithmetic : Prop :=
  let lat := fun (x : Ext) => some (if x.ty = .f64 then 8 else 4)
  let two := fun ni (l : Ext → Option Nat) (op : Fmt → Mode → FV → FV → Nat × Nat) (i : Instr) (x : Ext) =>
    FltClaim ni (l x) [opA x, opB x] (fun f md a => op f md (a.getD 0 (.nan false)) (a.getD 1 (.nan false))) i x
  let one := fun ni (op : Fmt → Mode → FV → Nat × Nat) (i : Instr) (x : Ext) =>
    FltClaim ni none [opA x] (fun f md a => op f md (a.getD 0 (.nan false))) i x
  let signed := fun (n : Bool) (k : Nat) => if n then -(k : Int) else k
  Rows .fadd .faddBase 16 (two true lat fadd) ∧ (∀ x, two true lat (fun f md a b => fadd f md a b.negate) (.fsub x) x) ∧
  Rows .fmul .fmulBase 17 (two false lat fmul) ∧
  Rows .ffma .ffmaBase 18 (fun i x => FltClaim true (lat x) [opA x, opB x, opC x]
    (fun f md a => ffma f md (a.getD 0 (.nan false)) (a.getD 1 (.nan false)) (a.getD 2 (.nan false))) i x) ∧
  Rows .fdiv .fdivBase 20 (two true (fun _ => none) fdiv) ∧ Rows .fsqrt .fsqrtBase 21 (one false fsqrt) ∧
  Rows .frcp .frcpBase 28 (one true frcp) ∧ (∀ x, one true frsq (.frsq x) x) ∧
  (∀ (f : Fmt) (md : Mode) (a b c : Bool) (p q r : Q), 0 < p.d → 0 < q.d → 0 < r.d →
    let sum := signed a p.n * q.d + signed b q.n * p.d
    let dot := signed (a != b) (p.n * q.n) * r.d + signed c r.n * (p.d * q.d)
    (sum ≠ 0 → fadd f md (.fin a p) (.fin b q) = roundTo f md.rm (sum < 0) ⟨sum.natAbs, p.d * q.d⟩) ∧
    fmul f md (.fin a p) (.fin b q) = roundTo f md.rm (a != b) ⟨p.n * q.n, p.d * q.d⟩ ∧
    (dot ≠ 0 → ffma f md (.fin a p) (.fin b q) (.fin c r) = roundTo f md.rm (dot < 0) ⟨dot.natAbs, p.d * q.d * r.d⟩) ∧
    (dot = 0 → ffma f md (.fin a p) (.fin b q) (.fin c r) =
      (signOf f (if p.n * q.n = 0 ∧ (a != b) = c then c else md.rdn), 0)) ∧
    (0 < q.n → fdiv f md (.fin a p) (.fin b q) = roundTo f md.rm (a != b) ⟨p.n * q.d, p.d * q.n⟩) ∧
    (0 < q.n → frcp f md (.fin b q) = roundTo f md.rm b ⟨q.d, q.n⟩ ∧
      (∃ w, 0 < w.n ∧ 0 < w.d ∧ LikeRoot (f.prec + 2) q w ∧ fsqrt f md (.fin false q) = roundTo f md.rm false w) ∧
      ∃ w, 0 < w.n ∧ 0 < w.d ∧ LikeRoot (f.prec + 2) ⟨q.d, q.n⟩ w ∧ frsq f md (.fin false q) = roundTo f md.rm false w)) ∧
  (∀ (f : Fmt) (rm : RM) (neg : Bool) (q : Q), 0 < q.d →
    let r := roundTo f rm neg q
    let away := if neg then RM.down else RM.up
    let lo := (roundTo f .rz neg q).1
    let hi := (roundTo f away neg q).1
    let p := f.prec
    (q.n = 0 → r = (signOf f neg, 0)) ∧
    (0 < q.n → TowardZero f neg q lo ∧ TowardZero f neg q (roundTo f (if neg then .up else .down) neg q).1 ∧ AwayFromZero f neg q hi ∧
      (∀ a b, StandsFor f neg lo a →
        (StandsFor f neg hi b ∨ hi = signOf f neg + f.infBits ∧ b = dyadic 1 (f.emax + 1)) →
        let mid : Q := ⟨a.n * b.d + b.n * a.d, 2 * a.d * b.d⟩
        let below := q.n * mid.d < mid.n * q.d
        (below → (roundTo f .rne neg q).1 = lo ∧ (roundTo f .rna neg q).1 = lo) ∧
        (¬ below → ¬ SameValue q mid → (roundTo f .rne neg q).1 = hi ∧ (roundTo f .rna neg q).1 = hi) ∧
        (SameValue q mid → (roundTo f .rne neg q).1 = (if lo % 2 = 0 then lo else hi) ∧ (roundTo f .rna neg q).1 = hi)) ∧
      let exact := ∃ b x, StandsFor f neg b x ∧ SameValue x q
      let dir := match rm with
        | .rz => some false
        | .up => some (!neg)
        | .down => some neg
        | _ => none
      let beyond := match dir with
        | some true => ¬ AtMost q (dyadic (2 ^ p - 1) (f.emax + 1 - p))
        | some false => AtMost (dyadic 1 (f.emax + 1)) q
        | none => AtMost (dyadic (2 ^ (p + 1) - 1) (f.emax - p)) q
      let tiny := match dir with
        | some true => AtMost q (dyadic (2 ^ p - 1) (f.emin - p))
        | some false => ¬ AtMost (dyadic 1 f.emin) q
        | none => ¬ AtMost (dyadic (2 ^ (p + 1) - 1) (f.emin - p - 1)) q
      r.2 ||| (flOF + flUF + flNX) = flOF + flUF + flNX ∧ (bitN r.2 4 = true ↔ ¬ exact) ∧ (bitN r.2 2 = true ↔ beyond) ∧
        (bitN r.2 3 = true ↔ tiny ∧ ¬ exact))) ∧
  (List.map (fun r => rndMode r none) [.rne, .rz, .rup, .rdn, .rna, .draw] =
    [⟨.rne, false⟩, ⟨.rz, false⟩, ⟨.up, false⟩, ⟨.down, true⟩, ⟨.rna, false⟩, ⟨.rne, false⟩] ∧
    rndMode .draw (some true) = ⟨.up, false⟩ ∧ rndMode .draw (some false) = ⟨.down, false⟩ ∧
    ∀ r d, r ∈ [Rnd.rne, .rz, .rup, .rdn, .rna] → rndMode r d = rndMode r none) ∧
  (∀ (f : Fmt) (md : Mode) (u v w : FV),
    let nan := fun vs : List FV => (f.nanBits, if vs.any FV.isSnan then flNV else 0)
    ((u.isNan || v.isNan) = true → fadd f md u v = nan [u, v] ∧ fmul f md u v = nan [u, v] ∧ fdiv f md u v = nan [u, v]) ∧
    ((u.isNan || v.isNan) = true → ffma f md u v w = nan [u, v, w]) ∧
    (w.isNan = true → (u.isInf || v.isInf) = false → ffma f md u v w = nan [u, v, w]) ∧
    (u.isNan = true → fsqrt f md u = nan [u] ∧ frcp f md u = nan [u] ∧ frsq f md u = nan [u])) ∧
  ∀ (f : Fmt) (md : Mode) (z p y : Q) (n k : Bool) (c : FV), z.n = 0 → 0 < p.n →
    let inf := fun n => signOf f n + f.infBits
    fadd f md (.fin n z) (.fin n z) = (signOf f n, 0) ∧
    fadd f md (.fin n p) (.fin (!n) p) = (signOf f md.rdn, 0) ∧ fadd f md (.fin n z) (.fin (!n) z) = (signOf f md.rdn, 0) ∧
    fadd f md (.inf n) (.fin k y) = (inf n, 0) ∧ fadd f md (.fin k y) (.inf n) = (inf n, 0) ∧
    fadd f md (.inf n) (.inf k) = (if n = k then (inf n, 0) else (f.nanBits, flNV)) ∧
    fmul f md (.fin n z) (.inf k) = (f.nanBits, flNV) ∧ fmul f md (.inf k) (.fin n z) = (f.nanBits, flNV) ∧
    fmul f md (.fin n p) (.inf k) = (inf (n != k), 0) ∧ fmul f md (.inf k) (.fin n p) = (inf (k != n), 0) ∧
    fmul f md (.inf n) (.inf k) = (inf (n != k), 0) ∧
    ffma f md (.fin n z) (.inf k) c = (f.nanBits, flNV) ∧ ffma f md (.inf k) (.fin n z) c = (f.nanBits, flNV) ∧
    ffma f md (.fin n y) (.fin k p) (.inf n) = (inf n, 0) ∧
    fdiv f md (.fin n p) (.fin k z) = (inf (n != k), flDZ) ∧ fdiv f md (.fin n z) (.fin k z) = (f.nanBits, flNV) ∧
    fdiv f md (.inf n) (.inf k) = (f.nanBits, flNV) ∧ fdiv f md (.inf n) (.fin k y) = (inf (n != k), 0) ∧
    fdiv f md (.fin n y) (.inf k) = (signOf f (n != k), 0) ∧
    fsqrt f md (.fin n z) = (signOf f n, 0) ∧ fsqrt f md (.inf false) = (inf false, 0) ∧
    fsqrt f md (.fin true p) = (f.nanBits, flNV) ∧ fsqrt f md (.inf true) = (f.nanBits, flNV) ∧
    frcp f md (.fin n z) = (inf n, flDZ) ∧ frcp f md (.inf n) = (signOf f n, 0) ∧
    frsq f md (.fin n z) = (inf n, flDZ) ∧ frsq f md (.inf false) = (0, 0) ∧ frsq f md (.inf true) = (f.nanBits, flNV) ∧
    frsq f md (.fin true p) = (f.nanBits, flNV)

/-- 04 R88, R90, R91: FMIN, FMAX, FCMP by its table and FCLASS. FCMP completes so where COMPARE does not act (03 R60). -/
def Obligations.FloatCompare : Prop :=
  let lat := fun (x : Ext) => some (if x.ty = .f64 then 8 else 4)
  let val := fun (x : Ext) (v : Nat) => fval (tyFmt x.ty) (v % 2 ^ x.ty.width)
  let A := fun (x : Ext) (B : Block) (r : Regs) => opRead B r x.ty.wide (opA x)
  let B' := fun (x : Ext) (B : Block) (r : Regs) => opRead B r x.ty.wide (opB x)
  let pick := fun (greatest : Bool) (x : Ext) (_ : Nat) (a : List Nat) =>
    let p := a.getD 0 0
    let q := a.getD 1 0
    let u := fval (tyFmt x.ty) p
    let v := fval (tyFmt x.ty) q
    let below := fvLt u v || (fvEq u v && u.neg? && !v.neg?)
    (if u.isNan && v.isNan then (tyFmt x.ty).nanBits else if u.isNan then q else if v.isNan then p
      else if below != greatest then p else q, if u.isSnan || v.isSnan then flNV else 0)
  let minmax := fun greatest (i : Instr) (x : Ext) => LaneClaim false (lat x) [(x.ty.wide, opA x), (x.ty.wide, opB x)] (fun B r =>
    let o := fltHalves x.ty (pick greatest x) [A x B r, B' x B r]
    SibOut.flagged (outTy x.ty.wide x.d o.1) o.2) i x
  Rows .fmin .fminBase 19 (minmax false) ∧ (∀ x, minmax true (.fmax x) x) ∧
  Rows .fcmp .fcmpBase 24 (fun i x => x.minor < 8 → LaneClaim true (lat x) [(x.ty.wide, opA x), (x.ty.wide, opB x)] (fun B r =>
    let a := val x (A x B r)
    let b := val x (B' x B r)
    let un := a.isNan || b.isNan
    let sn := if a.isSnan || b.isSnan then flNV else 0
    let qn := if un then flNV else 0
    let le := fun p q => fvLt p q || fvEq p q
    let c := [(!un && fvEq a b, sn), (un || !fvEq a b, sn), (!un && fvLt a b, qn), (!un && le a b, qn), (!un && fvLt b a, qn),
      (!un && le b a, qn), (un, sn), (!un, sn)].getD x.minor (false, 0)
    SibOut.flagged (.pred x.d c.1) c.2) i x) ∧
  ∀ x, LaneClaim false (lat x) [(x.ty.wide, opA x)] (fun B r =>
    let v := A x B r % 2 ^ x.ty.width
    let sub := v / 2 ^ ((tyFmt x.ty).prec - 1) % 2 ^ (tyFmt x.ty).ebits == 0
    let bit := match fval (tyFmt x.ty) v with
      | .nan sig => if sig then 0 else 1
      | .inf n => if n then 2 else 9
      | .fin n q => if q.n = 0 then (if n then 5 else 6) else if n then (if sub then 4 else 3) else (if sub then 7 else 8)
    SibOut.write (.reg x.d (BitVec.ofNat 32 (2 ^ bit)))) (.fclass x) x

/-- 04 R92, R93: FCVT, FCVTI with its table of results, and ICVTF. -/
def Obligations.Conversions : Prop :=
  let src := fun (x : Ext) => Ty.ofCode (x.c % 16)
  let A := fun (x : Ext) (B : Block) (r : Regs) => opRead B r (src x).wide (opA x) % 2 ^ (src x).width
  let val := fun (x : Ext) (v : Nat) => fval (tyFmt (src x)) v
  let each := fun (x : Ext) (f : Block → Regs → Nat → (Nat → Mode) → SibOut) (s : State) (is : Issue) (j : Nat) =>
    (s.member is.blk j).sibs.zipIdx.map (fun rk =>
      f (s.block is.blk) rk.1 rk.2 (modeOf x (s.block is.blk) j (s.member is.blk j) rk.2))
  let conv := fun (x : Ext) (md : Mode) (v : FV) => match v with
    | .nan sig => ((tyFmt x.ty).nanBits, if sig then flNV else 0)
    | .inf n => (signOf (tyFmt x.ty) n + (tyFmt x.ty).infBits, 0)
    | .fin n q => roundTo (tyFmt x.ty) md.rm n q
  (∀ x, x.ty.packed = false → LaneClaimM false (some 4) [((src x).wide, opA x)] (each x (fun B r _ md =>
    let o := conv x (md 0) (val x (A x B r))
    SibOut.flagged (outTy x.ty.wide x.d o.1) o.2)) (.fcvt x) x) ∧
  (∀ x, x.ty.packed = true → src x = .f32 → LaneClaimM false (some 4) [(false, opA x), (false, opB x)] (each x (fun B r _ md =>
    let lo := conv x (md 0) (fval .f32 (opRead B r false (opA x)))
    let hi := conv x (md 1) (fval .f32 (opRead B r false (opB x)))
    SibOut.flagged (.reg x.d (BitVec.ofNat 32 (lo.1 % 2 ^ 16 + hi.1 % 2 ^ 16 * 2 ^ 16))) (lo.2 ||| hi.2))) (.fcvt x) x) ∧
  (∀ x, LaneClaimM false (some 4) [((src x).wide, opA x)] (each x (fun B r _ md =>
    let o : Int × Nat := match val x (A x B r) with
      | .nan _ => (0, flNV)
      | .inf n => (if n then tyMin x.ty else tyMax x.ty, flNV)
      | .fin n q =>
        let k := roundNat (md 0).rm n q.n q.d
        let v : Int := if n then -(k.1 : Int) else k.1
        if tyMax x.ty < v then (tyMax x.ty, flNV) else if v < tyMin x.ty then (tyMin x.ty, flNV) else (v, if k.2 then flNX else 0)
    SibOut.flagged (outTy x.ty.wide x.d (putInt x.ty o.1)) o.2)) (.fcvti x) x) ∧
  ∀ x, LaneClaimM false (some 4) [((src x).wide, opA x)] (each x (fun B r _ md =>
    let v := ival (src x) (opRead B r (src x).wide (opA x))
    let o := roundTo (tyFmt x.ty) (md 0).rm (decide (v < 0)) ⟨v.natAbs, 1⟩
    SibOut.flagged (outTy x.ty.wide x.d o.1) o.2)) (.icvtf x) x

/-- 04 R94; 03 R52: the transcendental instructions complete with the result of the algorithm in each half and sibling: Horner's rule with
every step rounded to the precision of X in one direction. FEX2 of an integer is its power of two, FLG2 of a power of two is its exponent,
FSIN of a zero is that zero and FCOS of a zero is 1, with no flag; the special operands give what the algorithms say. That ln 2 and π are
held to 512 and 1,536 places is log entry 11; that an inexact step alone sets NX and not UF is the model's choice (log entry 107). -/
def Obligations.Transcendentals : Prop :=
  let prec := fun f : Fmt => if f = .f64 then 113 else 53
  let row := fun (op : Nat → Fmt → Mode → FV → Nat × Nat) (i : Instr) (x : Ext) =>
    FltClaim false none [opA x] (fun f md a => op (if x.ty = .f64 then 113 else 53) f md (a.getD 0 (.nan false))) i x
  let horner := fun (p : Nat) (rm : RM) (c : Nat → SQ) (z : SQ) (last : Nat) (nx : Bool) => (List.range last).reverse.foldl
    (fun h i => rndX p rm h.nx ((h.v.mul z).add (rndX p .rne false (c i)).v)) ⟨(rndX p .rne false (c last)).v, nx⟩
  let is := fun (f : Fmt) (r : Nat × Nat) (neg : Bool) (v : Q) => r.2 = 0 ∧ ∃ w, StandsFor f neg r.1 w ∧ SameValue w v
  Rows .fex2 .fex2Base 29 (row fex2Op) ∧ (∀ x, row flg2Op (.flg2 x) x) ∧ Rows .fsin .fsinBase 30 (row (sincosOp false)) ∧
  (∀ x, row (sincosOp true) (.fcos x) x) ∧
  (∀ (f : Fmt) (md : Mode) (n : Bool) (q : Q) (k : Nat) (e : Int), 0 < q.d → f.emin - f.prec < e → e ≤ f.emax →
    (q.n = k * q.d → e = (if n then -(k : Int) else k) → is f (fex2Op (prec f) f md (.fin n q)) false (dyadic 1 e)) ∧
    (SameValue q (dyadic 1 e) → is f (flg2Op (prec f) f md (.fin false q)) (decide (e < 0)) ⟨e.natAbs, 1⟩)) ∧
  (∀ (f : Fmt) (md : Mode) (n : Bool) (q : Q), q.n = 0 → 0 < q.d → sincosOp false (prec f) f md (.fin n q) = (signOf f n, 0) ∧
    is f (sincosOp true (prec f) f md (.fin n q)) false ⟨1, 1⟩) ∧
  (∀ (f : Fmt) (md : Mode) (p : Nat) (s n : Bool) (q : Q), let nan := (f.nanBits, if s then flNV else 0)
    fex2Op p f md (.nan s) = nan ∧ flg2Op p f md (.nan s) = nan ∧ sincosOp n p f md (.nan s) = nan ∧
    fex2Op p f md (.inf false) = (f.infBits, 0) ∧ fex2Op p f md (.inf true) = (0, 0) ∧
    flg2Op p f md (.inf false) = (f.infBits, 0) ∧ flg2Op p f md (.inf true) = (f.nanBits, flNV) ∧
    (q.n = 0 → flg2Op p f md (.fin n q) = (f.signBit + f.infBits, flDZ)) ∧ (0 < q.n → flg2Op p f md (.fin true q) = (f.nanBits, flNV)) ∧
    sincosOp n p f md (.inf s) = (f.nanBits, flNV)) ∧
  (∀ (f : Fmt) (md : Mode) (p : Nat) (n : Bool) (q : Q), p = prec f → 0 < q.d →
    let last := fun a b : Nat => if p = 113 then b else a
    let end_ := fun (v : SQ) (nx : Bool) => let r := roundTo f md.rm v.neg v.q
      (r.1, if nx then r.2 ||| flNX else r.2)
    (∃ (k : Int) (fr : SQ), fr = SQ.add ⟨n, q⟩ (SQ.ofInt (-k)) ∧ 2 * fr.q.n ≤ fr.q.d ∧ (2 * fr.q.n = fr.q.d → k % 2 = 0) ∧
      let h := horner p md.rm (fun i => ⟨false, ⟨ln2N ^ i, 2 ^ (512 * i) * factorial i⟩⟩) fr (last 13 24) false
      (k.natAbs ≤ 5000 → fex2Op p f md (.fin n q) = end_ ⟨h.v.neg, h.v.q.shift k⟩ h.nx)) ∧
    (0 < q.n → ∃ (e : Int) (m : Q), SameValue q (m.shift e) ∧ 0 < m.d ∧ 3 * m.d ≤ 4 * m.n ∧ 2 * m.n < 3 * m.d ∧
      let num := SQ.add ⟨false, m⟩ ⟨true, ⟨1, 1⟩⟩
      let u := rndX p md.rm false ⟨num.neg, ⟨num.q.n * m.d, num.q.d * (m.n + m.d)⟩⟩
      let z := rndX p md.rm u.nx (u.v.mul u.v)
      let h := horner p md.rm (fun i => ⟨false, ⟨2 * 2 ^ 512, (2 * i + 1) * ln2N⟩⟩) z.v (last 11 25) z.nx
      let w := rndX p md.rm h.nx (h.v.mul u.v)
      let y := rndX p md.rm w.nx ((SQ.ofInt e).add w.v)
      flg2Op p f md (.fin false q) = end_ y.v y.nx) ∧
    (∃ k : Int, let half : SQ := ⟨decide (0 < k), ⟨k.natAbs * piN, 2 ^ 1537⟩⟩
      let d := SQ.add ⟨n, q⟩ half
      4 * d.q.n * 2 ^ 1536 ≤ piN * d.q.d ∧
      let t := rndX p md.rm false (if k = 0 then ⟨n, q⟩ else d)
      let z := rndX p md.rm t.nx (t.v.mul t.v)
      let hs := horner p md.rm (fun i => ⟨i % 2 == 1, ⟨1, factorial (2 * i + 1)⟩⟩) z.v (last 8 14) z.nx
      let s := rndX p md.rm hs.nx (hs.v.mul t.v)
      let c := horner p md.rm (fun i => ⟨i % 2 == 1, ⟨1, factorial (2 * i)⟩⟩) z.v (last 8 15) z.nx
      let minus := fun a : SQ => (⟨!a.neg, a.q⟩ : SQ)
      let quad := (k % 4).toNat
      sincosOp false p f md (.fin n q) = end_ ([s.v, c.v, minus s.v, minus c.v].getD quad s.v) (s.nx || c.nx) ∧
      sincosOp true p f md (.fin n q) = end_ ([c.v, minus s.v, minus c.v, s.v].getD quad s.v) (s.nx || c.nx))) ∧
  ∀ (p : Nat) (rm : RM) (nx : Bool) (v : SQ), 0 < p → 0 < v.q.n → 0 < v.q.d →
    let r := fun m => rndX p m nx v
    let lo := (r .rz).v.q
    let hi := (r (if v.neg then .down else .up)).v.q
    let mid : Q := ⟨lo.n * hi.d + hi.n * lo.d, 2 * lo.d * hi.d⟩
    (r rm).v.neg = v.neg ∧ (∀ m ∈ [lo, hi, (r rm).v.q], ∃ i k, i < 2 ^ p ∧ SameValue m (dyadic i k)) ∧
    AtMost lo v.q ∧ AtMost v.q hi ∧
    (∀ i k, i < 2 ^ p → (AtMost (dyadic i k) v.q → AtMost (dyadic i k) lo) ∧ (AtMost v.q (dyadic i k) → AtMost hi (dyadic i k))) ∧
    (r (if v.neg then .up else .down)).v = (r .rz).v ∧ ((r rm).nx = true ↔ nx = true ∨ ¬ SameValue v.q lo) ∧
    ((r .rne).v.q = lo ∨ SameValue (r .rne).v.q hi) ∧
    (v.q.n * mid.d < mid.n * v.q.d → SameValue (r .rne).v.q lo) ∧
    (mid.n * v.q.d < v.q.n * mid.d → SameValue (r .rne).v.q hi)

/-- 04 R95 to R98; 03 R50, R58; 00 R8: DIG with the digit count of R58, SIBG, DMEAN with its special values and in solo mode, and RAND with
the draws, the draw function and the counter it leaves. -/
def Obligations.TriadAndRandom : Prop :=
  let src := fun (s : State) (is : Issue) (j : Nat) (w : Bool) (o : Opnd) =>
    (s.member is.blk j).sibs.map (fun r => opRead (s.block is.blk) r w o)
  let half := fun (t : Ty) (h v : Nat) => if t.packed then v / 2 ^ (16 * h) % 2 ^ 16 else v % 2 ^ t.width
  Rows .dig .digBase 26 (fun i x => LaneClaimM false (some 6) [(x.ty.wide, opA x)] (fun s is j =>
    let xs := src s is j x.ty.wide (opA x)
    let f := tyFmt x.ty
    let triad := xs.length = 3
    let d := fun h => if triad ∧ x.m2 = false then digCount f (xs.map (half x.ty h)) else f.prec
    let nan := xs.any (fun v => (fval f (half x.ty 0 v)).isNan || (x.ty.packed && (fval f (half x.ty 1 v)).isNan))
    xs.map (fun _ => SibOut.flagged (.reg x.d (BitVec.ofNat 32 (d 0 + if x.ty.packed then d 1 * 2 ^ 16 else 0)))
      (if triad ∧ nan = true then flDNAN else 0))) i x) ∧
  (∀ x, LaneClaimM false (some 6) [(x.ty.wide, opA x), (false, opB x)] (fun s is j =>
    let xs := src s is j x.ty.wide (opA x)
    (s.member is.blk j).sibs.map (fun r =>
      let k := opRead (s.block is.blk) r false (opB x) % 4
      let own := opRead (s.block is.blk) r x.ty.wide (opA x)
      SibOut.write (outTy x.ty.wide x.d (if xs.length = 3 ∧ k < 3 then xs.getD k own else own)))) (.sibg x) x) ∧
  (∀ x, LaneClaimM false (some 6) [(x.ty.wide, opA x)] (fun s is j =>
    (List.range (s.member is.blk j).sibs.length).map (fun k =>
      let r := fltHalves x.ty (fun h a => dmeanHalf (tyFmt x.ty) (modeOf x (s.block is.blk) j (s.member is.blk j) k h) a)
        (src s is j x.ty.wide (opA x))
      SibOut.flagged (outTy x.ty.wide x.d r.1) r.2)) (.dmean x) x) ∧
  (∀ (f : Fmt) (md : Mode) (a b c : Nat), let vs := [fval f a, fval f b, fval f c]
    let pos := vs.contains (.inf false)
    let neg := vs.contains (.inf true)
    let sig := if vs.any FV.isSnan then flNV else 0
    (pos = true → neg = true → dmeanHalf f md [a, b, c] = (f.nanBits, flNV)) ∧
    (vs.any FV.isNan = true → (pos && neg) = false → dmeanHalf f md [a, b, c] = (f.nanBits, sig)) ∧
    (vs.any FV.isNan = false → (pos != neg) = true → dmeanHalf f md [a, b, c] = (signOf f neg + f.infBits, 0)) ∧
    (vs.any FV.isNan = false → pos = false → neg = false →
      let sum := (fval f a).sq.add ((fval f b).sq.add (fval f c).sq)
      let zeros := vs.all (fun v => v.sq.isZero)
      dmeanHalf f md [a, b, c] = if sum.isZero
        then (signOf f (if zeros = true ∧ vs.all FV.neg? = true then true
          else if zeros = true ∧ vs.any FV.neg? = false then false else md.rdn), 0)
        else roundTo f md.rm sum.neg ⟨sum.q.n, sum.q.d * 3⟩)) ∧
  (∀ (f : Fmt) (md : Mode) (a : Nat), a < 2 ^ f.width →
    let v := fval f a
    dmeanHalf f md [a] = if v.isNan then (f.nanBits, if v.isSnan then flNV else 0) else (a, 0)) ∧
  (∀ (f : Fmt) (a b c : Nat), let vs := [fval f a, fval f b, fval f c]
    let finite := vs.any (fun v => v.isNan || v.isInf) = false
    (vs.any FV.isNan = true → digCount f [a, b, c] = 0) ∧
    (fvEq (fval f a) (fval f b) = true → fvEq (fval f b) (fval f c) = true → digCount f [a, b, c] = f.prec) ∧
    (¬ (fvEq (fval f a) (fval f b) = true ∧ fvEq (fval f b) (fval f c) = true) → vs.any FV.isInf = true → digCount f [a, b, c] = 0) ∧
    (finite → ¬ (fvEq (fval f a) (fval f b) = true ∧ fvEq (fval f b) (fval f c) = true) → ∀ lo hi, lo ∈ vs → hi ∈ vs →
      (∀ v ∈ vs, SQ.le lo.sq v.sq = true ∧ SQ.le v.sq hi.sq = true) →
      let sum := (fval f a).sq.add ((fval f b).sq.add (fval f c).sq)
      let s := fval f (roundTo f .up false (hi.sq.add lo.negate.sq).q).1
      ∀ k m, fval f (roundTo f .rne sum.neg ⟨sum.q.n, sum.q.d * 3⟩).1 = .fin k m →
        digCount f [a, b, c] = if m.n = 0 ∨ s.isInf = true then 0 else (max 0 (min (m.ilogb - s.sq.q.ilogb - 1) f.prec)).toNat)) ∧
  (∀ q : Q, 0 < q.n → 0 < q.d → AtMost (dyadic 1 q.ilogb) q ∧ ¬ AtMost (dyadic 1 (q.ilogb + 1)) q) ∧
  (∀ key x y : Nat, x < 2 ^ 32 → y < 2 ^ 32 →
    let rot := fun v n => (v * 2 ^ n ||| v / 2 ^ (32 - n)) % 2 ^ 32
    let round := fun p : Nat × Nat => let u := (p.1 + p.2) % 2 ^ 32
      (rot u 16, rot p.2 5 ^^^ u)
    let r := round (round (round (round (key % 2 ^ 32 ^^^ x, key / 2 ^ 32 % 2 ^ 32 ^^^ y))))
    draw key x y = r.1 ^^^ r.2) ∧
  Rows .rand .randBase 27 (fun i x => LaneClaimM false (some 4) [] (fun s is j =>
    (s.member is.blk j).sibs.map (fun r =>
      let w := fun c : W32 => draw (r.ctl64 8).toNat ((s.block is.blk).tid j % 2 ^ 32) c.toNat
      let ctr := r.ctl 10
      { SibOut.write (match x.ty with
          | .n64 => .pair x.d (BitVec.ofNat 64 (w ctr + w (ctr + 1) * 2 ^ 32))
          | .f32 => .reg x.d (BitVec.ofNat 32
              (if w ctr / 2 ^ 8 = 0 then 0 else (roundTo .f32 .rne false ⟨w ctr / 2 ^ 8, 2 ^ 24⟩).1))
          | t => outTy t.wide x.d (w ctr)) with
        ctl := [(10, ctr + if x.ty = .n64 then 2 else 1)] })) i x)

/-- 05 R104 to R107, R109 to R113, R118, R120 to R122: QCVT quantises eight values under a tensor scale to codes, a block scale and a
status word: each exact quotient goes to the neighbour on the format's grid that the mode names and saturates. DQCVT decodes eight codes
with one rounding each; PLPACK spreads 32 codes into the planes of their images. That an element which saturates also sets NX is the model's
reading (log entry 40), as is that a reserved code of a NaN block sets no flag (log entry 121). -/
def Obligations.NarrowConversions : Prop :=
  let rm := fun (x : Ext) (B : Block) (i : Nat) (m : Member) (k e : Nat) => (rndMode x.rnd (if B.triad then
    some (bitN (draw (m.first.ctl64 4).toNat (B.tid i % 2 ^ 32) (m.icount.toNat % 2 ^ 32)) ((k + 3 * e) % 32)) else none)).rm
  let regs := fun (n k : Nat) => (List.range k).map (fun i => (false, Opnd.lane (n + i)))
  let bits := fun (r : Regs) (n k : Nat) => (List.range k).foldl (fun a i => a + (r.lane (n + i)).toNat * 2 ^ (32 * i)) 0
  Rows .qcvt .qcvtBase 51 (fun i x => LaneClaimM false none (regs x.a 8 ++ [(false, .lane x.c)]) (fun s is j =>
    (s.member is.blk j).sibs.zipIdx.map (fun rk =>
      let xs := (List.range 8).map (fun e => fval .f32 (rk.1.lane (x.a + e)).toNat)
      let t := tensorScale (rk.1.lane x.c).toNat
      let q := quantiseBlock xs x.mod t (fun e => .mode (rm x (s.block is.blk) j (s.member is.blk j) rk.2 e)) true
      let codes := packCodes x.mod q.codes
      let status := q.b + boolN q.sat * 2 ^ 8 + boolN q.ufl * 2 ^ 9 + boolN q.nan * 2 ^ 10
      SibOut.flagged (.regs ((List.range (codeRegs x.mod)).map (fun e => (x.d + e, BitVec.ofNat 32 (codes / 2 ^ (32 * e)))) ++
        [(x.b, BitVec.ofNat 32 status)]))
        ((if q.inexact then flNX else 0) ||| (if q.sat then flOF else 0) |||
          (if (q.nan && t.isSome) || xs.any FV.isSnan then flNV else 0)))) i x) ∧
  (∀ x, LaneClaimM false none (regs x.a (codeRegs x.mod) ++ [(false, .lane x.b), (false, .lane x.c)]) (fun s is j =>
    (s.member is.blk j).sibs.zipIdx.map (fun rk =>
      let b := (rk.1.lane x.b).toNat % 2 ^ 8
      let code := fun e => bits rk.1 x.a (codeRegs x.mod) / 2 ^ (nfCw x.mod * e) % 2 ^ nfCw x.mod
      let one := fun e => match tensorScale (rk.1.lane x.c).toNat with
        | none => (Fmt.nanBits .f32, 0)
        | some t => if b = 0xFF then (Fmt.nanBits .f32, 0) else
          let v := nfValue x.mod (code e) b t
          let r := roundTo .f32 (rm x (s.block is.blk) j (s.member is.blk j) rk.2 e) v.neg v.q
          (r.1, r.2 ||| if nfReserved x.mod (code e) then flNV else 0)
      SibOut.flagged (.regs ((List.range 8).map (fun e => (x.d + e, BitVec.ofNat 32 (one e).1))))
        ((List.range 8).foldl (fun a e => a ||| (one e).2) 0))) (.dqcvt x) x) ∧
  (∀ x, LaneClaim false none (regs x.a (nfCw x.mod)) (fun _ r =>
    let code := fun e => bits r x.a (nfCw x.mod) / 2 ^ (nfCw x.mod * e) % 2 ^ nfCw x.mod
    SibOut.flagged (.regs ((List.range (nfPlanes x.mod)).map (fun p => (x.d + p, BitVec.ofNat 32
      ((List.range 32).foldl (fun a e => if planeBit x.mod (code e) p then setBitN a e else a) 0)))))
      (if (List.range 32).any (fun e => nfReserved x.mod (code e)) then flNV else 0)) (.plpack x) x) ∧
  (∀ (xs : List FV) (nf : Nat) (t : Q) (sel : Nat → NRound),
    let B := quantiseBlock xs nf (some t) sel true
    (quantiseBlock xs nf none sel true =
      { b := 0xFF, codes := List.replicate 8 0, nan := true, sat := false, ufl := false, inexact := false }) ∧
    (xs.any (fun v => v.isNan || v.isInf) = true →
      B = { b := 0xFF, codes := List.replicate 8 0, nan := true, sat := false, ufl := false, inexact := false }) ∧
    (xs.all (fun v => !v.isNan && !v.isInf && v.sq.isZero) = true →
      B = { b := 0, codes := List.replicate 8 0, nan := false, sat := false, ufl := false, inexact := false }) ∧
    ∀ M : Q, xs.any (fun v => v.isNan || v.isInf) = false → (∃ v ∈ xs, v.sq.q = M) → (∀ v ∈ xs, 0 < v.sq.q.d ∧ AtMost v.sq.q M) → 0 < M.n →
      0 < t.n → 0 < t.d →
      let emax : Int := [2, 2, 0, 0, 6, 6, 10].getD nf 0
      let b := max 1 (min (Q.ilogb ⟨M.n * t.d, M.d * t.n⟩ - emax + 127) 254)
      let s := Q.shift t (b - 127)
      let rs := xs.zipIdx.map (fun e => roundGrid nf (sel e.2) ⟨e.1.sq.neg, ⟨e.1.sq.q.n * s.d, e.1.sq.q.d * s.n⟩⟩)
      nf < 7 → (B.b : Int) = b ∧ B.codes = rs.map Prod.fst ∧ B.nan = false ∧ B.sat = rs.any (fun r => r.2.1) ∧
        (B.ufl = true ↔ B.sat = false ∧ ∀ c ∈ B.codes, c = 0) ∧ B.inexact = rs.any (fun r => r.2.2)) ∧
  (∀ (nf : Nat) (rm : RM) (neg : Bool) (q : Q) (lo hi : Nat), nf < 7 → 0 < q.d →
    let grid := fun v : Nat => nf ≠ 0 ∨ v < 2 ∨ ∃ k, v = 2 * 2 ^ k ∨ v = 3 * 2 ^ k
    let odd := fun v : Nat => if nf = 0 then v = 1 ∨ ∃ k, v = 3 * 2 ^ k else v % 2 = 1
    let n := if nf = 0 then 2 * q.n else q.n
    let up := match rm with
      | .rz => False
      | .up => neg = false
      | .down => neg = true
      | .rna => (lo + hi) * q.d ≤ 2 * n
      | .rne => (lo + hi) * q.d < 2 * n ∨ (lo + hi) * q.d = 2 * n ∧ odd lo
    let least : Int := [-12, -8, -2, -1, -128, -128, -2048].getD nf 0
    let most : Int := [12, 7, 1, 1, 127, 127, 2047].getD nf 0
    let r := roundGrid nf (.mode rm) ⟨neg, q⟩
    let gives := fun (v : Nat) (inexact : Bool) => let w : Int := if neg then -(v : Int) else v
      let k := max least (min w most)
      nfImage nf r.1 = k ∧ r.1 < 2 ^ nfCw nf ∧ (k = 0 → r.1 = 0) ∧ r.2.1 = decide (k ≠ w) ∧ r.2.2 = (inexact || decide (k ≠ w))
    grid lo → (n = lo * q.d → gives lo false) ∧
      (grid hi → lo < hi → (∀ v, lo < v → v < hi → ¬ grid v) → lo * q.d < n → n < hi * q.d →
        (up → gives hi true) ∧ (¬ up → gives lo true))) ∧
  (List.map (nfImage 0) (List.range 16) = [0, 1, 2, 3, 4, 6, 8, 12, 0, -1, -2, -3, -4, -6, -8, -12] ∧
    List.map (nfImage 1) (List.range 16) = [0, 1, 2, 3, 4, 5, 6, 7, -8, -7, -6, -5, -4, -3, -2, -1] ∧
    List.map (nfImage 2) (List.range 4) = [0, 1, -2, -1] ∧ List.map (nfImage 3) (List.range 4) = [0, 1, 0, -1] ∧
    (∀ c, c < 256 → nfImage 4 c = (if c < 128 then (c : Int) else c - 256) ∧ nfImage 5 c = nfImage 4 c) ∧
    (∀ c, c < 2 ^ 16 → nfImage 6 c = if c % 4096 < 2048 then (c % 4096 : Int) else c % 4096 - 4096) ∧
    List.map nfCw (List.range 7) = [4, 4, 2, 2, 8, 8, 16] ∧ List.map nfPlanes (List.range 7) = [5, 4, 2, 2, 8, 8, 12] ∧
    ∀ nf c, nf < 7 → (nfReserved nf c = true ↔ nf = 3 ∧ c % 4 = 2)) ∧
  (∀ (nf c b : Nat) (t : Q),
    let v := nfValue nf c b t
    v.neg = decide (nfImage nf c < 0) ∧
      v.q = Q.shift ⟨(nfImage nf c).natAbs * t.n, t.d⟩ ((b : Int) - 127 - if nf = 0 then 1 else 0)) ∧
  (∀ (nf : Nat) (cs : List Nat) (e : Nat), nf < 7 → (∀ c ∈ cs, c < 2 ^ nfCw nf) →
    packCodes nf cs / 2 ^ (nfCw nf * e) % 2 ^ nfCw nf = cs.getD e 0) ∧
  (∀ nf c p, nf < 7 → p < nfPlanes nf → (planeBit nf c p = true ↔
    if nf = 0 then (if p = 4 then c / 8 % 2 = 1 else (nfImage 0 c).natAbs / 2 ^ p % 2 = 1) else nfImage nf c / 2 ^ p % 2 = 1)) ∧
  ∀ v : Nat, v < 2 ^ 32 → (v = 0 → tensorScale v = some ⟨1, 1⟩) ∧
    (v ≠ 0 → tensorScale v = match fval .f32 v with
      | .fin false q => some q
      | _ => none)

/-- 04 R99; 02 R36: the targets of BRA, JMP, CALL and RET, and the return address that CALL writes to D. They complete so where each target
is a multiple of 4 and, for a register target, the STEER cause does not act (03 R56, R60). -/
def Obligations.Jumps : Prop :=
  let next := fun (x : Ext) (s : State) (is : Issue) (j : Nat) => nextPc (s.member is.blk j).pc x.len
  let off := fun (a : Nat) (x : Ext) => wrapN (a + 4 * x.simm) 57
  let reg := fun (x : Ext) (s : State) (is : Issue) (j : Nat) =>
    medianBy (fun v => (v : Int)) ((s.member is.blk j).sibs.map (fun r => opRead (s.block is.blk) r true (opA x))) % 2 ^ 57
  let ret := fun (x : Ext) (s : State) (is : Issue) (j : Nat) => SibOut.write (.pair x.d (BitVec.ofNat 64 (next x s is j)))
  let nothing := fun (_ : State) (_ : Issue) (_ : Nat) => SibOut.write .none
  Rows .bra .braBase 32 (fun i x => JumpClaim false none [] nothing (fun s is j => off (next x s is j) x) i x) ∧
  (∀ x, JumpClaim true none [(true, opA x)] nothing (fun s is j => off (reg x s is j) x) (.jmp x) x) ∧
  Rows .call .callBase 33 (fun i x => x.m0 = false → JumpClaim false none [] (ret x) (fun s is j => off (next x s is j) x) i x) ∧
  (∀ x, x.m0 = true → JumpClaim true none [(true, opA x)] (ret x) (reg x) (.call x) x) ∧
  (∀ x, JumpClaim true none [(true, opA x)] nothing (reg x) (.ret x) x)

/-- 04 R101: ELECT and the three forms of VOTE over the members of the issue with a true guard. -/
def Obligations.ElectAndVote : Prop :=
  let voters := fun (x : Ext) (s : State) (is : Issue) => is.mems.filter (fun j => (s.member is.blk j).guard x)
  let each := fun (s : State) (is : Issue) (j : Nat) (o : Out) => (s.member is.blk j).sibs.map (fun _ => SibOut.log o)
  Rows .elect .electBase 35 (fun i x => LaneClaimM false (some 4) [] (fun s is j =>
    each s is j (.pred x.d ((voters x s is).head? == some j))) i x) ∧
  ∀ x, LaneClaimM false (some 4) [(false, .pred x.a)] (fun s is j =>
    let yes := fun i => (s.member is.blk i).sibs.map (fun r => r.pred x.a)
    each s is j (
      if x.mod = 0 then .pred x.d ((voters x s is).any (fun i => (yes i).any id))
      else if x.mod = 1 then .pred x.d ((voters x s is).all (fun i => (yes i).all id))
      else if x.mod = 2 then .pair x.d (BitVec.ofNat 64 ((voters x s is).foldl (fun m i => (yes i).zipIdx.foldl (fun m bk =>
        if bk.1 then setBitN m ((s.member is.blk i).lane % 48 + bk.2) else m) m) 0))
      else .pred x.d ((voters x s is).any (fun i => (yes i).any id)))) (.vote x) x

/-- 02 R40: the base form of NOP is the word 0x0000_07E0; NOP, in its base form and in its extended form with a guard and a stall count,
changes nothing but PC and icount; every other field of an accepted NOP is 0. -/
def Obligations.NopAdvancesOnly : Prop :=
  decode [0xE0, 0x07, 0x00, 0x00] = .ok (.nopBase { d := 0, a := 0, b := 0, stall := 0 }) ∧
  Rows .nop .nopBase 63 (fun i x => LaneClaim false none [] (fun _ _ => SibOut.write .none) i x) ∧
  ∀ x, (Instr.nop x).wf = true → x.minor = 0 ∧ x.d = 0 ∧ x.a = 0 ∧ x.b = 0 ∧ x.c = 0 ∧ x.imm = 0 ∧ x.mod = 0 ∧ x.ty = .f32 ∧
    x.rnd = .draw ∧ x.ord = .plain ∧ x.scope = .thread ∧ x.form = .ext

/-- 02 R41: hint 0x010 reads the die's frequency step, hint 0x020 marks the thread as spin-waiting for 64 cycles, and any other hint
changes nothing but PC and icount. -/
def Obligations.Hints : Prop :=
  (∀ x, x.minor = 0x10 → LaneClaimM false (some 2) [] (fun s is j => (s.member is.blk j).sibs.map (fun _ =>
    SibOut.write (.reg x.d (BitVec.ofNat 32 (s.die (coreDie (s.block is.blk).core)).step)))) (.hint x) x) ∧
  (∀ x, x.minor ≠ 0x10 → x.minor ≠ 0x20 → LaneClaim false (some 2) [] (fun _ _ => SibOut.write .none) (.hint x) x) ∧
  ∀ x s is, x.minor = 0x20 → Issued s is → (∀ j ∈ is.mems, Ready false x [] s is j) →
    ∃ t, exec (.hint x) s = .next t ∧ IssueFrame is.blk s t ∧ ∀ i ∈ is.mems, t.member is.blk i =
      { retired x (some 2) (s.block is.blk).handler.isSome (s.member is.blk i) [] (nextPc (s.member is.blk i).pc x.len) with
        spin := if (s.member is.blk i).guard x then 65 else (s.member is.blk i).spin }

/-- 12 R221; 10 R179, R180: LDL, STL, LDS and STS of an aligned offset inside the partition: a load extends the bytes of the thread's own
lane store, or of the block's scratchpad, into D; a store changes those bytes and nothing else in memory. -/
def Obligations.WindowAccesses : Prop :=
  let ld := windowReads
  let at' := fun (x : Ext) (store : Bool) (s : State) (is : Issue) (i off size : Nat) =>
    Single true x (readRegs (ld x store)) s is i ∧ windowOffset x (memIn s is i x (ld x store)) = off ∧
    off + tyBytes x.ty ≤ size ∧ off % tyBytes x.ty = 0
  let data := fun (x : Ext) (s : State) (is : Issue) (i : Nat) => (memIn s is i x (ld x true)).src 3
  Rows .ldl .ldlBase 41 (fun ins x => ∀ s is i off, at' x false s is i off (s.block is.blk).lsSize →
    ∃ t, exec ins s = .next t ∧ Completes x (started s) t is.blk i (fun k => [outTy x.ty.wide x.d (loadExtend x.ty
      (((s.member is.blk i).sibs.map (fun r => leNat (lsRead r off (tyBytes x.ty)))).getD k 0))])) ∧
  (∀ x s is i off, at' x true s is i off (s.block is.blk).lsSize →
    let m := s.member is.blk i
    ∃ t, exec (.stl x) s = .next t ∧ Completes x ((started s).setMember is.blk i { m with sibs := m.sibs.zipIdx.map (fun rk =>
      lsWrite rk.1 off (leBytes (tyBytes x.ty) ((data x s is i).getD rk.2 0))) }) t is.blk i (fun _ => [])) ∧
  Rows .lds .ldsBase 42 (fun ins x => ∀ s is i off, at' x false s is i off (spadSizeOf s is.blk) →
    ∃ t, exec ins s = .next t ∧ Completes x (acquireEffect (started s) is.blk i x.ord x.scope) t is.blk i
      (fun _ => [outTy x.ty.wide x.d (loadExtend x.ty (leNat (spadRead s is.blk off (tyBytes x.ty))))])) ∧
  ∀ x s is i off, at' x true s is i off (spadSizeOf s is.blk) →
    ∃ t, exec (.sts x) s = .next t ∧ Completes x
      (spadWrite (started s) is.blk off (leBytes (tyBytes x.ty) (tyStored x.ty (data x s is i)))) t is.blk i (fun _ => [])

/-- 12 R219, R220, R225, R226; 10 R186, R192; 03 R64 to R66; 11 R202: record accesses of an element whose address lies in a reachable place.
LD gives each sibling what its place gives it, and zeros out of bounds under ZERO; ST stores the bytes of its value at the place, a digit
byte beside them on a DIGEST page, and changes no other byte; PRF changes nothing but caches and translations, also where its bounds,
translation or access check fails; LDBUF loads a valid record into the block's buffer register. -/
def Obligations.RecordAccesses : Prop :=
  let ready := fun (x : Ext) (store : Bool) (s : State) (is : Issue) (i : Nat) =>
    Single true x (readRegs (recordReads x store)) s is i
  let at' := fun (x : Ext) (store : Bool) (s : State) (is : Issue) (i : Nat) =>
    let l := memIn s is i x (recordReads x store)
    recordPlace s is.blk ((s.block is.blk).buffer x.b) (indexOf x l) (coord1 x l) (tyBytes x.ty)
  let fence := fun (x : Ext) (s : State) (is : Issue) (i : Nat) => acquireEffect s is.blk i x.ord x.scope
  Rows .ld .ldBase 40 (fun ins x => ∀ s is i, ready x false s is i →
    (at' x false s is i = .ok none → ∃ t, exec ins s = .next t ∧
      Completes x (started s) t is.blk i (fun _ => [outTy x.ty.wide x.d (loadExtend x.ty 0)])) ∧
    ∀ pl u vs, at' x false s is i = .ok (some pl) →
      loadPlace (fence x (started s) is i) is.blk (s.member is.blk i) x.ty pl = (u, .ok vs) → ∃ t, exec ins s = .next t ∧
        Completes x (fence x u is i) t is.blk i (fun k => [outTy x.ty.wide x.d (loadExtend x.ty (vs.getD k 0))])) ∧
  (∀ x s is i, ready x true s is i →
    (at' x true s is i = .ok none → ∃ t, exec (.st x) s = .next t ∧ Completes x (started s) t is.blk i (fun _ => [])) ∧
    ∀ pl u, at' x true s is i = .ok (some pl) →
      storePlace (started s) is.blk i x.ty pl ((memIn s is i x (recordReads x true)).src 3) = (u, none) →
      ∃ t, exec (.st x) s = .next t ∧ Completes x (storeEffect u is.blk x.ord x.scope) t is.blk i (fun _ => [])) ∧
  (∀ (s v u : State) (b i : Nat) (t : Ty) (va : Nat) (vs : List Nat) (p : Page) (f : Option Flt), let n := tyBytes t
    let m := s.member b i
    reach s (threadOf (s.block b)) va n .write 3 = (v, .ok p) → storePlace s b i t (.page va) vs = (u, f) →
    (p.rep ≠ 1 → p.rep ≠ 2 → f = none ∧ WroteAt u.mem s.mem p.key (leBytes n (tyStored t vs))) ∧
    (p.rep = 1 → n ≤ p.size → f = none ∧ WrotePlanes u.mem s.mem p n (fun k => leBytes n (vs.getD k (vs.headD 0)))) ∧
    (p.rep = 2 → ∀ w, (∀ g, digitChecks v b m (touchedWords va n) = (w, .error g) → f = some g ∧ u = w ∧ u.mem = s.mem) ∧
      ∀ dps, digitChecks v b m (touchedWords va n) = (w, .ok dps) → f = none ∧ ∃ k, WroteAt k.mem s.mem p.key (leBytes n (tyStored t vs)) ∧
        u = dps.foldl (fun s dp => digitStore s b i dp (digitByte t vs)) k)) ∧
  (∀ (s : State) (b i off : Nat) (t : Ty) (vs : List Nat), let n := tyBytes t
    let m := s.member b i
    storePlace s b i t (.spad off) vs = (spadWrite s b off (leBytes n (tyStored t vs)), none) ∧
    storePlace s b i t (.lane off) vs = (s.setMember b i { m with sibs := m.sibs.zipIdx.map (fun rk =>
      lsWrite rk.1 off (leBytes n (vs.getD rk.2 0))) }, none)) ∧
  (∀ x s is i, ready x false s is i → ((∃ pl, at' x false s is i = .ok pl) ∨ (∃ a, at' x false s is i = .error (fltOf .bounds a))) →
    ∃ t u, exec (.prf x) s = .next t ∧ lookedUp (started s) u ∧ u.blocks = s.blocks ∧ Completes x u t is.blk i (fun _ => [])) ∧
  ∀ x s is i pl u bs, Single true x (readRegs [(true, opA x), noRead, noRead, noRead]) s is i →
    placeVa s is.blk (addressOfPair x (memIn s is i x [(true, opA x), noRead, noRead, noRead])) 32 = .ok pl →
    bytesAtPlace (started s) is.blk (s.member is.blk i) 32 pl = (u, .ok bs) → recordOk (BitVec.ofNat 256 (leNat bs)) = true →
    ∃ t, exec (.ldbuf x) s = .next t ∧ Completes x (u.setBlock is.blk { u.block is.blk with
      buf := SMap.set 0 (u.block is.blk).buf (x.d % 32) (BitVec.ofNat 256 (leNat bs)) }) t is.blk i (fun _ => [])

/-- 03 R64 to R67: what a store to a translated page that no L1 holds leaves for a later load of the same TYPE. On a PLAIN page every sibling
loads the one value that the triad stored; on a TRIPLET page each of three siblings loads its own; on a DIGEST page a triad's floating-point
load spreads the value by its digit byte, and any other load gives the value alone. The stored form of a value is the mean of three
floating-point values, the median of three integers, and a solo thread's own value; the digit byte is their digit count. -/
def Obligations.StoreThenLoad : Prop :=
  (∀ (s u s1 u1 : State) (b i : Nat) (t : Ty) (va : Nat) (vs : List Nat) (p q : Page),
    reach s (threadOf (s.block b)) va (tyBytes t) .write 3 = (s1, .ok p) → storePlace s b i t (.page va) vs = (u, none) →
    reach u (threadOf (s.block b)) va (tyBytes t) .read (s.member b i).nsib = (u1, .ok q) → q.key = p.key → q.rep = p.rep →
    q.size = p.size → tyBytes t ≤ p.size → p.cached = false → q.cached = false →
    (p.rep = 0 → ∃ v, loadPlace u b (s.member b i) t (.page va) =
      (v, .ok (List.replicate (s.member b i).nsib (tyStored t vs % 2 ^ (8 * tyBytes t))))) ∧
    (p.rep = 1 → (s.member b i).nsib = 3 → vs.length = 3 → ∃ v, loadPlace u b (s.member b i) t (.page va) =
      (v, .ok (vs.map (fun x => x % 2 ^ (8 * tyBytes t)))))) ∧
  (∀ (u u1 : State) (b : Nat) (m : Member) (t : Ty) (va : Nat) (q : Page),
    reach u (threadOf (u.block b)) va (tyBytes t) .read m.nsib = (u1, .ok q) → q.rep = 2 → q.cached = false →
    let value := Memory.nat u.mem q.key (tyBytes t)
    (t.float = false ∨ m.nsib ≠ 3 → ∃ v, loadPlace u b m t (.page va) = (v, .ok (List.replicate m.nsib value))) ∧
    (t.float = true → m.nsib = 3 → ∀ w dp, digitCheck u1 b m (va / 4 * 4) .read = (w, .ok dp) →
      ∃ k v, k.mem = u.mem ∧ loadPlace u b m t (.page va) = (v, .ok (digestSpread t value (digitLoad k b m dp).2)))) ∧
  (∀ (t : Ty) (a b c : Nat), let half := fun h v => if t.packed then v / 2 ^ (16 * h) % 2 ^ 16 else v % 2 ^ t.width
    let f := tyFmt t
    let halves := if t.packed then 2 else 1
    let r := tyStored t [a, b, c]
    tyStored t [a] = a % 2 ^ t.width ∧ digitByte t [a] = (if t.float then f.prec else 0xFF) ∧
    (t.float = false → digitByte t [a, b, c] = 0xFF ∧ r < 2 ^ t.width ∧
      ival t r = max (min (ival t a) (ival t b)) (min (max (ival t a) (ival t b)) (ival t c))) ∧
    (t.float = true →
      (∀ h, h < halves → digitByte t [a, b, c] ≤ digCount f [half h a, half h b, half h c]) ∧
      (∃ h, h < halves ∧ digitByte t [a, b, c] = digCount f [half h a, half h b, half h c]) ∧
      ∀ h, h < halves → let vs := [half h a, half h b, half h c].map (fval f)
        let pos := vs.contains (.inf false)
        let neg := vs.contains (.inf true)
        let sum := (fval f (half h a)).sq.add ((fval f (half h b)).sq.add (fval f (half h c)).sq)
        half h r = if vs.any FV.isNan = true ∨ (pos = true ∧ neg = true) then f.nanBits
          else if pos = true then f.infBits
          else if neg = true then signOf f true + f.infBits
          else if sum.isZero = true then signOf f (vs.all FV.neg?)
          else (roundTo f .rne sum.neg ⟨sum.q.n, sum.q.d * 3⟩).1)) ∧
  (∀ (f : Fmt) (m d : Nat), (∀ n q, fval f m = .fin n q →
      (q.zero = true → digestLoad f m d = [0, 0, 0]) ∧ (q.zero = false → f.prec ≤ d → digestLoad f m d = [m, m, m]) ∧
      (q.zero = false → d < f.prec → let near := fun v : SQ => if v.isZero then 0 else (roundTo f .rne v.neg v.q).1
        let δ := dyadic 1 (q.ilogb - d)
        digestLoad f m d = [near (SQ.add ⟨n, q⟩ ⟨true, δ⟩), m, near (SQ.add ⟨n, q⟩ ⟨false, δ⟩)])) ∧
    ((fval f m).isNan = true ∨ (fval f m).isInf = true → digestLoad f m d = [m, m, m])) ∧
  ∀ (t : Ty) (m d : Nat), digestSpread t m d = if t.packed
    then List.zipWith (fun a b => a % 2 ^ 16 + b % 2 ^ 16 * 2 ^ 16) (digestLoad (tyFmt t) (m % 2 ^ 16) d)
      (digestLoad (tyFmt t) (m / 2 ^ 16 % 2 ^ 16) d)
    else digestLoad (tyFmt t) m d

/-- 12 R222 to R224; 10 R182, R195; 11 R204: LDX reads a word and its full/empty bit; LDF of a full word reads it and sets it empty; STE to an
empty word writes it and sets it full; TAGSET and TAGCLR set and clear the bits of consecutive words. Each transition is an acquire at
core scope. That the word count of TAGSET and TAGCLR is the unsigned median of the siblings' is the model's choice (log entry 109). -/
def Obligations.FullEmptyWords : Prop :=
  let word := fun (x : Ext) (store : Bool) (s : State) (is : Issue) (i off : Nat) =>
    Single true x (readRegs (windowReads x store)) s is i ∧ windowOffset x (memIn s is i x (windowReads x store)) = off ∧
    off + 4 ≤ spadSizeOf s is.blk ∧ off % 4 = 0
  let tagR := fun (x : Ext) => [indexReads x, if x.m1 then (false, .lane x.b) else noRead, noRead, noRead]
  let count := fun (x : Ext) (s : State) (is : Issue) (i : Nat) =>
    if x.m1 then medianBy (fun v => (v : Int)) ((memIn s is i x (tagR x)).src 1) else 1
  let after := fun (b i : Nat) (u : State) => acquireEffect u b i .acquire .core
  let mark := fun (v : Bool) (ins : Ext → Instr) => ∀ x s is i off, Single true x (readRegs (tagR x)) s is i →
    windowOffset x (memIn s is i x (tagR x)) = (off : Nat) → 1 ≤ count x s is i → count x s is i ≤ 1024 →
    off + 4 * count x s is i ≤ spadSizeOf s is.blk → off % 4 = 0 → ∃ t, exec (ins x) s = .next t ∧
      Completes x (after is.blk i ((List.range (count x s is i)).foldl (fun u k => setFull u is.blk (off + 4 * k) v) (started s))) t is.blk i
        (fun _ => [])
  (∀ x s is i off, word x false s is i off → ∃ t, exec (.ldx x) s = .next t ∧ Completes x (started s) t is.blk i (fun _ =>
    [.reg x.d (BitVec.ofNat 32 (leNat (spadRead s is.blk off 4))), .pred x.c (fullBit s is.blk off)])) ∧
  Rows .ldf .ldfBase 43 (fun ins x => ∀ s is i off, word x false s is i off → fullBit s is.blk off = true →
    ∃ t, exec ins s = .next t ∧ Completes x (after is.blk i (setFull (started s) is.blk off false)) t is.blk i (fun _ =>
      [outTy x.ty.wide x.d (loadExtend x.ty (leNat (spadRead s is.blk off 4)))])) ∧
  (∀ x s is i off, word x true s is i off → fullBit s is.blk off = false → ∃ t, exec (.ste x) s = .next t ∧
    Completes x (after is.blk i (setFull (spadWrite (started s) is.blk off
      (leBytes 4 (tyStored x.ty ((memIn s is i x (windowReads x true)).src 3)))) is.blk off true)) t is.blk i (fun _ => [])) ∧
  mark true .tagset ∧ mark false .tagclr

/-- 12 R227, R228; 10 R194: WALK.bind of a valid descriptor binds the walker; WALK.next gives the element at the walker's index and the
predicates of its dimensions and moves to the next, and gives zeros when the walker is unbound or has passed its last element. -/
def Obligations.Walkers : Prop :=
  let A := fun (x : Ext) => [(false, opA x), noRead, noRead, noRead]
  Rows .walkBind .walkBindBase 44 (fun ins x => ∀ s is i off, Single true x (readRegs (A x)) s is i →
    medianBy (fun v => (v : Int)) ((memIn s is i x (A x)).src 0) = off → off % 64 = 0 → off + 64 ≤ spadSizeOf s is.blk →
    descOk (spadRead s is.blk off 64) = true →
    let m := s.member is.blk i
    let w := descWalker (spadRead s is.blk off 64) ((s.block is.blk).buffer x.b) x.ty
    ∃ t, exec ins s = .next t ∧
      Completes x ((started s).setMember is.blk i { m with walkers := SMap.put m.walkers (x.d % 8) w }) t is.blk i (fun _ => [])) ∧
  ∀ x s is i, Single false x [] s is i →
    let m := s.member is.blk i
    let w := m.walker (x.a % 8)
    let moved := fun (u : State) (w' : Walker) => u.setMember is.blk i { u.member is.blk i with
      walkers := SMap.put (u.member is.blk i).walkers (x.a % 8) w' }
    (w.bound = false → ∃ t, exec (.walkNext x) s = .next t ∧
      Completes x (started s) t is.blk i (fun _ => [outTy x.ty.wide x.d 0])) ∧
    (w.bound = true → w.ty = x.ty → w.total ≤ w.next → ∃ t, exec (.walkNext x) s = .next t ∧
      Completes x (moved (started s) { w with next := w.total }) t is.blk i
        (fun _ => outTy x.ty.wide x.d (loadExtend x.ty 0) :: w.dims.map (fun d => .pred d.pred true))) ∧
    (w.bound = true → w.ty = x.ty → w.next < w.total → ∀ vs r, w.ahead = some vs :: r → ∃ t, exec (.walkNext x) s = .next t ∧
      Completes x (moved (started s) { w with next := w.next + 1, ahead := r }) t is.blk i
        (fun k => outTy x.ty.wide x.d (loadExtend x.ty ((vs.map BitVec.toNat).getD k 0)) :: walkPreds w w.next)) ∧
    (w.bound = true → w.ty = x.ty → w.next < w.total → (w.ahead = [] ∨ ∃ r, w.ahead = none :: r) → ∀ u vs,
      walkElement (started s) is.blk m w w.next = (u, .ok vs) → ∃ t, exec (.walkNext x) s = .next t ∧
      Completes x (moved u { w with next := w.next + 1, ahead := w.ahead.drop 1 }) t is.blk i
        (fun k => outTy x.ty.wide x.d (loadExtend x.ty (vs.getD k 0)) :: walkPreds w w.next))

/-- 12 R229; 03 R65, R66, R68; 10 R179, R188 with the table of operations: ATOM at a reachable place gives each sibling the old value, and the
bytes at the place become those of the new one; on a TRIPLET page each plane has its own. RED only does the latter; every other byte of
memory is as before; out of bounds under ZERO neither has an effect on memory. That a solo atomic on a TRIPLET page computes every plane's
new value from plane 0 is the model's reading (log entry 18). -/
def Obligations.Atomics : Prop :=
  let at' := fun (x : Ext) (s : State) (is : Issue) (i : Nat) =>
    recordPlace s is.blk ((s.block is.blk).buffer x.b) (indexOf x (memIn s is i x (atomReads x))) 0 (tyBytes x.ty)
  let fence := fun (x : Ext) (s : State) (is : Issue) (i : Nat) => acquireEffect s is.blk i x.ord x.scope
  let row := fun (dest : Bool) (ins : Instr) (x : Ext) => ∀ s is i, Single true x (readRegs (atomReads x)) s is i →
    let give := fun v => if dest then [outTy x.ty.wide x.d (loadExtend x.ty v)] else []
    (at' x s is i = .ok none → ∃ t, exec ins s = .next t ∧ Completes x (started s) t is.blk i (fun _ => give 0)) ∧
    ∀ pl u vs, at' x s is i = .ok (some pl) → atomPlace (fence x (started s) is i) is.blk i (x.minor % 8) x.ty pl
        ((memIn s is i x (atomReads x)).src 2) ((memIn s is i x (atomReads x)).src 3) = (u, .ok vs) →
      ∃ t, exec ins s = .next t ∧ Completes x (fence x u is i) t is.blk i (fun k => give (vs.getD k 0))
  Rows .atom .atomBase 45 (row true) ∧ (∀ x, row false (.red x) x) ∧
  (∀ (s v : State) (b i op : Nat) (t : Ty) (va : Nat) (cs ds : List Nat) (p : Page), let n := tyBytes t
    let m := s.member b i
    let med := fun xs : List Nat => medianBy (ival t) (xs.map (fun x => x % 2 ^ t.width))
    let old := fun k => Memory.nat s.mem (p.plane k) n
    reachAtomic s (threadOf (s.block b)) va n 3 = (v, .ok p) →
    (∃ w, lookedUp s w ∧ reach w (threadOf (s.block b)) va n .atomic 3 = (v, .ok p)) ∧ p.atomOk = true ∧
    (p.rep ≠ 1 → p.rep ≠ 2 → ∃ u, atomPlace s b i op t (.page va) cs ds = (u, .ok (List.replicate m.nsib (old 0))) ∧
      WroteAt u.mem s.mem p.key (leBytes n (atomNew op t (old 0) (med cs) (med ds)))) ∧
    (p.rep = 1 → n ≤ p.size → m.nsib = 3 → ∃ u, atomPlace s b i op t (.page va) cs ds = (u, .ok [old 0, old 1, old 2]) ∧
      WrotePlanes u.mem s.mem p n (fun k => leBytes n (atomNew op t (old k) (cs.getD k 0) (ds.getD k 0)))) ∧
    (p.rep = 1 → n ≤ p.size → m.nsib = 1 → ∃ u, atomPlace s b i op t (.page va) cs ds = (u, .ok [old 0]) ∧
      WrotePlanes u.mem s.mem p n (fun _ => leBytes n (atomNew op t (old 0) (med cs) (med ds)))) ∧
    (p.rep = 2 → ∀ w dps, digitChecks v b m (touchedWords va n) = (w, .ok dps) →
      ∃ k u, atomPlace s b i op t (.page va) cs ds = (u, .ok (List.replicate m.nsib (old 0))) ∧
        WroteAt k.mem s.mem p.key (leBytes n (atomNew op t (old 0) (med cs) (med ds))) ∧
        u = dps.foldl (fun s dp => digitStore s b i dp 0xFF) k)) ∧
  (∀ (s : State) (b i off op : Nat) (t : Ty) (cs ds : List Nat), let n := tyBytes t
    let m := s.member b i
    let med := fun xs : List Nat => medianBy (ival t) (xs.map (fun x => x % 2 ^ t.width))
    let own := leNat (spadRead s b off n)
    let each := fun r : Regs => leNat (lsRead r off n)
    atomPlace s b i op t (.spad off) cs ds =
      (spadWrite s b off (leBytes n (atomNew op t own (med cs) (med ds))), .ok (List.replicate m.nsib own)) ∧
    ∃ u, atomPlace s b i op t (.lane off) cs ds = (u, .ok (m.sibs.map each)) ∧ u = s.setMember b i { m with
      sibs := m.sibs.zipIdx.map (fun rk => lsWrite rk.1 off
        (leBytes n (atomNew op t (each rk.1) (cs.getD rk.2 0) (ds.getD rk.2 0)))) }) ∧
  ∀ (t : Ty) (old c d : Nat), old < 2 ^ t.width → c < 2 ^ t.width → d < 2 ^ t.width →
    let iv := ival t
    atomNew 0 t old c d = (old + c) % 2 ^ t.width ∧ iv (atomNew 1 t old c d) = min (iv old) (iv c) ∧
    iv (atomNew 2 t old c d) = max (iv old) (iv c) ∧ atomNew 3 t old c d = old &&& c ∧ atomNew 4 t old c d = old ||| c ∧
    atomNew 5 t old c d = old ^^^ c ∧ atomNew 6 t old c d = c ∧ atomNew 7 t old c d = if old = d then c else old

/-- 12 R230 to R235: FENCE; BAR.ARRIVE of a barrier word, whose last arrival starts the next phase; BAR.WAIT for a phase that has
passed; SYNCOP with its table of operations. -/
def Obligations.Synchronisation : Prop :=
  let fence := fun (o : MOrd) (x : Ext) (s : State) (is : Issue) (i : Nat) => acquireEffect s is.blk i o x.scope
  let addr := fun (x : Ext) (r : List (Bool × Opnd)) (s : State) (is : Issue) (i : Nat) => addressOfPair x (memIn s is i x r)
  let opC' := fun (x : Ext) => (true, if x.m1 then Opnd.uni x.c else .lane x.c)
  let opR := fun (x : Ext) => syncReads x (opC' x) (if x.b % 8 = 6 then (true, .lane x.d) else noRead)
  (∀ x s is i, Single false x [] s is i → ∃ t, exec (.fence x) s = .next t ∧ Completes x
    (fence x.ord x (if x.scope = .thread then started s else dropAhead (started s) is.blk i) is i) t is.blk i (fun _ => [])) ∧
  (∀ x s is i u key w, Single true x (readRegs (syncReads x noRead noRead)) s is i →
    syncReach (started s) (threadOf (s.block is.blk)) (addr x (syncReads x noRead noRead) s is i) .atomic = (u, .ok (key, w)) →
    isBarrier w = true → barArrived w < barExpect w →
    let last := decide (barArrived w + 1 = barExpect w)
    let next := mkBarrier (barExpect w) (if last then 0 else barArrived w + 1) (if last then barPhase w + 1 else barPhase w)
    ∃ t, exec (.barArrive x) s = .next t ∧
      Completes x (syncWrite u key next) t is.blk i (fun _ => [.reg x.d (BitVec.ofNat 32 (barPhase w))])) ∧
  (∀ x s is i u key w, let r := syncReads x (false, .lane x.c) noRead
    Single true x (readRegs r) s is i →
    syncReach (started s) (threadOf (s.block is.blk)) (addr x r s is i) .read = (u, .ok (key, w)) →
    isBarrier w = true → barArrived w < barExpect w →
    barPhase w ≠ medianBy (fun v => (v : Int)) ((memIn s is i x r).src 2) % 2 ^ 16 →
    ∃ t, exec (.barWait x) s = .next t ∧ Completes x (fence .acquire x u is i) t is.blk i (fun _ => [])) ∧
  (∀ x s is i u key w, Single true x (readRegs (opR x)) s is i →
    syncReach (fence x.ord x (started s) is i) (threadOf (s.block is.blk)) (addr x (opR x) s is i) (syncKind (x.b % 8)) =
      (u, .ok (key, w)) →
    let med := fun k => medianBy (fun v => (v : Int)) ((memIn s is i x (opR x)).src k)
    (x.b % 8 = 7 → med 2 % 2 ^ 16 ≠ 0) →
    ∃ t, exec (.syncop x) s = .next t ∧ Completes x (fence x.ord x
      (if x.b % 8 = 0 then u else syncWrite u key (syncNew (x.b % 8) w (med 2) (med 3))) is i) t is.blk i
      (fun _ => if x.b % 8 = 1 then [] else [.pair x.d (BitVec.ofNat 64 w)])) ∧
  ∀ w c d : Nat, syncNew 1 w c d = c ∧ syncNew 2 w c d = (w + c) % 2 ^ 64 ∧ syncNew 3 w c d = w ||| c ∧ syncNew 4 w c d = w &&& c ∧
    syncNew 5 w c d = c ∧ syncNew 6 w c d = (if w = d then c else w) ∧
    syncNew 7 w c d = mkBarrier c 0 (if isBarrier w then barPhase w else 0)

/-- 12 R237, R238: tag waits whose condition holds complete; TFIRST gives the lowest set tag of its mask, or all ones; OWN.GIVE hands a slot
of the threads to the engines, and OWN.TAKE takes it back where no copy has claimed it. That a completion wait acquires at die scope,
whatever set the tag, is the model's choice (log entry 37). -/
def Obligations.TagsAndOwnerBits : Prop :=
  let mask := fun (x : Ext) (s : State) (is : Issue) (i : Nat) =>
    if x.m0 then 2 ^ (x.imm % 64) else medianBy (fun v => (v : Int)) ((memIn s is i x (tagReads x)).src 0)
  let slot := fun (x : Ext) (s : State) (is : Issue) (i : Nat) =>
    if x.m0 then x.imm % 128 else medianBy (fun v => (v : Int)) ((memIn s is i x (slotReads x)).src 0)
  let wait := fun (all : Bool) (ins : Instr) (x : Ext) => ∀ s is i, Single true x (readRegs (tagReads x)) s is i →
    mask x s is i < 2 ^ (s.block is.blk).tagN →
    let named := (List.range 64).filter (fun n => bitN (mask x s is i) n)
    (named = [] → ∃ t, exec ins s = .next t ∧ Completes x (started s) t is.blk i (fun _ => [])) ∧
    (named ≠ [] → (if all then ∀ n ∈ named, tagSet (s.block is.blk) n = true else ∃ n ∈ named, tagSet (s.block is.blk) n = true) →
      ∃ t, exec ins s = .next t ∧ Completes x (acquireEffect (started s) is.blk i .acquire .die) t is.blk i (fun _ => []))
  Rows .twaitany .twaitanyBase 57 (wait false) ∧ (∀ x, wait true (.twaitall x) x) ∧
  (∀ x s is i, Single true x (readRegs (tagReads x)) s is i → mask x s is i < 2 ^ (s.block is.blk).tagN →
    match ((List.range 64).filter (fun n => bitN (mask x s is i) n)).find? (tagSet (s.block is.blk)) with
    | some n => ∃ t, exec (.tfirst x) s = .next t ∧ Completes x (acquireEffect (started s) is.blk i .acquire .die) t is.blk i
        (fun _ => [.reg x.d (BitVec.ofNat 32 n)])
    | none => ∃ t, exec (.tfirst x) s = .next t ∧ Completes x (started s) t is.blk i (fun _ => [.reg x.d 0xFFFF_FFFF])) ∧
  (∀ x s is i, Single true x (readRegs (slotReads x)) s is i → 4096 * slot x s is i < spadSizeOf s is.blk →
    ownerOf (s.block (spadHome s is.blk)) (slot x s is i) = .threads → ∃ t, exec (.ownGive x) s = .next t ∧
      Completes x (setOwner (started s) is.blk (slot x s is i) .given) t is.blk i (fun _ => [])) ∧
  ∀ x s is i, Single true x (readRegs (slotReads x)) s is i → 4096 * slot x s is i < spadSizeOf s is.blk →
    (∀ c, ownerOf (s.block (spadHome s is.blk)) (slot x s is i) ≠ .claimed c) → ∃ t, exec (.ownTake x) s = .next t ∧
      Completes x (setOwner (started s) is.blk (slot x s is i) .threads) t is.blk i (fun _ => [])

/-- 02 R22, R23 and the worked encodings of 02 and 04: a few words written out bit by bit are the instructions they stand for. -/
def Obligations.WorkedEncodings : Prop :=
  let e : Ext := { form := .ext, minor := 0, guard := 7, neg := false, stall := 0, ty := .s32, rnd := .draw, ord := .plain,
                   scope := .thread, mod := 0, d := 0, a := 0, b := 0, c := 0, imm := 0, lit := 0 }
  let reads := fun (ws : List Nat) (i : Instr) => decode (wordBytes ws) = .ok i
  reads [0x0C142251, 0x00202C00, 0x00000007]
    (.ffma { e with guard := 3, neg := true, stall := 4, ty := .f32, rnd := .rz, d := 4, a := 5, b := 6, c := 7 }) ∧
  reads [0x00041021, 0x20061C00, 0xFFFFFD80] (.iadd { e with mod := 1, d := 2, a := 1, imm := 0x1FFFFFB }) ∧
  reads [0x00041022, 0x12345678, 0x00000000] (.iadd { e with form := .baseLit, d := 2, a := 1, lit := 0x12345678 }) ∧
  reads [0x000009E1, 0x200E1C01, 0x00000180] (.movi { e with minor := 1, ty := .b32, mod := 1, d := 1, imm := 3 }) ∧
  reads [0x02081028] (.iaddBase { d := 2, a := 2, b := 1, stall := 2 }) ∧
  reads [0x000409A9, 0x20061C04, 0x00000000] (.icmp { e with minor := 4, stall := 2, mod := 1, d := 1, a := 1 }) ∧
  reads [0x00000401, 0x00000400, 0xFFFFFB00] (.bra { e with guard := 1, ty := .f32, imm := 0x1FFFFF6 }) ∧
  reads [0x00000440] (.exitBase { d := 0, a := 0, b := 0, stall := 0 })

/-- 02 R22 to R30: decoding the bytes of any well-formed instruction gives it back, every field at every value that the encoding admits,
whatever bytes follow. -/
def Obligations.DecodeOfEncode : Prop :=
  ∀ (i : Instr) (rest : List Byte), i.wf = true → decode (wordBytes (encode i) ++ rest) = .ok i

/-- 02 R22, R38: what decodes is well-formed, and its encoding is the bytes that were decoded: no bit is dropped and two words never
stand for one instruction. -/
def Obligations.EncodeOfDecode : Prop :=
  ∀ (bs : List Byte) (i : Instr), decode bs = .ok i → i.wf = true ∧ wordBytes (encode i) = bs.take (lenOf (wordAt bs 0))

/-- 02 R35, R37: where the bytes fetched for the selected issue decode, the step is that instruction's exec. The bytes are those of a
replay entry, or those of the instruction-cache line that holds the PC, or of memory at the PC's translation. -/
def Obligations.StepRunsDecoded : Prop :=
  ∀ (s u : State) (is : Issue) (bs : List Byte) (i : Instr), s.cur = some is → fetchBytes s is = (u, .ok bs) →
    lenOf (wordAt bs 0) ≤ bs.length → decode (bs.take (lenOf (wordAt bs 0))) = .ok i →
    step s = exec i u ∧ i.wf = true ∧ u.cur = some is ∧ lookedUp s u ∧
    (∀ w, is.words = some w → bs = w) ∧
    (is.words = none → let pc := (s.member is.blk (is.mems.headD 0)).pc
      match findLine s (s.block is.blk) (pc - pc % 64) with
      | some l => bs = l.bytes.drop (pc % 64)
      | none => ∃ v p, reach s (threadOf (s.block is.blk)) (pc - pc % 64) 64 .fetch 1 = (v, .ok p) ∧
          bs = (Memory.read s.mem p.key 64).drop (pc % 64))

/-- 02 R35, R38; 19 R344: an instruction that cannot be fetched, that crosses its 64-byte line, or that no row of the opcode table is, traps
the whole issue precisely at its PC, with the issue's first member's icount and quarter, its lanes and its words. That the words of a
FETCH_SPLIT are those up to the end of the line is the model's choice (log 106). -/
def Obligations.FetchAndDecodeTraps : Prop :=
  ∀ (s : State) (is : Issue), s.cur = some is →
    (∀ u f, fetchBytes s is = (u, .error f) → step s = .next (fetchTrap u is [] f)) ∧
    ∀ u bs, fetchBytes s is = (u, .ok bs) →
      (bs.length < lenOf (wordAt bs 0) → step s = .next (fetchTrap u is bs (fltOf .fetchSplit 0))) ∧
      (lenOf (wordAt bs 0) ≤ bs.length → (∀ i, decode (bs.take (lenOf (wordAt bs 0))) ≠ .ok i) →
        step s = .next (fetchTrap u is (bs.take (lenOf (wordAt bs 0))) (fltOf .illegalInstruction 0))) ∧
      ∀ words f, let m := s.member is.blk (is.mems.headD 0)
        fetchTrap u is words f = takeTrap (reseat { u with cur := none } is.blk is.mems) is.blk
          { cause := f.cause, fcode := f.fcode, addr := f.addr, pc := m.pc, icount := m.icount, words := words, micro := 0xFF, tag := 0,
            quarter := m.quarter, lanes := groupMask (s.block is.blk) is.mems, done := 0, mems := is.mems }

/-- The machine never stops: every state has a next one (18 R327 and the reading of log entry 1). -/
def Obligations.EveryStepAnswers : Prop := ∀ s, goesOn s

/-- Memory stays in canonical form over every step, whatever the step: equal memories are equal data. -/
def Obligations.MemoryStaysCanonical : Prop := ∀ s t, memOk s → step s = .next t → memOk t

/-- 18 R329, R333, R335 to R337; 15 R278; 16 R282: the values that the spec gives the registers after a cold start, with no region, no grid
and no thread, and memory cleared: every byte of device memory, vaults and sync words reads 0. That the reset state is the one after a cold
start that reached READY is the model's reading (log 14), and that a byte nothing has written reads 0 there is its choice (log 93). -/
def Obligations.ResetState : Prop :=
  let s := State.reset
  memOk s ∧ (∀ a, hostKey a = false → s.mem.byte a = 0) ∧ s.blocks = [] ∧ s.grids = [] ∧ s.regions = [] ∧ s.cur = none ∧
  s.atab = [] ∧ s.sends = [] ∧ s.recvs = [] ∧ s.outs = [] ∧
  (∀ d, (s.die d).cyc = 0 ∧ (s.die d).counters = [] ∧ (s.die d).freeze = false ∧ (s.die d).portFail = 0 ∧ (s.die d).lost = false ∧
    (s.die d).tlbiCmd = 0 ∧ (s.die d).handles = [] ∧ (s.die d).copyq = []) ∧
  (∀ m, s.route m = 0xFFFFFFFF) ∧ (∀ c n, ((s.core c).slot n).state = 0 ∧ ((s.core c).slot n).elems = []) ∧
  readWindow s 0x8010 = some 0xFFF ∧ readWindow s 0x8018 = some 0 ∧ readWindow s 0x8020 = some 0 ∧ readWindow s 0x8030 = some 0 ∧
  ∃ v, readWindow s 0x8008 = some v ∧ v % 256 = 2

/-- 02 R24: a member whose guard is false retires an instruction of any row but those that only a handler may issue, and nothing else
happens: no read, no write, no access, no cause. -/
def Obligations.GuardFalseOnlyRetires : Prop :=
  ∀ (i : Instr) (x : Ext) (s : State) (is : Issue) (j : Nat), i.ext? = some x →
    (∀ f ∈ [Instr.rett, .frd, .fwr, .grpctl, .tlbi, .mreset], i ≠ f x) →
    s.cur = some is → is.mems = [j] → (s.member is.blk j).guard x = false → (s.member is.blk j).cap = none →
    (s.member is.blk j).step = false → undersized (s.member is.blk j) (guardRegs x) = false → (s.block is.blk).dbg = false →
    (s.block is.blk).course = none →
    (s.member is.blk j).live = true →
    ∃ t, exec i s = .next t ∧ Completes x (started s) t is.blk j (fun _ => [])

/-- 04 R100; 15 R255: EXIT ends its thread, whose registers are discarded; the block ends with its last thread, and counts as exited in its
grid. -/
def Obligations.ThreadExit : Prop :=
  Rows .exitT .exitBase 34 (fun ins x => ∀ s is i, Single false x [] s is i → (s.block is.blk).state = .running →
    let m := s.member is.blk i
    let B := s.block is.blk
    ((∃ j, j ≠ i ∧ (s.member is.blk j).live = true ∧ ∃ kv ∈ B.members, kv.1 = j ∧ kv.2.live = true) →
      ∃ t, exec ins s = .next t ∧ IssueFrame is.blk s t ∧ (∀ j, j ≠ i → t.member is.blk j = s.member is.blk j) ∧
        t.member is.blk i = { m with
          live := false, exited := true, pc := nextPc m.pc x.len, came := m.pc, space := max x.stall 1, cap := none, wait := none
          icount := if B.handler.isSome then m.icount else m.icount + 1
          sibs := m.sibs.map (fun _ => Regs.zero) } ∧
        t.block is.blk = { B with members := (t.block is.blk).members } ∧ t.mem = s.mem) ∧
    ((∀ kv ∈ B.members, kv.1 = i ∨ kv.2.live = false) → (∃ kv ∈ B.members, kv.1 = i) → B.handler = none →
      ∃ t, exec ins s = .next t ∧ (t.block is.blk).state = .ended ∧ (t.block is.blk).members = [] ∧
        t.grid B.grid = { s.grid B.grid with exited := (s.grid B.grid).exited + 1 } ∧ (∀ g, g ≠ B.grid → t.grid g = s.grid g) ∧
        (∀ c, c ≠ is.blk → t.block c = s.block c) ∧ t.regions = s.regions ∧ t.mem = s.mem))

/-- 15 R265; 12 R223, R234, R237, R238; 04 R102: the blocking points. While its condition does not hold, a member waits with its sources
captured, its PC and icount unchanged and no effect; YIELD and WAITC whose condition holds complete. -/
def Obligations.BlockingPoints : Prop :=
  let waits := fun (ins : Instr) (x : Ext) (major : Nat) (reads : List (Bool × Opnd)) (s u : State) (is : Issue) (i : Nat) (k : WaitKind) =>
    ∃ t, exec ins s = .next t ∧ Waits u t is.blk i k (captured s is.blk (s.member is.blk i) x major reads [])
  let word := fun (x : Ext) (store : Bool) (s : State) (is : Issue) (i off : Nat) =>
    Single false x (readRegs (windowReads x store)) s is i ∧ windowOffset x (memIn s is i x (windowReads x store)) = off ∧
    off + 4 ≤ spadSizeOf s is.blk ∧ off % 4 = 0
  let greatest := fun (x : Ext) (s : State) (is : Issue) (i : Nat) => ((memIn s is i x [(true, opA x)]).src 0).foldl max 0
  let tags := fun (all : Bool) (ins : Instr) (x : Ext) => ∀ s is i, Single false x (readRegs (tagReads x)) s is i →
    let mask := tagMask x (memIn s is i x (tagReads x))
    mask < 2 ^ (s.block is.blk).tagN → maskTags mask ≠ [] →
    (if all then ∃ n ∈ maskTags mask, tagSet (s.block is.blk) n = false else ∀ n ∈ maskTags mask, tagSet (s.block is.blk) n = false) →
    waits ins x 57 (tagReads x) s (started s) is i (.tags all mask)
  Rows .yield .yieldBase 36 (fun ins x => ∀ s is i, Single false x [] s is i → (s.member is.blk i).wait = none →
    ((s.block is.blk).sliceEnded = true → waits ins x 36 [] s (started s) is i .yield) ∧
    ((s.block is.blk).sliceEnded = false → ∃ t, exec ins s = .next t ∧ Completes x (started s) t is.blk i (fun _ => []))) ∧
  (∀ x s is i, Single false x (readRegs [(true, opA x)]) s is i →
    (s.reft.toNat < greatest x s is i → waits (.waitc x) x 36 [(true, opA x)] s (started s) is i (.waitc (greatest x s is i))) ∧
    (greatest x s is i ≤ s.reft.toNat → ∃ t, exec (.waitc x) s = .next t ∧ Completes x (started s) t is.blk i (fun _ => []))) ∧
  Rows .ldf .ldfBase 43 (fun ins x => ∀ s is i off, word x false s is i off → fullBit s is.blk off = false →
    waits ins x 43 (windowReads x false) s (started s) is i (.ldf off)) ∧
  (∀ x s is i off, word x true s is i off → fullBit s is.blk off = true → waits (.ste x) x 43 (windowReads x true) s (started s) is i
    (.ste off (BitVec.ofNat 32 (tyStored x.ty ((memIn s is i x (windowReads x true)).src 3))))) ∧
  (∀ x s is i u key w, let r := syncReads x (false, .lane x.c) noRead
    let va := addressOfPair x (memIn s is i x r)
    let phase := medianBy unsignedV ((memIn s is i x r).src 2) % 2 ^ 16
    Single false x (readRegs r) s is i → syncReach (started s) (threadOf (s.block is.blk)) va .read = (u, .ok (key, w)) →
    isBarrier w = true → barArrived w < barExpect w → barPhase w = phase →
    waits (.barWait x) x 46 r s u is i (.barWait va.toNat phase)) ∧
  Rows .twaitany .twaitanyBase 57 (tags false) ∧ (∀ x, tags true (.twaitall x) x) ∧
  ∀ x s is i c, Single false x (readRegs (slotReads x)) s is i → let n := slotOf x (memIn s is i x (slotReads x))
    4096 * n < spadSizeOf s is.blk → ownerOf (s.block (spadHome s is.blk)) n = .claimed c →
    waits (.ownTake x) x 56 (slotReads x) s (started s) is i (.ownTake n)

/-- 15 R265, R268, R274; 12 R223, R234, R237; 16 R294, R306; 04 R102; 02 R41; 10 R195: the events that take a waiting member up again do
so when its condition holds, for every member of its issue that still waits, with the captured instruction; otherwise nothing changes. A
barrier's wait is over when its phase has moved on or the word is no barrier; a queue's when its message is published or it has room; a tag
wait's when one or all of its tags are set; an owner wait's when no engine has the slot; a handle's when it is terminal, stale or not home;
a remote access's when every request of its issue has its value or its fault; YIELD's at once. A spin mark ends once its quarter has issued
in its last cycle, and a walker runs ahead of its thread by one element at a time, up to 16. That a wait whose barrier or queue is gone is
over, to meet its fault, is the model's reading (log 117), and that a wait for another module's handle is over is its choice (log 56). -/
def Obligations.WakeEvents : Prop :=
  let wakes := fun (ev : Nat → Nat → Instr) (due : State → Nat → WaitKind → Prop) => ∀ s b i,
    (∀ k c, (s.member b i).wait = some k → (s.member b i).cap = some c → (s.block b).state = .running → due s b k →
      let group := (replayMembers (s.block b) c.seq).filter (fun j => (s.member b j).wait.isSome)
      let k : Issue := { blk := b, mems := group, words := some c.words }
      exec (ev b i) s = .next { s with agenda := s.agenda ++ [.issue k] }) ∧
    (((s.member b i).wait = none ∨ ∃ k, (s.member b i).wait = some k ∧ ¬ due s b k) → exec (ev b i) s = .next s)
  wakes .waitcWake (fun s _ k => match k with | .waitc v => v ≤ s.reft.toNat | _ => False) ∧
  wakes .fullEmptyTransition (fun s b k => match k with
    | .ldf off => fullBit s b off = true
    | .ste off _ => fullBit s b off = false
    | _ => False) ∧
  wakes .blockedThreadWake (fun s b k => wakeReady s b k = true) ∧
  (∀ (s : State) b,
    (∀ (va phase : Nat) die off, syncPlace va = .ok (die, off) → let w := Memory.nat s.mem (syncKey die off) 8
      (wakeReady s b (.barWait va phase) = true ↔ barPhase w ≠ phase ∨ barOk w = false)) ∧
    (∀ q n vs Q, (s.grid (s.block b).grid).queues[q]? = some Q →
      (wakeReady s b (.deq q n vs) = true ↔ n ∈ Q.published) ∧ (wakeReady s b (.enq q vs) = true ↔
        sextN (Q.write + 2 ^ 32 - Q.claim) 32 < 2 ^ Q.logN ∧ ∀ j ∈ Q.published, j % 2 ^ Q.logN ≠ Q.write % 2 ^ Q.logN)) ∧
    (∀ off v, wakeReady s b (.ldf off) = fullBit s b off ∧ wakeReady s b (.ste off v) = !fullBit s b off) ∧
    (∀ mask, (wakeReady s b (.tags true mask) = true ↔ ∀ n, n < 64 → bitN mask n = true → tagSet (s.block b) n = true) ∧
      (wakeReady s b (.tags false mask) = true ↔ ∃ n, n < 64 ∧ bitN mask n = true ∧ tagSet (s.block b) n = true)) ∧
    (∀ n, wakeReady s b (.ownTake n) = true ↔ ∀ c, ownerOf (s.block (spadHome s b)) n ≠ .claimed c) ∧
    (∀ v, wakeReady s b (.waitc v) = true ↔ v ≤ s.reft.toNat) ∧
    (∀ h, wakeReady s b (.waith h) = true ↔
      s.homeOf h = false ∨ s.handleUsable h (s.block b).region = false ∨ 3 ≤ (s.handle h).state) ∧
    wakeReady s b .yield = true ∧
    (∀ n rs seq, let sent := fun c : Captured => ∃ r ∈ rs, r ∈ c.requests
      (∃ kv ∈ (s.block b).members, ∃ c, kv.2.cap = some c ∧ sent c) → (∀ kv ∈ (s.block b).members, ∀ c, kv.2.cap = some c → sent c → c.seq = seq) →
      (wakeReady s b (.remote n rs) = true ↔ ∀ j ∈ replayMembers (s.block b) seq, ∀ c, (s.member b j).cap = some c →
        c.requests = [] ∨ c.result.isSome = true ∨ c.faultReply.isSome = true))) ∧
  (∀ s b i, let m := s.member b i
    let c := (s.block b).core
    exec (.spinHintExpiry b i) s = .next (if m.spin = 1 ∧ (s.core c).issued.lookup m.quarter = some (s.die (coreDie c)).cyc
      then s.setMember b i { m with spin := 0 } else s)) ∧
  ∀ s b i w, let m := s.member b i
    let k := m.walker w
    ((s.block b).state = .running ∧ m.live = true ∧ k.bound = true ∧ k.ahead.length < 16 ∧ k.next + k.ahead.length < k.total →
      (s.block b).dbg = false →
      let got := match (walkElement { s with reqs := [] } b m k (k.next + k.ahead.length)).2 with
        | .ok vs => some (vs.map (BitVec.ofNat 64))
        | .error _ => none
      let k' := { k with ahead := k.ahead ++ [got] }
      ∃ t, exec (.walkerRunAhead b i w) s = .next t ∧ t.mem = s.mem ∧
        t.member b i = { m with walkers := SMap.put m.walkers (w % 8) k' }) ∧
    (16 ≤ k.ahead.length → exec (.walkerRunAhead b i w) s = .next s)

/-- 19 R338, R341, R343, R344; 10 R193; 12 R220 and the rules that name each cause: where an access or a lane instruction faults, the
member does not retire; its group traps precisely with the cause, fault code and address; an access is kept for its replay. -/
def Obligations.PreciseTraps : Prop :=
  let kept := fun (ins : Instr) (x : Ext) (major : Nat) (reads : List (Bool × Opnd)) (s u : State) (is : Issue) (i : Nat) (f : Flt) =>
    exec ins s = .next (trapped s (keptAt s u is i x major reads) is i x major f)
  let at' := fun (x : Ext) (store : Bool) (s : State) (is : Issue) (i : Nat) =>
    let l := memIn s is i x (recordReads x store)
    recordPlace s is.blk ((s.block is.blk).buffer x.b) (indexOf x l) (coord1 x l) (tyBytes x.ty)
  let window := fun (store : Bool) (base major : Nat) (size : State → Nat → Nat) (ins : Instr) (x : Ext) => ∀ s is i,
    Single false x (readRegs (windowReads x store)) s is i → let off := windowOffset x (memIn s is i x (windowReads x store))
    (¬ (0 ≤ off ∧ off + tyBytes x.ty ≤ size s is.blk) →
      kept ins x major (windowReads x store) s (started s) is i (fltOf .addrRange (off + base))) ∧
    (0 ≤ off ∧ off + tyBytes x.ty ≤ size s is.blk → off % tyBytes x.ty ≠ 0 →
      kept ins x major (windowReads x store) s (started s) is i (fltOf .misalignedAddr (off + base)))
  let misses := fun (ins : Instr) (x : Ext) (store : Bool) => ∀ s is i f, Single false x (readRegs (recordReads x store)) s is i →
    at' x store s is i = .error f → kept ins x 40 (recordReads x store) s (started s) is i f
  Rows .ld .ldBase 40 (fun ins x => misses ins x false) ∧ (∀ x, misses (.st x) x true) ∧
  (∀ x s is i pl u f, Single false x (readRegs (recordReads x true)) s is i → at' x true s is i = .ok (some pl) →
    storePlace (started s) is.blk i x.ty pl ((memIn s is i x (recordReads x true)).src 3) = (u, some f) →
    lookedUp (started s) u ∧ kept (.st x) x 40 (recordReads x true) s u is i f) ∧
  Rows .ldl .ldlBase 41 (window false 0x01D0000000000000 41 (fun s b => (s.block b).lsSize)) ∧
  (∀ x, window true 0x01D0000000000000 41 (fun s b => (s.block b).lsSize) (.stl x) x) ∧
  Rows .lds .ldsBase 42 (window false 0x01E0000000000000 42 spadSizeOf) ∧ (∀ x, window true 0x01E0000000000000 42 spadSizeOf (.sts x) x) ∧
  (∀ x s is i u key w, let r := syncReads x noRead noRead
    Single false x (readRegs r) s is i → syncReach (started s) (threadOf (s.block is.blk)) (addressOfPair x (memIn s is i x r)) .atomic =
      (u, .ok (key, w)) → isBarrier w = false ∨ barExpect w ≤ barArrived w →
    kept (.barArrive x) x 46 r s u is i (fltOf .syncKind (addressOfPair x (memIn s is i x r)))) ∧
  (∀ x s is i, Single false x [] s is i → ((s.member is.blk i).walker (x.a % 8)).bound = true →
    ((s.member is.blk i).walker (x.a % 8)).ty ≠ x.ty → kept (.walkNext x) x 44 [] s (started s) is i (fltOf .walkerType 0)) ∧
  (∀ x s is i, Single false x (readRegs (tagReads x)) s is i → 2 ^ (s.block is.blk).tagN ≤ tagMask x (memIn s is i x (tagReads x)) →
    kept (.twaitall x) x 57 (tagReads x) s (started s) is i (fltOf .tagRange 0)) ∧
  (∀ x s is i, Single false x (readRegs (slotReads x)) s is i → let n := slotOf x (memIn s is i x (slotReads x))
    4096 * n < spadSizeOf s is.blk → ownerOf (s.block (spadHome s is.blk)) n ≠ .threads →
    exec (.ownGive x) s = .next (trapped s (started s) is i x 56 (fltOf .ownerState 0))) ∧
  (∀ x s is i, Single false x (readRegs [(true, opA x)]) s is i →
    let target := medianBy unsignedV (srcs (s.block is.blk) (s.member is.blk i) true (opA x)) % 2 ^ 57
    target % 4 ≠ 0 → exec (.ret x) s = .next (trapped s (started s) is i x 33 { cause := .misalignedPc, fcode := 0, addr := target })) ∧
  Rows .iadd .iaddBase 1 (fun ins x => ∀ s is i, s.cur = some is → is.mems = [i] →
    (undersized (s.member is.blk i) (guardRegs x) = true ∨
      ((s.member is.blk i).guard x = true ∧
        undersized (s.member is.blk i) (readRegs [(x.ty.wide, opA x), (x.ty.wide, opB x)]) = true)) →
    exec ins s = .next (trapped s (started s) is i x 1 { cause := .stallUndersized, fcode := 0, addr := 0 }))

/-- 03 R59 to R62; 15 R254: the causes of a numerical-instability event and what ctl.nimode's action does on one: CANCEL of FADD, FSUB and
FFMA, COMPARE of ICMP and FCMP, DIVZERO of FDIV, FRCP and FRSQ, and STEER where the three indices of an LDS differ. The instruction retires
under every action; COUNT, LOG and TRAP add one to ctl.nicount of each sibling, LOG appends a record and TRAP raises NUMERICAL_INSTABILITY;
without an event it retires alone. A record has its layout, and a full ring counts it as dropped. -/
def Obligations.InstabilityActions : Prop :=
  let acts := fun (major : Nat) (lat : Option Nat) (reads : List (Bool × Opnd)) (outs : Block → Nat → Member → List SibOut)
      (event : Block → Nat → Member → NiEvent → Prop) (ins : Instr) (x : Ext) => ∀ (s : State) (is : Issue) (i : Nat),
    Single false x (readRegs reads) s is i →
    let m := s.member is.blk i
    let B := s.block is.blk
    let r := retired x lat B.handler.isSome m (outs B i m) (nextPc m.pc x.len)
    let after := { r with sibs := r.sibs.map niCount }
    ((m.sibs.length ≠ 3 ∨ ∀ e, ¬ event B i m e) → ∃ t, exec ins s = .next t ∧ t.member is.blk i = r ∧ t.mem = s.mem ∧ t.regions = s.regions) ∧
    ∀ e, m.sibs.length = 3 → event B i m e →
      (niAction m e.code = 0 → ∃ t, exec ins s = .next t ∧ t.member is.blk i = r ∧ t.mem = s.mem ∧ t.regions = s.regions) ∧
      (niAction m e.code = 1 → ∃ t, exec ins s = .next t ∧ t.member is.blk i = after ∧ t.mem = s.mem ∧ t.regions = s.regions) ∧
      (niAction m e.code = 2 → ∃ t w, exec ins s = .next t ∧ t.member is.blk i = after ∧ w = { started s with blocks := w.blocks } ∧
        t.mem = (appendLog w B.region (coreDie B.core) (niRecord B m x e)).mem ∧
        t.regions = (appendLog w B.region (coreDie B.core) (niRecord B m x e)).regions) ∧
      (niAction m e.code = 3 → m.live = true → B.state = .running → ∃ w, w.member is.blk i = after ∧ w = { started s with blocks := w.blocks } ∧
        exec ins s = .next (afterIssue s (takeTrap (reseat w is.blk [i]) is.blk
          (memTrap m i x major { cause := .numericalInstability, fcode := e.code, addr := 0 })) is.blk [i]))
  let lat := fun (x : Ext) => some (if x.ty = .f64 then 8 else 4)
  let col := fun (x : Ext) (B : Block) (m : Member) (o : Opnd) => m.sibs.map (fun r => opRead B r x.ty.wide o)
  let half := fun (t : Ty) (h v : Nat) => if t.packed then v / 2 ^ (16 * h) % 2 ^ 16 else v % 2 ^ t.width
  let digs := fun (x : Ext) (B : Block) (m : Member) (h : Nat) (o : Opnd) => match o with
    | .lane _ => digCount (tyFmt x.ty) ((col x B m o).map (half x.ty h))
    | _ => (tyFmt x.ty).prec
  let flt := fun (x : Ext) (ops : List Opnd) (op : Fmt → Mode → List FV → Nat × Nat) (B : Block) (i : Nat) (m : Member) =>
    m.sibs.zipIdx.map (fun rk => fltHalves x.ty (fun h a => op (tyFmt x.ty) (modeOf x B i m rk.2 h) (a.map (fval (tyFmt x.ty))))
      (ops.map (fun o => opRead B rk.1 x.ty.wide o)))
  let gives := fun (x : Ext) (rs : List (Nat × Nat)) => rs.map (fun r => SibOut.flagged (outTy x.ty.wide x.d r.1) r.2)
  let cancel := fun (major : Nat) (ops : Ext → List Opnd) (op : Fmt → Mode → List FV → Nat × Nat) (ins : Instr) (x : Ext) =>
    acts major (lat x) ((ops x).map (fun o => (x.ty.wide, o))) (fun B i m => gives x (flt x (ops x) op B i m)) (fun B i m e =>
      let res := (flt x (ops x) op B i m).map Prod.fst
      let left := fun h => digCount (tyFmt x.ty) (res.map (half x.ty h))
      let thresh := (m.first.ctl 2).toNat % 64
      let met := fun h => left h < thresh ∧ ∀ o ∈ ops x, thresh ≤ digs x B m h o
      ∃ h, (h = 0 ∧ met 0 ∨ h = 1 ∧ x.ty.packed = true ∧ ¬ met 0 ∧ met 1) ∧ e.code = 0 ∧ e.value = BitVec.ofNat 64 (res.headD 0) ∧
        e.dres = left h ∧ (∃ o ∈ ops x, e.dsrc = digs x B m h o) ∧ ∀ o ∈ ops x, e.dsrc ≤ digs x B m h o) ins x
  let divzero := fun (major : Nat) (ops : Ext → List Opnd) (by' : Ext → Opnd) (op : Fmt → Mode → List FV → Nat × Nat) (ins : Instr) (x : Ext) =>
    acts major none ((ops x).map (fun o => (x.ty.wide, o))) (fun B i m => gives x (flt x (ops x) op B i m)) (fun B _ m e =>
      digs x B m 0 (by' x) = 0 ∧ e = { code := 2, value := BitVec.ofNat 64 ((col x B m (by' x)).headD 0), dsrc := 0xFF, dres := 0 }) ins x
  let compare := fun (major : Nat) (lat : Ext → Option Nat) (op : Ext → Nat → Nat → Bool × Nat) (ins : Instr) (x : Ext) =>
    let res := fun (B : Block) (r : Regs) => op x (opRead B r x.ty.wide (opA x)) (opRead B r x.ty.wide (opB x))
    acts major (lat x) [(x.ty.wide, opA x), (x.ty.wide, opB x)]
      (fun B _ m => m.sibs.map (fun r => SibOut.flagged (.pred x.d (res B r).1) (res B r).2)) (fun B _ m e =>
        ∃ a b c : Bool, m.sibs.map (fun r => (res B r).1) = [a, b, c] ∧ ¬ (a = b ∧ b = c) ∧
          e = { code := 1, value := BitVec.ofNat 64 (boolN a + 2 * boolN b + 4 * boolN c), dsrc := 0xFF, dres := 0xFF }) ins x
  let arg := fun (a : List FV) (k : Nat) => a.getD k (.nan false)
  let ab := fun x : Ext => [opA x, opB x]
  Rows .fadd .faddBase 16 (cancel 16 ab (fun f md a => fadd f md (arg a 0) (arg a 1))) ∧
  (∀ x, cancel 16 ab (fun f md a => fadd f md (arg a 0) (arg a 1).negate) (.fsub x) x) ∧
  Rows .ffma .ffmaBase 18 (cancel 18 (fun x => [opA x, opB x, opC x]) (fun f md a => ffma f md (arg a 0) (arg a 1) (arg a 2))) ∧
  Rows .fdiv .fdivBase 20 (divzero 20 ab opB (fun f md a => fdiv f md (arg a 0) (arg a 1))) ∧
  Rows .frcp .frcpBase 28 (divzero 28 (fun x => [opA x]) opA (fun f md a => frcp f md (arg a 0))) ∧
  (∀ x, divzero 28 (fun x => [opA x]) opA (fun f md a => frsq f md (arg a 0)) (.frsq x) x) ∧
  Rows .icmp .icmpBase 13 (compare 13 (fun _ => some 2) (fun x a b => (icmpOp x.minor (ival x.ty a) (ival x.ty b), 0))) ∧
  Rows .fcmp .fcmpBase 24 (compare 24 lat (fun x a b =>
    fcmp x.minor (fval (tyFmt x.ty) (a % 2 ^ x.ty.width)) (fval (tyFmt x.ty) (b % 2 ^ x.ty.width)))) ∧
  (∀ (B : Block) (m : Member) (x : Ext) (e : NiEvent), let n := niRecord B m x e
    n / 2 ^ 192 = e.value.toNat ∧ n / 2 ^ 168 % 2 ^ 24 = B.blk % 2 ^ 24 ∧ n / 2 ^ 164 % 16 = 0 ∧ n / 2 ^ 160 % 16 = m.slot % 16 ∧
    n / 2 ^ 152 % 256 = m.lane % 256 ∧ n / 2 ^ 144 % 256 = B.core % 256 ∧ n / 2 ^ 136 % 256 = e.dsrc % 256 ∧
    n / 2 ^ 128 % 256 = e.dres % 256 ∧ n / 2 ^ 124 % 16 = x.ty.code ∧ n / 2 ^ 123 % 2 = 0 ∧ n / 2 ^ 121 % 4 = e.code % 4 ∧
    n / 2 ^ 64 % 2 ^ 57 = m.pc % 2 ^ 57 ∧ n % 2 ^ 64 = m.icount.toNat) ∧
  (∀ (s : State) (region die record : Nat), let o := effOwner s.regions 9 s.regions.length region
    let R := s.region o
    let R' := (appendLog s region die record).region o
    let full := (R.logWr + 2 ^ 32 - Memory.nat s.mem (R.paddr + 64) 4) % 2 ^ 32 = 2 ^ R.logN
    (R.logBase = 0 ∨ full → R'.logDrop = min (R.logDrop + 1) 0xFFFF_FFFF ∧ R'.logWr = R.logWr) ∧
    (R.logBase ≠ 0 → ¬ full → ∀ u, writeRange s (keystoneOf o die) (R.logBase + 32 * (R.logWr % 2 ^ R.logN)) (leBytes 32 record) = (u, none) →
      R'.logWr = (R.logWr + 1) % 2 ^ 32 ∧ R'.logDrop = R.logDrop)) ∧
  ∀ (x : Ext) (s : State) (is : Issue) (i off : Nat),
    let m := s.member is.blk i
    let B := s.block is.blk
    let l := memIn s is i x (windowReads x false)
    let u := acquireEffect (started s) is.blk i x.ord x.scope
    let v := outTy x.ty.wide x.d (loadExtend x.ty (leNat (spadRead s is.blk off (tyBytes x.ty))))
    let e : NiEvent := { code := 3, value := BitVec.ofNat 64 ((l.src 0).headD 0), dsrc := 0xFF, dres := 0xFF }
    let after := { u.member is.blk i with
      pc := nextPc m.pc x.len, came := m.pc, icount := if B.handler.isSome then m.icount else m.icount + 1
      sibs := m.sibs.map (fun r => niCount ((r.writeAll [v]).age (max x.stall 1)))
      space := max x.stall 1, cap := none, wait := none }
    Single false x (readRegs (windowReads x false)) s is i → windowOffset x l = off → off + tyBytes x.ty ≤ spadSizeOf s is.blk →
    off % tyBytes x.ty = 0 → m.sibs.length = 3 → ¬ allEqual (l.src 0) → m.live = true → B.state = .running →
    (niAction m 3 = 1 → ∃ t, exec (.lds x) s = .next t ∧ t.member is.blk i = after ∧ t.mem = s.mem ∧ t.regions = s.regions) ∧
    (niAction m 3 = 2 → ∃ t w, exec (.lds x) s = .next t ∧ t.member is.blk i = after ∧ w = { u with blocks := w.blocks } ∧
      t.mem = (appendLog w B.region (coreDie B.core) (niRecord B m x e)).mem ∧
      t.regions = (appendLog w B.region (coreDie B.core) (niRecord B m x e)).regions) ∧
    (niAction m 3 = 3 → ∃ w, w.member is.blk i = after ∧ w = { u with blocks := w.blocks } ∧
      exec (.lds x) s = .next (afterIssue s (takeTrap (reseat w is.blk [i]) is.blk
        (memTrap m i x 42 { cause := .numericalInstability, fcode := 3, addr := 0 })) is.blk [i]))

/-- 19 R340, R342, R344, R346, R348: taking a trap. A cause that the handler fields deliver stops the block, writes its frame into the lowest
free frame and starts a privileged handler thread with the frame's address in v0 and v1 and its header in v2; an undelivered one ends
the grid FAULTED with the fault fields set, but REGRANT and BREAKPOINT go on, in a handler too; a delivered cause in a handler, or another
undelivered one, ends the handled block's grid. That it does so for every such cause is the model's reading (log 22), and so is that the
region whose handler fields are in effect holds the frames (log 21); that the lowest free frame is taken is its choice (log 92). -/
def Obligations.TakingATrap : Prop :=
  ∀ (s : State) (b : Nat) (t : Trap),
    let B := s.block b
    let o := effOwner s.regions 4 s.regions.length B.region
    let E := s.region o
    let stopped := stopBlock (if t.cause = .step then clearStep s b t.mems else s) b
    (∀ n u w, B.handler = none → delivered s B.region t.cause = true → frameSize B ≤ E.frameSize → pickFrame stopped B.region = some n →
      let bytes := frameBytes stopped b t 2
      let addr := E.frameBase + E.frameSize * n
      let who := keystoneOf B.region (coreDie B.core)
      let h := s.nextBlock
      checkRange { stopped with choice := stopped.choice + 128 * B.nthread } who addr bytes.length .write = (u, none) →
      writeRange u who addr bytes = (w, none) → b ≠ h →
      let r := takeTrap s b t
      r.mem = w.mem ∧ (r.block b).state = .handled n h ∧ (r.region o).frames = n :: (stopped.region o).frames ∧
      ∃ m hd, (r.block h).members = [(0, m)] ∧ (r.block h).handler = some hd ∧ (r.block h).state = .running ∧
        (r.block h).core = B.core ∧ (r.block h).region = B.region ∧ hd.block = some b ∧ hd.frame = addr ∧ hd.cause = t.cause ∧
        m.live = true ∧ m.pc = E.handler ∧ m.icount = 0 ∧ m.first.lane 0 = BitVec.ofNat 32 addr ∧
        m.first.lane 1 = BitVec.ofNat 32 (addr / 2 ^ 32) ∧ m.first.lane 2 = BitVec.ofNat 32 (leNat (bytes.take 4))) ∧
    (B.handler = none → delivered s B.region t.cause = false → t.cause ≠ .regrant → t.cause ≠ .breakpoint → t.cause ≠ .queueError →
      let r := takeTrap s b t
      (∀ c ∈ gridBlocks s B.grid, (r.block c).state = .ended ∧ (r.block c).members = []) ∧
      (r.grid B.grid).status = some ((s.grid B.grid).status.getD 6) ∧ (r.region B.region).faultAddr = t.addr ∧
      (r.region B.region).faultCode = t.cause.code + B.blk % 2 ^ 23 * 512 ∧ bitN (r.region B.region).status 2 = true) ∧
    (delivered s B.region t.cause = false → t.cause = .breakpoint → takeTrap s b t = s) ∧
    (delivered s B.region t.cause = false → t.cause = .regrant → takeTrap s b t = s.setBlock b { B with shChanged := 0 }) ∧
    (∀ hd c, B.handler = some hd → hd.block = some c →
      (delivered s B.region t.cause = true ∨ t.cause ∉ [Cause.regrant, .breakpoint, .queueError, .step]) → takeTrap s b t =
      frameFreed (freeFrame (faultGrid s c t.cause.code true t.addr) B.region hd.frameIdx) B.region)

/-- 19 R351: TRAP and BKPT retire, then raise SOFTWARE and BREAKPOINT with their immediate as fault code. -/
def Obligations.SoftwareTraps : Prop :=
  let after := fun (c : Cause) (ins : Instr) (x : Ext) => ∀ s is i, Single false x [] s is i → (s.member is.blk i).live = true →
    (s.block is.blk).state = .running → ∃ u, Completes x (started s) u is.blk i (fun _ => []) ∧
      exec ins s = .next (afterIssue s (takeTrap u is.blk (memTrap (s.member is.blk i) i x 61
        { cause := c, fcode := x.imm % 2 ^ 16, addr := 0 })) is.blk [i])
  Rows .trap .trapBase 61 (after .software) ∧ ∀ x, after .breakpoint (.bkpt x) x

/-- 19 R348, R350, R352 to R355; 18 R319; 07 R161: the instructions that only a handler may issue. Elsewhere they are illegal; in a handler
FRD reads a privileged register, FWR writes one, GRPCTL edits thread records of the frame, TLBI invalidates, MRESET resets the
matrix engine and RETT resumes the block from its frame. A handler that outlives HLIMIT ends its block's grid; one of an asynchronous cause
ends alone. -/
def Obligations.HandlerInstructions : Prop :=
  (∀ (s : State) (is : Issue) (x : Ext), s.cur = some is → (s.block is.blk).handler = none →
    (∀ ins ∈ [Instr.rett, .frd, .fwr, .grpctl, .tlbi],
      exec (ins x) s = .next (fetchTrap s is (instrBytes 61 x) (fltOf .illegalInstruction 0))) ∧
    exec (.mreset x) s = .next (fetchTrap s is (instrBytes 49 x) (fltOf .illegalInstruction 0))) ∧
  ∀ (s : State) (is : Issue) (x : Ext) (i : Nat) (hd : Handler), (s.block is.blk).handler = some hd →
    (s.member is.blk i).sibs.length = 1 →
    let l := memIn s is i x [(false, .lane x.a), (true, .lane x.b)]
    let a := privAddr x l
    let p := [(true, Opnd.lane x.a), (false, .lane x.b)]
    (∀ u v, Single false x (readRegs [(false, .lane x.a)]) s is i → privRead (started s) is.blk a = (u, .ok v) →
      ∃ t, exec (.frd x) s = .next t ∧ Completes x u t is.blk i (fun _ => [.pair x.d (BitVec.ofNat 64 v)])) ∧
    (∀ f, Single false x (readRegs [(false, .lane x.a)]) s is i → privRead (started s) is.blk a =
      (started s, .error f) → exec (.frd x) s = .next (trapped s (started s) is i x 61 f)) ∧
    (privRead s is.blk 0x10000 = (s, .ok hd.frame) ∧ privRead s is.blk 0x10010 = (s, .ok (matRan s (s.block is.blk).core)) ∧
      ∀ d k, d < 4 → k ≤ 6 → privRead s is.blk (0x1000 * d + 8 * k) = (s, .ok (SMap.get 0 (s.die d).counters (8 * k)).toNat)) ∧
    (Single false x (readRegs [(false, .lane x.a), (true, .lane x.b)]) s is i → a % 8 = 0 → a < 0x4000 →
      (diePageRead s (a / 0x1000) (a % 0x1000)).isSome = true → ∃ t, exec (.fwr x) s = .next t ∧
        Completes x (diePageWrite (started s) (a / 0x1000) (a % 0x1000) ((l.src 1).headD 0)) t is.blk i (fun _ => [])) ∧
    (∀ b u, hd.block = some b → Single false x (readRegs p) s is i →
      grpEdit (keystoneOf (s.block b).region (coreDie (s.block b).core)) hd.frame x.mod
        ((s.block b).members.flatMap (fun kv =>
          if grpSelects kv.2 (((memIn s is i x p).src 0).headD 0) (((memIn s is i x p).src 1).headD 0) then
            (if (s.block b).triad then [3 * kv.1, 3 * kv.1 + 1, 3 * kv.1 + 2] else [kv.1]) else [])) (started s) = (u, none) →
      ∃ t, exec (.grpctl x) s = .next t ∧ Completes x u t is.blk i (fun _ => [])) ∧
    (Single false x (readRegs (if x.mod = 1 then [] else p)) s is i → ∃ t, exec (.tlbi x) s = .next t ∧ Completes x
      (tlbInvalidate (started s) (s.block is.blk).region (if x.mod = 1 then none
        else tlbRange (((memIn s is i x p).src 0).headD 0) (((memIn s is i x p).src 1).headD 0))) t is.blk i (fun _ => [])) ∧
    (Single false x [] s is i → let u := matReset (started s) (s.block is.blk).core
      u.member is.blk i = s.member is.blk i → (u.block is.blk).course = none →
      ∃ t, exec (.mreset x) s = .next t ∧ Completes x u t is.blk i (fun _ => [])) ∧
    (∀ b u frame, Single false x [] s is i → hd.block = some b →
      readRange (started s) (keystoneOf (s.block b).region (coreDie (s.block b).core)) hd.frame
        (2048 + 2048 * (s.block b).nthread + 2368 * ((replaySeqs (s.block b)).take 256).length) = (u, .ok frame) →
      framePcOk (s.block b) frame = true →
      exec (.rett x) s = .next (afterIssue s (frameFreed (freeFrame (rebuild (discardBlock u is.blk) b frame)
        (s.block is.blk).region hd.frameIdx) (s.block is.blk).region) is.blk [i])) ∧
    (∀ b, hd.block = some b → (s.block is.blk).state ≠ .ended → let limit := (s.eff 4 (s.block is.blk).region).hlimit
      (limit ≠ 0 → hd.started + 1000 * limit ≤ s.reft.toNat → exec (.handlerLimit is.blk) s = .next (frameFreed (freeFrame
        (faultGrid s b 0x22 false hd.addr) (s.block is.blk).region hd.frameIdx) (s.block is.blk).region)) ∧
      (limit = 0 ∨ s.reft.toNat < hd.started + 1000 * limit → exec (.handlerLimit is.blk) s = .next s)) ∧
    (hd.block = none → (s.block is.blk).state ≠ .ended → let limit := (s.eff 4 (s.block is.blk).region).hlimit
      limit ≠ 0 → hd.started + 1000 * limit ≤ s.reft.toNat → exec (.handlerLimit is.blk) s = .next (frameFreed (freeFrame
        (discardBlock s is.blk) (s.block is.blk).region hd.frameIdx) (s.block is.blk).region))

/-- 19 R344, R355: a frame's header holds the trap's cause, kind, fault code, PC, icount, instruction, address and lanes; and what a thread
resumes with after RETT is what its record in the frame holds: PC, icount, lane registers that no matrix operation owns, predicates,
control registers, HOLD and STEP; the pending causes that bit 6 of its STATE keeps, and those that came while it was stopped, which is the
model's reading (log 119). A handler's frame has bit 1 of its FLAGS set and a rebuilt one bit 3; bit 2 says whether the block has
shape registers that were granted anew, which is the model's reading of a word the table leaves open (log 97). -/
def Obligations.FrameLayout : Prop :=
  (∀ (s : State) (b : Nat) (t : Trap) (flags : Nat), let f := frameBytes s b t flags
    flags ∈ [0, 2, 8] →
    t.fcode < 2 ^ 32 → t.pc < 2 ^ 57 → t.addr < 2 ^ 64 → t.lanes < 2 ^ 48 → t.done < 2 ^ 48 → t.words.length ≤ 20 → t.quarter < 4 →
    fieldAt f 0 1 = t.cause.code ∧ fieldAt f 1 1 = t.cause.kind ∧
      fieldAt f 2 1 = (if (s.block b).triad then 1 else 0) + (if (s.block b).shChanged ≠ 0 then 4 else 0) + flags ∧
    fieldAt f 3 1 = t.quarter ∧ fieldAt f 4 4 = t.fcode ∧ fieldAt f 8 8 = t.pc ∧ fieldAt f 16 8 = t.icount.toNat ∧
    fieldAt f 24 20 = leNat t.words ∧ fieldAt f 48 8 = t.addr ∧ fieldAt f 56 8 = t.lanes ∧ fieldAt f 64 8 = t.done) ∧
  ∀ (B : Block) (frame : List Byte) (busy : Nat → Bool) (i : Nat) (m : Member) (r : Regs), B.triad = false → m.sibs = [r] → m.cap = none →
    let rec_ := fun off n => fieldAt ((frame.drop (2048 + 2048 * i)).take 2048) off n
    let t := restoreMember B frame [] busy i m
    t.pc = rec_ 768 8 % 2 ^ 57 ∧ t.icount = BitVec.ofNat 64 (rec_ 776 8) ∧ t.hold = bitN (rec_ 787 1) 4 ∧ t.step = bitN (rec_ 787 1) 5 ∧
    (∀ n, n < 128 → busy n = false → SMap.get 0 t.first.v n = BitVec.ofNat 32 (rec_ (4 * n) 4)) ∧
    (∀ n, n < 128 → busy n = true → SMap.get 0 t.first.v n = SMap.get 0 r.v n) ∧
    (∀ n, n < 7 → SMap.get false t.first.p n = bitN (rec_ 784 1) n) ∧
    (∀ n, n < 15 → SMap.get 0 t.first.c n = BitVec.ofNat 32 (rec_ (512 + 4 * n) 4) &&& ctlField n) ∧
    t.pendCause = (if bitN (rec_ 787 1) 6 then m.pendCause else []) ++ m.late ∧ t.late = [] ∧
    t.live = m.live ∧ t.lane = m.lane ∧ t.slot = m.slot

/-- 06 R124, R125, R127 to R129; 07 R150, R152, R153, R157; 19 R359: SHAPE sets a shape register to its request and grant; SHGET, MSTAT and
CFREAD read a shape register, a kept status and a Coffer slot, once no operation in flight keeps them from it. A granted shape is no
larger than its request rounded up to 8, fits its budget, and is FULL exactly where nothing was taken off. -/
def Obligations.ShapesAndStatuses : Prop :=
  Rows .shape .shapeBase 48 (fun ins x => ∀ s is i, Single true x (readRegs (shapeReads x)) s is i →
    let l := memIn s is i x (shapeReads x)
    let B := s.block is.blk
    let req : W64 := BitVec.ofNat 64 (medianBy unsignedV (l.src 0) + 2 ^ 32 * medianBy unsignedV (l.src 1))
    let h : ShapeReg := { req := req, grant := grantWord req B.tb (s.core B.core).liveRows }
    ∃ t, exec ins s = .next t ∧ Completes x
      ((started s).setBlock is.blk { B with sh := SMap.set ShapeReg.zero B.sh (x.d % 8) h }) t is.blk i (fun _ => [])) ∧
  (∀ x s is i, Single false x [] s is i → let h := (s.block is.blk).shape x.a
    (bitN (s.block is.blk).shChanged (x.a % 8) = false → ∃ t, exec (.shget x) s = .next t ∧ Completes x (started s) t is.blk i
      (fun _ => [.pair x.d (BitVec.ofNat 64 (if x.mod = 1 then h.req.toNat else h.grant.toNat))])) ∧
    (bitN (s.block is.blk).shChanged (x.a % 8) = true → exec (.shget x) s = .next (trapped s (started s) is i x 48
      { cause := .regrant, fcode := (s.block is.blk).shChanged, addr := 0 }))) ∧
  (∀ x s is i, Single false x [] s is i → x.a % 64 < (s.block is.blk).tagN →
    (tagBusy s is.blk (x.a % 64) = false → let st := SMap.get 0 (s.block is.blk).tagStat (x.a % 64)
      ∃ t, exec (.mstat x) s = .next t ∧ Completes x (started s) t is.blk i
        (fun _ => (List.range 4).map (fun k => .reg (x.d + k) (BitVec.ofNat 32 (st.toNat / 2 ^ (32 * k)))))) ∧
    (tagBusy s is.blk (x.a % 64) = true → exec (.mstat x) s = .next (reseat (started s) is.blk [i]))) ∧
  (∀ x s is i, let reads := [if x.mod = 1 then noRead else (false, .lane x.a), noRead, noRead, noRead]
    Single false x (readRegs reads) s is i →
    let B := s.block is.blk
    let C := s.core B.core
    let k := C.slot (x.imm % 4)
    ((∀ o ∈ C.matq, o.slot ≠ x.imm % 4) → ∃ t, exec (.cfread x) s = .next t ∧ Completes x (started s) t is.blk i (fun p =>
      let a := ((memIn s is i x reads).src 0).getD p 0 % 2 ^ 16
      [.reg x.d (BitVec.ofNat 32 (if k.foreign B.region then 0 else if x.mod = 1 then k.status else if 36864 ≤ a then 0
        else if k.state = 2 then 0x7FC00000 else (SMap.get 0 k.elems a).toNat))])) ∧
    ((∃ o ∈ C.matq, o.slot = x.imm % 4) → exec (.cfread x) s = .next (reseat (started s) is.blk [i]))) ∧
  ∀ (req : W64) (tb live m n k used st : Nat), shapeGrant req tb live = (m, n, k, used, st) → 0 < tb → live ≤ 192 → st < 2 →
    let r := req.toNat
    let up := fun v => 8 * ceilDiv v 8
    m % 8 = 0 ∧ n % 8 = 0 ∧ k % 8 = 0 ∧ 8 ≤ m ∧ 8 ≤ n ∧ m ≤ up (bitsAt r 0 16) ∧ n ≤ up (bitsAt r 16 16) ∧ k ≤ up (bitsAt r 32 16) ∧
    m ≤ live ∧ n ≤ 192 ∧ k ≤ 1024 ∧ m * n ≤ tb * bitsAt r 48 8 ∧ used = ceilDiv (m * n) tb ∧
    (st = 0 ↔ m = up (bitsAt r 0 16) ∧ n = up (bitsAt r 16 16) ∧ k = up (bitsAt r 32 16))

/-- 07 R142, R143, R145, R155, R158, R160; 12 R236, R239; 19 R359: acceptance of the matrix instructions. With room in the queue of 16 the instruction
retires and its operation stands last, with what it captured, its tag clear; with no room it is not ready and has no effect. A tag that the
block does not have raises TAG_RANGE, and a MATX whose shape register was granted anew raises REGRANT. That the three
siblings' values of DRAIN's alpha are reconciled as the median of their unsigned patterns, and raise no STEER, is the model's reading (log 43). -/
def Obligations.MatrixAcceptance : Prop :=
  let A := fun (x : Ext) => [(false, opA x), noRead, noRead, noRead]
  let W := fun (x : Ext) => [(false, opA x), noRead, (false, .pred x.c), noRead]
  let row := fun (major : Nat) (ins : Instr) (x : Ext) (reads : List (Bool × Opnd)) (op : State → Issue → Nat → MatOp) => ∀ s is i,
    Single true x (readRegs reads) s is i →
    let traps := fun f => exec ins s = .next (trapped s (keptAt s (started s) is i x major reads) is i x major f)
    let anew := (op s is i).kind = .matx ∧ bitN (s.block is.blk).shChanged (x.b % 8) = true
    ((s.block is.blk).tagN ≤ x.d % 64 → traps (fltOf .tagRange 0)) ∧
    (x.d % 64 < (s.block is.blk).tagN → anew → traps { cause := .regrant, fcode := (s.block is.blk).shChanged, addr := 0 }) ∧
    (x.d % 64 < (s.block is.blk).tagN → ¬ anew →
    let c := (s.block is.blk).core
    ((s.core c).matq.length < 16 → ∃ t, exec ins s = .next t ∧ Completes x (acceptMat (started s) (op s is i)) t is.blk i (fun _ => []) ∧
      (t.core c).matq = (s.core c).matq ++ [op s is i] ∧ tagSet (t.block is.blk) (x.d % 64) = false) ∧
    (16 ≤ (s.core c).matq.length → exec ins s = .next (reseat (started s) is.blk [i])))
  let pb := fun (x : Ext) (s : State) (is : Issue) (i : Nat) =>
    let off := medianBy unsignedV ((memIn s is i x (A x)).src 0)
    (off, decide (off % 64 = 0 ∧ off + 64 ≤ (s.block is.blk).spadSize), storeRead (s.block is.blk).spad off 48)
  let matx := fun (x : Ext) (s : State) (is : Issue) (i : Nat) =>
    let (off, ok, bs) := pb x s is i
    let B := s.block is.blk
    let ctl := if ok then fieldAt bs 0 4 else 0
    { MatOp.base s .matx is.blk i (x.d % 64) x 49 with
      pbOff := off, pbOk := ok, pb := if ok then bs else [], shape := B.shape x.b
      recA := if ok then B.buffer (bitsAt ctl 17 5) else 0, recB := if ok then B.buffer (bitsAt ctl 22 5) else 0
      slot := if ok && bitN ctl 13 then bitsAt ctl 14 2 else 0xFFFF }
  let fold := fun (x : Ext) (s : State) (is : Issue) (i : Nat) =>
    let (off, ok, bs) := pb x s is i
    { MatOp.base s .fold is.blk i (x.d % 64) x 50 with pbOff := off, pbOk := ok, pb := if ok then bs else [], slot := x.imm % 4 }
  let plain := fun (x : Ext) (k : MatKind) (s : State) (is : Issue) (i : Nat) =>
    { MatOp.base s k is.blk i (x.d % 64) x 50 with slot := x.imm % 4 }
  Rows .matx .matxBase 49 (fun ins x => row 49 ins x (A x) (matx x)) ∧
  Rows .cfzero .cfzeroBase 50 (fun ins x => row 50 ins x [] (plain x .cfzero)) ∧ (∀ x, row 50 (.fold x) x (A x) (fold x)) ∧
  ∀ x, row 50 (.drain x) x (W x) (fun s is i => { plain x .drain s is i with
    recA := (s.block is.blk).buffer x.b, alpha := BitVec.ofNat 32 (medianBy unsignedV ((memIn s is i x (W x)).src 0)), cond := x.m0
    condTrue := majority (((memIn s is i x (W x)).src 2).map (fun v => v != 0)), wfmt := x.imm / 4 % 8 })

/-- 07 R142, R143, R146, R150, R155 to R161: an operation completes when no earlier one in its queue shares its registers, slot, tag or memory
with it, and leaves the queue; its status and tag are set. A reset ends every operation of the core. That FOLD's TIMEOUT runs from its
acceptance is the model's reading (log 44), and so is that a MATX completing without computing reports zero counters and FINITE 0
(log 42) and makes an EMPTY slot that it names ACTIVE (log 103); that all effects of an operation come in the one completing step (log 45),
that a DRAIN keeps its order with every operation on translated memory (log 120), and what makes the course of the block of a MATX end
(log 13) are its choices. The watchdog counts the core cycles of the operation on the array: the first that shares nothing with an earlier
one and is no FOLD that waits for its sources. -/
def Obligations.MatrixCompletion : Prop :=
  let due := fun (s : State) (c idx : Nat) (kind : MatKind) (o : MatOp) => (s.core c).matq[idx]? = some o ∧ o.kind = kind ∧
    ∀ p ∈ (s.core c).matq.take idx, p.conflicts o = false
  let held := fun (s : State) (c idx : Nat) => ∀ o, (s.core c).matq[idx]? = some o → ∃ p ∈ (s.core c).matq.take idx, p.conflicts o = true
  (∀ s c idx, held s c idx → ∀ ev ∈ [Instr.matxComplete, .cfzeroComplete, .foldComplete, .drainComplete], exec (ev c idx) s = .next s) ∧
  (∀ s c idx o, due s c idx .matx o →
    let u := dequeueMat (logMatx { s with reqs := [] } o) c idx
    let B := u.block o.blk
    exec (.matxComplete c idx) s = .next (courseCheck (completeMatx u c o) o.blk) ∧
    ((s.block o.blk).course = none → u = { s.setCore c { s.core c with matq := (s.core c).matq.eraseIdx idx } with reqs := [] } ∧
      courseCheck (completeMatx u c o) o.blk = completeMatx u c o) ∧
    match o.refused B.spadSize with
    | some code => completeMatx u c o = matDone (activateSlot u c o) o code MatStat.zero
    | none => o.slot = 0xFFFF → o.strict = false →
        completeMatx u c o = matDone (u.setBlock o.blk (runMatx o B).1) o 0 (runMatx o B).2) ∧
  (∀ s c idx o, due s c idx .cfzero o →
    let u := dequeueMat s c idx
    let k := (s.core c).slot o.slot
    exec (.cfzeroComplete c idx) s = .next (if k.state ≠ 0 ∧ k.region ≠ (s.block o.blk).region then matDone u o 5 MatStat.zero
      else matDone (setSlot u c o.slot { k with elems := [], state := 0, finite := true }) o 0 { MatStat.zero with finite := true })) ∧
  (∀ s c idx o, due s c idx .fold o → ∀ u code k st, tryFold { s with reqs := [] } c o = (u, some (code, k, st)) →
    let v := dequeueMat (sampleEngine u (u.block o.blk) o.pc) c idx
    exec (.foldComplete c idx) s = .next (matDone (if code = 0 then setSlot v c o.slot k else v) o code st) ∧
    exec (.foldTimeout c idx) s = .next s) ∧
  (∀ s c idx o u, due s c idx .fold o → tryFold { s with reqs := [] } c o = (u, none) → let t := fieldAt o.pb 20 4
    exec (.foldComplete c idx) s = .next s ∧ exec (.foldTimeout c idx) s = .next (if t ≠ 0 ∧ o.since + 1000 * t ≤ s.reft.toNat
      then matDone (dequeueMat (sampleEngine u (u.block o.blk) o.pc) c idx) o 6 MatStat.zero else s)) ∧
  (∀ s c idx o, due s c idx .drain o → let u := { dequeueMat s c idx with reqs := [] }
    let k := (s.core c).slot o.slot
    let st := { MatStat.zero with finite := k.finite }
    (k.state ≠ 0 ∧ k.region ≠ (s.block o.blk).region → exec (.drainComplete c idx) s = .next (matDone u o 5 MatStat.zero)) ∧
    (k.foreign (s.block o.blk).region = false → k.state = 2 → exec (.drainComplete c idx) s = .next (matDone u o 4 MatStat.zero)) ∧
    (k.foreign (s.block o.blk).region = false → k.state ≠ 2 → o.cond = true → (o.condTrue = false ∨ k.finite = false) →
      exec (.drainComplete c idx) s = .next (matDone (setSlot u c o.slot k.clear) o 7 st)) ∧
    (k.foreign (s.block o.blk).region = false → k.state ≠ 2 → (o.cond = false ∨ (o.condTrue = true ∧ k.finite = true)) →
      ∀ v n, drainWrite u o k = (v, n, none) → exec (.drainComplete c idx) s =
        .next (matDone (setSlot (sampleEngine v (v.block o.blk) o.pc) c o.slot k.clear) o 0 { st with ovf := n }))) ∧
  (∀ s c, ((∃ o ∈ (s.core c).matq, 2 ^ 20 ≤ o.ran) → exec (.matrixWatchdog c) s = .next (matReset s c)) ∧
    ((∀ o ∈ (s.core c).matq, o.ran < 2 ^ 20) → exec (.matrixWatchdog c) s = .next s)) ∧
  (∀ s c n, let q := (s.core c).matq
    let runs := fun (k : Nat) (o : MatOp) => q[k]? = some o ∧ (∀ p ∈ q.take k, p.conflicts o = false) ∧
      (o.kind = .fold → (tryFold s c o).2 ≠ none)
    (∀ k o, runs k o → (∀ j p, j < k → ¬ runs j p) → matRan s c = o.ran ∧
      tickMat s c n = { s.core c with matq := q.take k ++ { o with ran := o.ran + n } :: q.drop (k + 1) }) ∧
    ((∀ k o, ¬ runs k o) → matRan s c = 0 ∧ tickMat s c n = s.core c)) ∧
  (∀ s c, (∀ b i k x y tmp, (s.member b i).wait ≠ some (.mq k x y tmp)) → ((matReset s c).core c).matq = []) ∧
  ∀ (s : State) (o : MatOp) (code : Nat) (st : MatStat), code < 16 →
    let t := matDone s o code st
    (t.block o.blk).tagStat = SMap.set 0 (s.block o.blk).tagStat o.tag (st.record code) ∧
    tagSet (t.block o.blk) o.tag = (if tagBusy s o.blk o.tag then tagSet (s.block o.blk) o.tag else true) ∧
    (o.pbOk = true → o.kind = .matx ∨ o.kind = .fold →
      (t.block o.blk).spad = storeWrite (s.block o.blk).spad (o.pbOff + 48) (leBytes 16 (st.record code).toNat))

/-- 06 R135 to R137, R139; 07 R147: the accumulators that a MATX leaves. Element e of the grant lies in member e mod TB, register
ABASE + e / TB; each plane starts from its accumulator, or from +0 under INIT 0, and takes one promotion for each block of eight. A
promotion adds the exact sum of products, limited to 24 bits and scaled, to the accumulator with one rounding. Under EPI 1 the epilogue then
multiplies by the rounded product of the tensor scales, with one rounding in the direction of block index Kg / 8. The block sum of element
(i, j) is the sum of the eight products of the images of A's row and B's column, with each operand's scale byte, 127 without scales. -/
def Obligations.MatrixProduct : Prop :=
  (∀ (f4 : Bool) (k : Q) (dir : Nat → Nat → Mode) (sums : List (Int × Nat × Nat)) (accs : List Nat) (S : Int) (bA bB : Nat),
    let r := promoteAll f4 k dir sums accs
    let t := promoteAll f4 k dir (sums ++ [(S, bA, bB)]) accs
    promoteAll f4 k dir [] accs = { accs := accs, nanIn := accs.any isNan32, sats := 0 } ∧
    t.accs = r.accs.zipIdx.map (fun ap => promote (dir sums.length ap.2) ap.1 S bA bB f4 k) ∧
    t.nanIn = (r.nanIn || bA == 0xFF || bB == 0xFF) ∧
    t.sats = r.sats + (if S.natAbs ≤ 2 ^ 23 - 1 then 0 else accs.length)) ∧
  (∀ (o : MatOp) (B : Block), (o.sums B).length = o.mg * o.ng ∧
    ∀ e kb, e < o.mg * o.ng → kb < o.kg / 8 →
      let i := e / o.ng
      let j := e % o.ng
      let v := ((o.sums B).getD e []).getD kb (0, 0, 0)
      let scale := fun (r : BitVec 256) (cw x : Nat) =>
        if recSoff r = 0 then 127 else (SMap.get 0 B.spad (((scaleOffs r cw o.kg B.spadSize x).getD kb none).getD 0)).toNat
      ((o.sums B).getD e []).length = o.kg / 8 ∧
      v.1 = ((List.range 8).map (fun t =>
        planeImage o.nfa (o.planes B i (8 * kb + t)) * nfImage o.nfb (o.wordCode B (8 * kb + t) j))).sum ∧
      v.2.1 = scale o.recA (nfCw o.nfa) i ∧ v.2.2 = scale o.recB (nfCw o.nfb) j) ∧
  (∀ (o : MatOp) (B : Block) (e p : Nat), e < (o.sums B).length → 0 < B.tb → (B.member (e % B.tb)).live = true →
    (B.member (e % B.tb)).sibs.length = (if B.triad then 3 else 1) → p < (if B.triad then 3 else 1) →
    o.abase + ((o.sums B).length - 1) / B.tb < 128 →
    let m := B.member (e % B.tb)
    let reg := o.abase + e / B.tb
    let before := m.sibs.map (fun r => if o.init = 0 then 0 else (r.lane reg).toNat)
    let run := promoteAll (o.nfa == 0) ⟨1, 1⟩ (o.dir (Rnd.ofCode o.rndCode) B.triad e) ((o.sums B).getD e []) before
    let acc := run.accs.getD p 0
    let tA := (tensorScale (recTscale o.recA)).getD ⟨1, 1⟩
    let tB := (tensorScale (recTscale o.recB)).getD ⟨1, 1⟩
    let ts := (roundTo .f32 .rne false ⟨tA.n * tB.n, tA.d * tB.d⟩).1
    (((runMatx o B).1.member (e % B.tb)).sibs.getD p Regs.zero).lane reg = BitVec.ofNat 32 (if o.epi
      then (fmul .f32 (o.dir (Rnd.ofCode o.rndCode) B.triad e (o.kg / 8) p) (fval .f32 acc) (fval .f32 ts)).1 else acc)) ∧
  ∀ (m : Mode) (acc : Nat) (S : Int) (bA bB : Nat) (f4 neg : Bool) (q : Q), bA ≠ 0xFF → bB ≠ 0xFF → fval .f32 acc = .fin neg q →
    let c := max (-(2 ^ 23 - 1)) (min S (2 ^ 23 - 1))
    promote m acc S bA bB f4 ⟨1, 1⟩ =
      (sumTo .f32 m ⟨neg, q⟩ ⟨decide (c < 0), Q.shift ⟨c.natAbs, 1⟩ ((bA : Int) + bB - 254 - (if f4 then 2 else 0))⟩).1

/-- 02 R42, R43; 07 R163: MQ16 and MQ32. The instruction captures its offsets and waits at micro-step 0; two micro-steps read the tiles, four
compute a row each, and the last retires every member with its 4 × N accumulators. Each element of a row takes two promotions of a sum of
eight products into its sibling's register, and the results are the rows in order. The members of one issue take each micro-step together;
where tiles of some lie outside the partition or are misaligned, the group traps with the fault of LDS and the number of the micro-step. -/
def Obligations.Expansions : Prop :=
  (∀ (B : Block) (i : Nat) (m : Member) (x : Ext) (row : Nat) (tmp : List Nat),
    let n := mqCols x
    let t := mqRow B i m x row tmp
    t.take tmp.length = tmp ∧ t.length = tmp.length + m.sibs.length * n ∧
    ∀ p j, p < m.sibs.length → j < n →
      let e := n * row + j
      let byte := fun k => sextN (tmp.getD k 0) 8
      let sum := fun kb => ((List.range 8).map (fun q => byte (16 * row + 8 * kb + q) * byte (64 + n * (8 * kb + q) + j))).sum
      let dir := fun g => rndMode x.rnd (if B.triad then
        some (bitN (onceDraw (m.first.ctl64 4).toNat (B.tid i) m.icount.toNat e g) p) else none)
      let acc := ((m.sibs.getD p Regs.zero).lane (x.d + e)).toNat
      t.getD (tmp.length + p * n + j) 0 =
        promote (dir 1) (promote (dir 0) acc (sum 0) 127 127 false ⟨1, 1⟩) (sum 1) 127 127 false ⟨1, 1⟩) ∧
  (∀ (x : Ext) (nsib p : Nat) (tmp : List Nat), let n := mqCols x
    let at' := fun e => 64 + 16 * n + (e / n * nsib + p) * n + e % n
    (∀ e, e < 4 * n → tmp.getD (at' e) 0 < 2 ^ 32) → ∀ e, e < 4 * n → mqResult x nsib p tmp / 2 ^ (32 * e) % 2 ^ 32 = tmp.getD (at' e) 0) ∧
  let A := fun (x : Ext) => [(false, .lane x.a), (false, .lane x.b), noRead, noRead]
  let begins := fun (ins : Instr) (x : Ext) => ∀ s is i, Single true x (readRegs (A x) ++ mqRegs x) s is i →
    let l := memIn s is i x (A x)
    ∃ t, exec ins s = .next t ∧ Waits (started s) t is.blk i (.mq 0 (medianBy unsignedV (l.src 0)) (medianBy unsignedV (l.src 1)) [])
      (captured s is.blk (s.member is.blk i) x 53 (A x) [])
  let alone := fun (s : State) (b i : Nat) (c : Captured) (k offA offB : Nat) (tmp : List Nat) => (s.block b).state = .running ∧
    (s.member b i).wait = some (.mq k offA offB tmp) ∧ (s.member b i).cap = some c ∧ replayMembers (s.block b) c.seq = [i]
  Rows .mq16 .mq16Base 53 begins ∧ (∀ x, begins (.mq32 x) x) ∧
  (∀ s b i c offA offB, alone s b i c 0 offA offB [] → offA % 4 = 0 → offA + 64 ≤ spadSizeOf s b →
    exec (.microStep b i) s = .next (s.setMember b i { s.member b i with
      wait := some (.mq 1 offA offB ((spadRead s b offA 64).map BitVec.toNat)) })) ∧
  (∀ s b i c offA offB tmp, alone s b i c 1 offA offB tmp → offB % 4 = 0 → offB + 16 * mqCols c.x ≤ spadSizeOf s b →
    exec (.microStep b i) s = .next (s.setMember b i { s.member b i with
      wait := some (.mq 2 offA offB (tmp ++ (spadRead s b offB (16 * mqCols c.x)).map BitVec.toNat)) })) ∧
  (∀ s b i c k offA offB tmp, alone s b i c k offA offB tmp → 2 ≤ k → k ≤ 5 →
    exec (.microStep b i) s = .next (s.setMember b i { s.member b i with
      wait := some (.mq (k + 1) offA offB (mqRow (s.block b) i (s.member b i) c.x (k - 2) tmp)) })) ∧
  (∀ s b i c offA offB tmp, alone s b i c 6 offA offB tmp → (s.block b).dbg = false → (s.block b).course = none →
    (s.member b i).step = false → niAction (s.member b i) niSteer = 0 → let m := s.member b i
    ∃ t, exec (.microStep b i) s = .next t ∧ t.mem = s.mem ∧ (∀ j, j ≠ i → t.member b j = s.member b j) ∧ t.member b i = { m with
      pc := c.nextPc, came := m.pc, icount := if (s.block b).handler.isSome then c.icount else c.icount + 1
      sibs := (m.sibs.zipIdx.map (fun rp => rp.1.writeAll [stringRegs c.x.d (4 * mqCols c.x) (mqResult c.x m.nsib rp.2 tmp)])).map
        (Regs.age (max c.x.stall 1))
      space := max c.x.stall 1, cap := none, wait := none }) ∧
  (let group := fun (s : State) (b : Nat) (c : Captured) => (replayMembers (s.block b) c.seq).filter (fun j => match (s.member b j).wait with
      | some (.mq _ _ _ _) => true
      | _ => false)
    let tile := fun (s : State) (b off n : Nat) => if off % 4 = 0 ∧ off + n ≤ spadSizeOf s b then none
      else if spadSizeOf s b < off + 4 then some (fltOf .addrRange (off + 0x01E0000000000000))
      else if off % 4 ≠ 0 then some (fltOf .misalignedAddr (off + 0x01E0000000000000))
      else some (fltOf .addrRange (spadSizeOf s b + 0x01E0000000000000))
    let bad := fun (s : State) (b j : Nat) (x : Ext) => match (s.member b j).wait with
      | some (.mq 0 offA _ _) => tile s b offA 64
      | some (.mq 1 _ offB _) => tile s b offB (16 * mqCols x)
      | _ => none
    let goes := fun (s : State) (b j : Nat) (x : Ext) => match (s.member b j).wait with
      | some (.mq 0 offA offB _) => some (WaitKind.mq 1 offA offB ((spadRead s b offA 64).map BitVec.toNat))
      | some (.mq 1 offA offB tmp) => some (.mq 2 offA offB (tmp ++ (spadRead s b offB (16 * mqCols x)).map BitVec.toNat))
      | some (.mq k offA offB tmp) => some (.mq (k + 1) offA offB (mqRow (s.block b) j (s.member b j) x (k - 2) tmp))
      | w => w
    ∀ s b i c k offA offB tmp, (s.block b).state = .running → (s.member b i).wait = some (.mq k offA offB tmp) →
      (s.member b i).cap = some c → (k ≠ 6 →
        ((∀ j ∈ group s b c, bad s b j c.x = none) → ∃ t, exec (.microStep b i) s = .next t ∧ t.mem = s.mem ∧
          (∀ j ∈ group s b c, t.member b j = { s.member b j with wait := goes s b j c.x }) ∧
          (∀ j, j ∉ group s b c → t.member b j = s.member b j) ∧ ∀ d, d ≠ b → t.block d = s.block d) ∧
        ∀ j f r, (group s b c).filter (fun j => (bad s b j c.x).isSome) = j :: r → bad s b j c.x = some f →
          exec (.microStep b i) s = .next (takeTrap s b { memTrap (s.member b j) j c.x c.major f with
            micro := k, lanes := groupMask (s.block b) (group s b c)
            mems := (j :: r) ++ (group s b c).filter (fun j => (bad s b j c.x).isNone) })) ∧
      (k = 6 → (s.block b).dbg = false → (s.block b).course = none → (group s b c).Nodup →
        (∀ j ∈ group s b c, (s.member b j).step = false ∧ niAction (s.member b j) niSteer = 0) →
        ∃ t, exec (.microStep b i) s = .next t ∧ t.mem = s.mem ∧ (∀ j, j ∉ group s b c → t.member b j = s.member b j) ∧
          ∀ j ∈ group s b c, ∀ cj kj aj bj tmpj, (s.member b j).cap = some cj → (s.member b j).wait = some (.mq kj aj bj tmpj) →
            let m := s.member b j
            t.member b j = { m with
              pc := cj.nextPc, came := m.pc, icount := if (s.block b).handler.isSome then cj.icount else cj.icount + 1
              sibs := (m.sibs.zipIdx.map (fun rp => rp.1.writeAll [stringRegs c.x.d (4 * mqCols c.x)
                (mqResult c.x m.nsib rp.2 tmpj)])).map (Regs.age (max c.x.stall 1))
              space := max c.x.stall 1, cap := none, wait := none })) ∧
  ∀ s b i, (∀ k offA offB tmp, (s.member b i).wait ≠ some (.mq k offA offB tmp)) → exec (.microStep b i) s = .next s

/-- 08 R164, R165, R167 to R175: selection instructions are accepted into a queue of 8 with what they capture; the oldest operation completes
first, with its status record in bytes 48 to 63 of its parameter block and on its tag, and its tag set. Row by row, its results go through
OUTBUF and IDXBUF: the K largest and their indices, the softmax, the drawn position, or the reduction; the first fault ends it with ACCESS.
SAMP's block counter advances by the rows at acceptance. One whose format fails reports OPERAND_FORMAT, a DIGMIN of p for a solo thread and 0
for a triad; that it leaves the block's counter is the model's reading, and so is that 0 (log 47). That the results of a row before its
faulting one stay written is the model's choice (log 122), and that a REDB result carries the digit byte 24 is its reading (log 123). -/
def Obligations.Selection : Prop :=
  let A := fun (x : Ext) => [(false, opA x), noRead, noRead, noRead]
  let row := fun (kind : SelKind) (ins : Instr) (x : Ext) => ∀ s is i, Single true x (readRegs (A x)) s is i →
    x.d % 64 < (s.block is.blk).tagN → let c := (s.block is.blk).core
    let off := medianBy unsignedV ((memIn s is i x (A x)).src 0)
    ((s.core c).selq.length < 8 → ∃ t o, exec ins s = .next t ∧
      Completes x (acceptSel (started s) kind x is.blk i off) t is.blk i (fun _ => []) ∧
      (t.core c).selq = (s.core c).selq ++ [o] ∧ tagSet (t.block is.blk) (x.d % 64) = false ∧ o.kind = kind ∧ o.ty = x.ty ∧ o.rnd = x.rnd ∧
      o.blk = is.blk ∧ o.tag = x.d % 64 ∧ o.pbOff = off ∧ o.icount = (s.member is.blk i).icount ∧
      (let r := (s.member is.blk i).first
        let B := s.block is.blk
        let ctl := fieldAt o.pb 0 4
        o.seed = r.ctl64 4 ∧ o.randseed = r.ctl64 8 ∧ o.digest = r.ctl64 6 ∧ o.tid = BitVec.ofNat 64 (B.tid i) ∧
        o.counter = (if bitN ctl 19 then BitVec.ofNat 32 (fieldAt o.pb 12 4) else B.sample) ∧
        (o.pbOk = true → o.pb = storeRead B.spad off 48 ∧ o.recIn = B.buffer (bitsAt ctl 0 5) ∧ o.recOut = B.buffer (bitsAt ctl 5 5) ∧
          (kind = .selk ∨ kind = .samp ∧ bitN ctl 15 = true → o.recIdx = B.buffer (bitsAt ctl 10 5)))) ∧
      (o.pbOk = true ↔ off % 64 = 0 ∧ off + 64 ≤ (s.block is.blk).spadSize) ∧
      (t.block is.blk).sample = (if kind = .samp ∧ o.ok = true ∧ o.ctrx = false then (s.block is.blk).sample + BitVec.ofNat 32 o.rows
        else (s.block is.blk).sample)) ∧
    (8 ≤ (s.core c).selq.length → exec ins s = .next (reseat (started s) is.blk [i]))
  Rows .selk .selkBase 52 (row .selk) ∧ (∀ x, row .smax (.smax x) x) ∧ (∀ x, row .samp (.samp x) x) ∧ (∀ x, row .redb (.redb x) x) ∧
  (∀ s c o r, (s.core c).selq = o :: r → ∃ t, exec (.selectionComplete c) s = .next t ∧ (t.core c).selq = r ∧
    (o.ok = false → t.mem = s.mem ∧ let st := leBytes 16 (SMap.get 0 (t.block o.blk).tagStat o.tag).toNat
      fieldAt st 0 1 % 16 = 1 ∧ fieldAt st 4 1 = (if (s.block o.blk).triad then 0 else o.fmt.prec)) ∧
    ((s.core c).matq = [] → (∀ d, (s.die d).copyq = []) → (∀ kv ∈ s.dies, kv.2.collq = []) → (∀ p ∈ r, p.tag ≠ o.tag) →
      c = (s.block o.blk).core →
      tagSet (t.block o.blk) o.tag = true)) ∧
  (∀ s c o r, (s.core c).selq = o :: r → let B := s.block o.blk
    let s1 := { s.setCore c { s.core c with selq := r } with reqs := [] }
    let ctr := if o.kind = .samp then o.counter.toNat else 0
    let zero : SelStat := { excl := 0, rows := 0, digmin := 0, empty := false, finite := false }
    let ends := fun (v : State) (st : BitVec 128) => tagDone (if o.pbOk
      then v.setBlock o.blk { v.block o.blk with spad := storeWrite (v.block o.blk).spad (o.pbOff + 48) (leBytes 16 st.toNat) }
      else v) o.blk o.tag st
    (o.ok = false → exec (.selectionComplete c) s = .next (ends s1 (SelStat.record
      { zero with digmin := if B.triad then 0 else o.fmt.prec } 1 ctr))) ∧
    (o.ok = true → ∀ u st good, selRows o { engineOf B 0 with priv := false } B.triad B.blk o.rows 0 s1
      { zero with digmin := o.fmt.prec, finite := true } = (u, st, good) →
      exec (.selectionComplete c) s = .next (ends (sampleEngine u B o.pc) (st.record (if good then 0 else 8) ctr)))) ∧
  (∀ (t : SelStat) (code ctr : Nat), let n := (t.record code ctr).toNat
    n % 16 = code % 16 ∧ n / 2 ^ 4 % 2 = boolN t.finite ∧ n / 2 ^ 5 % 2 = boolN t.empty ∧ n / 2 ^ 6 % 2 ^ 26 = 0 ∧
    n / 2 ^ 32 % 256 = t.digmin % 256 ∧ n / 2 ^ 40 % 2 ^ 24 = t.rows % 2 ^ 24 ∧ n / 2 ^ 64 % 2 ^ 32 = min t.excl 0xFFFF_FFFF ∧
    n / 2 ^ 96 = ctr % 2 ^ 32) ∧
  (∀ (o : SelOp) who triad blk n r s t, selRows o who triad blk 0 r s t = (s, t, true) ∧
    (∀ u f, selRow s o who triad r = (u, .error f) → selRows o who triad blk (n + 1) r s t = (u, t, false)) ∧
    ∀ u es, selRow s o who triad r = (u, .ok es) →
      let row := if o.kind = .samp then sampRow u o who blk r es
        else (u, .ok (if o.kind = .selk then selkRow o es else if o.kind = .smax then smaxRow o triad r es else redbRow o es))
      let puts := fun (v : State) (xs : List SelOut) => xs.foldl (fun (a : State × Option Flt) x =>
        if a.2.isSome then a else selWrite a.1 o who r x) (v, none)
      (∀ v f, row = (v, .error f) → selRows o who triad blk (n + 1) r s t = (v, t, false)) ∧
      (∀ v R w f, row = (v, .ok R) → puts v R.outs = (w, some f) → selRows o who triad blk (n + 1) r s t = (w, t, false)) ∧
      ∀ v R w, row = (v, .ok R) → puts v R.outs = (w, none) → selRows o who triad blk (n + 1) r s t =
        selRows o who triad blk n (r + 1) w { excl := t.excl + R.excl, rows := t.rows + 1, digmin := min t.digmin R.digmin
                                              empty := t.empty || R.empty, finite := t.finite && !es.any SelElem.notFinite }) ∧
  (∀ (s : State) (o : SelOp) who r (x : SelOut), ¬ (x.col < recExt0 x.rec_ ∧ r < recExt1 x.rec_) → selWrite s o who r x =
    (s, if recBounds x.rec_ = 1 then none else some (fltOf .bounds 0))) ∧
  (∀ (s v : State) (o : SelOp) who triad a va p, engineWindow s (some o.blk) a o.w = .ok (.page va) → who.core = none →
    reach s who va o.w .read (if triad then 3 else 1) = (v, .ok p) → let f := o.fmt
    let at' := fun k => Memory.nat v.mem k o.w
    (p.rep = 0 ∨ triad = false → ∃ u, selRead s o who triad a = (u, .ok { bits := at' p.key, val := fval f (at' p.key), digits := f.prec })) ∧
    (p.rep = 1 → triad = true → let xs := [at' (p.plane 0), at' (p.plane 1), at' (p.plane 2)]
      ∃ u, selRead s o who triad a = (u, .ok { bits := storeMean f xs, val := fval f (storeMean f xs), digits := digCount f xs }))) ∧
  (let add := fun a b => (fadd .f32 ⟨.rne, false⟩ (fval .f32 a) (fval .f32 b)).1
    let mul := fun a b => (fmul .f32 ⟨.rne, false⟩ (fval .f32 a) (fval .f32 b)).1
    let f32 := fun v : FV => (fcvt .f32 ⟨.rne, false⟩ v).1
    let least := fun (p : Nat) (es : List SelElem) (n : Nat) => n ≤ p ∧ (∀ e ∈ es, n ≤ e.digits) ∧ (n = p ∨ ∃ e ∈ es, e.digits = n)
    (∀ v : List Nat, (v.length ≤ 1 → treeSum v = v.headD 0) ∧ (2 ≤ v.length → treeSum v = treeSum ((List.range ((v.length + 1) / 2)).map
      (fun i => add (v.getD (2 * i) 0) (v.getD (2 * i + 1) 0))))) ∧
    (∀ (o : SelOp) (es : List SelElem), let R := selkRow o es
      let best := selLargest o.k es
      R.outs = (List.range o.k).flatMap (fun i => let e := best[i]?.map (fun ne => (ne.2.bits, ne.1))
        [{ rec_ := o.recOut, col := i, w := o.w, bits := (e.map Prod.fst).getD (o.fmt.signBit + o.fmt.infBits), digit := o.fmt.prec },
         { rec_ := o.recIdx, col := i, w := 4, bits := (e.map Prod.snd).getD 0xFFFF_FFFF, digit := 0xFF }]) ∧
      R.excl = (es.filter SelElem.nan).length ∧ R.empty = false ∧ least o.fmt.prec (best.map Prod.snd) R.digmin) ∧
    (∀ (o : SelOp) triad r (es : List SelElem), let R := smaxRow o triad r es
      let m := es.foldl (fun a e => fvMax a e.val) (.inf true)
      let nans := (es.filter SelElem.nan).length
      let outs := fun ys : List Nat => ys.zipIdx.map (fun yi =>
        ({ rec_ := o.recOut, col := yi.2, w := o.w, bits := yi.1, digit := o.fmt.prec } : SelOut))
      let z := fun e : SelElem => match e.val with
        | .fin _ _ => let d := (e.val.sq.add m.negate.sq).mul (fval .f32 o.scale).sq
          fval .f32 (if d.isZero then 0 else (roundTo .f32 .rne d.neg d.q).1)
        | v => v
      let ex := es.map (fun e => (fex2Op (xPrec .f32) .f32 ⟨.rne, false⟩ (z e)).1)
      least o.fmt.prec es R.digmin ∧ R.excl = nans ∧
      (nans ≠ 0 ∨ m = .inf false → R.outs = outs (es.map (fun _ => o.fmt.nanBits)) ∧ R.empty = false) ∧
      (nans = 0 → m = .inf true → R.outs = outs (es.map (fun _ => 0)) ∧ R.empty = true) ∧
      (nans = 0 → m.isInf = false → R.empty = false ∧ R.outs = outs (ex.zipIdx.map (fun ei =>
        (fdiv o.fmt (rndMode o.rnd (if triad then
          some (bitN (onceDraw o.seed.toNat o.tid.toNat o.icount.toNat (r * o.n + ei.2) 0) 0) else none))
          (fval .f32 ei.1) (fval .f32 (treeSum ex))).1)))) ∧
    (∀ (e : SelElem), (e.weight = match e.val with
        | .fin false _ => f32 e.val
        | _ => 0) ∧ (e.noWeight = true ↔ ∀ n q, e.val = .fin n q → n = true ∧ q.n ≠ 0)) ∧
    (∀ (o : SelOp) blk r (ws : List Nat), let w := draw o.randseed.toNat (blk % 2 ^ 32) ((o.counter.toNat + r) % 2 ^ 32)
      let S := fun j => (ws.take (j + 1)).foldl add 0
      let t := (fmul .f32 ⟨.rne, false⟩ (.fin false ⟨w / 256 % 2 ^ 24, 2 ^ 24⟩) (fval .f32 (S (ws.length - 1)))).1
      let above := fun j => fvLt (fval .f32 t) (fval .f32 (S j)) = true
      (∀ j, j < ws.length → above j → (∀ i, i < j → ¬ above i) → sampPos o blk r ws = some j) ∧
      ((∀ j, j < ws.length → ¬ above j) → ((∀ v ∈ ws, v = 0) → sampPos o blk r ws = none) ∧
        ∀ j, j < ws.length → ws.getD j 0 ≠ 0 → (∀ i, j < i → i < ws.length → ws.getD i 0 = 0) → sampPos o blk r ws = some j)) ∧
    (∀ (s : State) (o : SelOp) who blk r es, let pos := sampPos o blk r (es.map SelElem.weight)
      let gives := fun (R : SelRow) (v : Nat) => R.outs = [{ rec_ := o.recOut, col := 0, w := 4, bits := v, digit := 0xFF }] ∧
        R.excl = (es.filter SelElem.noWeight).length ∧ R.empty = pos.isNone ∧
        least o.fmt.prec (es.filter (fun e => e.weight != 0)) R.digmin
      (pos = none → ∃ R, sampRow s o who blk r es = (s, .ok R) ∧ gives R 0xFFFF_FFFF) ∧
      ∀ j, pos = some j → (o.idxin = false → ∃ R, sampRow s o who blk r es = (s, .ok R) ∧ gives R j) ∧
        (o.idxin = true → ∀ u bs, engineRead s who (some o.blk) (rowAddr o.recIdx r j 4) 4 = (u, .ok bs) →
          ∃ R, sampRow s o who blk r es = (u, .ok R) ∧ gives R (leNat bs))) ∧
    ∀ (o : SelOp) (es : List SelElem), let R := redbRow o es
      let xs := es.map (fun e => f32 e.val)
      let most := fun (isMax : Bool) (ys : List Nat) => (ys.drop 1).foldl (fun a y => (fminmax .f32 isMax a y).1) (ys.headD 0)
      let v := [treeSum xs, treeSum (xs.map (fun x => mul x x)), most true xs, most false xs, most true (xs.map (fun x => x % 2 ^ 31))].getD
        o.redOp 0
      o.redOp < 5 → R.outs = [{ rec_ := o.recOut, col := 0, w := 4, bits := if es.any SelElem.nan then Fmt.nanBits .f32 else v, digit := 24 }] ∧
        R.excl = (es.filter SelElem.nan).length ∧ R.empty = false ∧ least o.fmt.prec es R.digmin) ∧
  (∀ s c, (s.core c).selq = [] → exec (.selectionComplete c) s = .next s) ∧
  ∀ (f : Fmt) (k : Nat) (es : List SelElem), (∀ e ∈ es, ∃ b, e.val = fval f b) → let best := selLargest k es
    best.length = min k (es.filter (fun e => !e.nan)).length ∧ (∀ e ∈ best, es[e.1]? = some e.2 ∧ e.2.nan = false) ∧
    best.Pairwise (fun a b => fvLt a.2.val b.2.val = false ∧ (fvLt b.2.val a.2.val = false → a.1 < b.1))

/-- 12 R239 to R242: XCOPY. With room in the die's queue of 64 the instruction retires, its operation stands last with the parameter block
as captured, its tag is clear, and the owner bits of the slots that it touches are claimed where all of them were given; with no room it is
not ready. The copy completes with its code, its status record, its owner bits returned and its tag's status, and leaves the queue. A linear
copy without conversion in the scratchpad of a running block gives each destination element the bytes of its source element, or zeros beyond the extents, and
changes no other byte. That the spans of elements and of scale bytes are compared one by one (log 126), the order of the codes where several apply (log 31) and ACCESS for an engine whose own table refuses (log 34) are the model's readings. -/
def Obligations.Copies : Prop :=
  let A := fun (x : Ext) => [(false, opA x), noRead, noRead, noRead]
  let die := fun (s : State) (b : Nat) => coreDie (s.block b).core
  Rows .xcopy .xcopyBase 56 (fun ins x => ∀ s is i, Single true x (readRegs (A x)) s is i →
    let B := s.block is.blk
    let D := s.die (die s is.blk)
    let off := medianBy unsignedV ((memIn s is i x (A x)).src 0)
    (x.d % 64 < B.tagN → D.copyq.length < 64 →
      let u := acceptCopy (started s) is.blk i (x.d % 64) off
      ∃ t op, exec ins s = .next t ∧ Completes x u t is.blk i (fun _ => []) ∧
        (t.die (die s is.blk)).copyq = D.copyq ++ [op] ∧ op.blk = is.blk ∧ op.tag = x.d % 64 ∧ op.region = B.region ∧ op.pbOff = off ∧
        op.engine < 8 ∧ (op.pbOk = true ↔ off % 64 = 0 ∧ off + 128 ≤ B.spadSize) ∧
        (op.pbOk = true → op.pb = storeRead B.spad off 112) ∧ (op.ownerFail = true → op.slots = []) ∧
        (let k := CopyDesc.of op.pb
          let base : Int := 0x01E0000000000000
          let touched := fun n : Nat => n < 128 ∧ 4096 * n < B.spadSize ∧
            ∃ r ∈ k.srcRanges ++ k.srcScaleRanges ++ k.dstRanges ++ k.dstScaleRanges,
              r.1 < r.2 ∧ r.1 < base + 4096 * (n + 1) ∧ base + 4096 * n < r.2
          (op.pbOk = true → k.ok = true → (op.ownerFail = true ↔ ∃ n, touched n ∧ ownerOf B n ≠ .given) ∧
            (op.ownerFail = false → ∀ n, n ∈ op.slots ↔ touched n)) ∧
          (op.pbOk = false ∨ k.ok = false → op.slots = [] ∧ op.ownerFail = false)) ∧
        tagSet (t.block is.blk) (x.d % 64) = false ∧ (t.block is.blk).spad = B.spad ∧
        ∀ n, ownerOf (t.block (spadHome s is.blk)) n =
          if op.slots.contains n then .claimed op.id else ownerOf (s.block (spadHome s is.blk)) n) ∧
    (x.d % 64 < B.tagN → 64 ≤ D.copyq.length → exec ins s = .next (reseat (started s) is.blk [i])) ∧
    (B.tagN ≤ x.d % 64 → exec ins s = .next (trapped s (keptAt s (started s) is i x 56 (A x)) is i x 56 (fltOf .tagRange 0)))) ∧
  (∀ s d idx op u code st, (s.die d).copyq[idx]? = some op → performCopy { s with reqs := [] } op = (u, code, st) →
    let status := copyStatus st op.engine code
    ∃ t, exec (.copyComplete d idx) s = .next t ∧ (t.die d).copyq = (u.die d).copyq.filter (fun o => o.id ≠ op.id) ∧
      (t.block op.blk).tagStat = SMap.set 0 (u.block op.blk).tagStat op.tag (BitVec.ofNat 128 status) ∧
      (tagBusy t op.blk op.tag = false → tagSet (t.block op.blk) op.tag = true) ∧
      (t.block op.blk).spad = (if op.pbOk then storeWrite (u.block op.blk).spad (op.pbOff + 112) (leBytes 16 status)
        else (u.block op.blk).spad) ∧
      (∀ n ∈ op.slots, ownerOf (t.block (spadHome u op.blk)) n = .threads) ∧
      ∀ c, c ≠ op.blk → c ≠ spadHome u op.blk → t.block c = u.block c) ∧
  (∀ s d idx, (s.die d).copyq[idx]? = none → exec (.copyComplete d idx) s = .next s) ∧
  (∀ (s : State) (op : CopyOp) (w : Nat), let k := CopyDesc.of op.pb
    let B := s.block op.blk
    let base : Int := 0x01E0000000000000
    let place := fun (at' : Nat) (steps : List Int) (j : List Nat) =>
      (at' : Int) + j.getD 0 0 * w + ((List.range 5).map (fun e => (j.getD (e + 1) 0 : Int) * steps.getD e 0)).sum - base
    let coord := coordsAt k.counts
    let src := fun n => place k.src k.ss (coord n)
    let dst := fun n => let j := coord n
      place k.dst k.ds (if k.transpose then j.getD 1 0 :: j.getD 0 0 :: j.drop 2 else j)
    let reads := fun n => (coord n).getD 0 0 < k.sext0 ∧ (coord n).getD 1 0 < k.sext1
    let inside := fun a : Int => 0 ≤ a ∧ a + w ≤ B.spadSize
    op.pbOk = true → k.ok = true → op.ownerFail = false → op.denied = false → (s.region op.region).live = true → B.state = .running →
    k.conv = 0 → k.dlay = 0 →
    k.readsScales = false → k.writesScales = false → k.sw = 8 * w → B.spadSize ≤ 2 ^ 19 →
    overlaps (spanOf k.srcRanges) (spanOf k.dstRanges) = false →
    (∀ n, n < k.total → inside (dst n) ∧ (reads n → inside (src n))) →
    (∀ n m, n < m → m < k.total → dst n + w ≤ dst m ∨ dst m + w ≤ dst n) →
    ∃ u, performCopy s op = (u, 0, { CopyStat.zero with bytes := k.total * w }) ∧ u.mem = s.mem ∧
      (∀ n i, n < k.total → i < w → (reads n → SMap.get 0 (u.block op.blk).spad ((dst n).toNat + i) = SMap.get 0 B.spad ((src n).toNat + i)) ∧
        (¬ reads n → SMap.get 0 (u.block op.blk).spad ((dst n).toNat + i) = 0)) ∧
      ∀ a : Nat, (∀ n, n < k.total → (a : Int) < dst n ∨ dst n + w ≤ a) → SMap.get 0 (u.block op.blk).spad a = SMap.get 0 B.spad a) ∧
  ∀ (s : State) (op : CopyOp),
    let k := CopyDesc.of op.pb
    let rs := [k.srcRanges, k.srcScaleRanges]
    let ws := [k.dstRanges, k.dstScaleRanges]
    (op.pbOk = false ∨ k.ok = false → performCopy s op = (s, 1, CopyStat.zero)) ∧
    (op.pbOk = true → k.ok = true →
      (op.ownerFail = true → performCopy s op = (s, 5, CopyStat.zero)) ∧
      (op.ownerFail = false → op.denied = true → performCopy s op = (s, 4, CopyStat.zero)) ∧
      (op.ownerFail = false → op.denied = false →
        ((s.region op.region).live = false → performCopy s op = (s, 6, CopyStat.zero)) ∧
        ((s.region op.region).live = true →
          ((∃ r ∈ rs ++ ws, ∃ q ∈ r, inSync q = true) → performCopy s op = (s, 3, CopyStat.zero)) ∧
          ((∀ r ∈ rs ++ ws, ∀ q ∈ r, inSync q = false) → (∃ r ∈ rs, ∃ q ∈ ws, overlaps (spanOf r) (spanOf q) = true) →
            performCopy s op = (s, 2, CopyStat.zero)))))

/-- 12 R243 to R247; 18 R335: user-mode queues. An engine serves a valid queue in RUN whose region lives: it performs the packet at RDIDX and
then finishes it; OK without a record advances RDIDX, a record is written at CWR, and BADTYPE, FORMAT and an unreadable header stop the
queue in ERROR. A queue whose region has ended turns OFF, RESUME restarts one in ERROR and is cleared in any state, and a QTAB write enables
or disables one. Every access goes under the master of the region that the control block names, and an engine of a fenced die serves nothing.
The engine's accesses to a control block count like any other. That a write which the control block's target refuses counts and is not made is
the model's choice (log 36), and that each engine's requests are sampled on their own is its reading (log 41). -/
def Obligations.UserQueues : Prop :=
  let inService := fun (s : State) (d e q : Nat) =>
    d < 4 ∧ e < 8 ∧ q < 16 ∧ (s.die d).fencedCompute = false ∧ (s.die d).fencedFull = false
  let reached := fun (s : State) (d pa : Nat) (k : AccKind) => (checkTarget s (queueWho (qRegion s pa) d) 0 pa 128 pa k).2 = none
  let serves := fun (s : State) (d e q : Nat) => let k := (s.die d).queue e q
    inService s d e q ∧ k.valid = true ∧ qState s k.paddr = 1 ∧ (s.region (qRegion s k.paddr)).live = true ∧
    reached s d k.paddr .read ∧ reached s d k.paddr .write
  let checks := fun (s : State) (d e q pa : Nat) => inService s d e q ∧ reached s d pa .read ∧ 1 ≤ bitsAt (qField s pa 16 2) 0 4 ∧
    1 ≤ qField s pa 36 4 ∧ qField s pa 36 4 ≤ 15 ∧ (s.region (qRegion s pa)).live = true
  let packet := fun (s : State) (d e q t : Nat) (u : State) (p : List Byte) =>
    nextPacket (qCount { s with reqs := [] } d ((s.die d).queue e q).paddr 0) d ((s.die d).queue e q).paddr = (u, .ok p) ∧
    fieldAt p 0 1 % 16 = t ∧
    fieldAt p 4 4 = qField s ((s.die d).queue e q).paddr 4 4
  let finish := fun (s u : State) (d e q t : Nat) (p : List Byte) (r : PacketEnd) => let pa := ((s.die d).queue e q).paddr
    packetFinish u d e q pa t (bitN (fieldAt p 0 8) 8) false r
  let off := fun (s : State) (d pa : Nat) => if (s.region (qRegion s pa)).live then qSetState s d pa 0
    else { qCount s d pa 1 with mem := Memory.write s.mem (pa + 16) (leBytes 2 (qField s pa 16 2 - qState s pa * 16)) }
  let kinds := [(0, Instr.queueNop), (1, .queueCopy), (2, .queueQuantise), (3, .queueFill), (4, .queueSignal)]
  (∀ s d e q, ¬ serves s d e q →
    (∀ k ∈ kinds, exec (k.2 d e q) s = .next s) ∧ exec (.queueBadtype d e q) s = .next s ∧ exec (.queueHeaderFault d e q) s = .next s) ∧
  (∀ s d e q u p, serves s d e q →
    (∀ k ∈ kinds, packet s d e q k.1 u p → exec (k.2 d e q) s = .next (
      let (v, r) := performPacket u (queueWho (qRegion s ((s.die d).queue e q).paddr) d) e k.1 p
      finish s v d e q k.1 p r)) ∧
    (∀ t, 5 ≤ t → packet s d e q t u p → exec (.queueBadtype d e q) s = .next (finish s u d e q t p (PacketEnd.plain 1))) ∧
    ∀ f, nextPacket (qCount { s with reqs := [] } d ((s.die d).queue e q).paddr 0) d ((s.die d).queue e q).paddr = (u, .error f) →
      exec (.queueHeaderFault d e q) s = .next (packetFinish u d e q ((s.die d).queue e q).paddr 0 false true (PacketEnd.access 0 f))) ∧
  (∀ s d pa off n v, (reached s d pa .write → qPut s d pa off n v = { qCount s d pa 1 with mem := Memory.write s.mem (pa + off) (leBytes n v) }) ∧
    (¬ reached s d pa .write → qPut s d pa off n v = qCount s d pa 1)) ∧
  (∀ s d pa k, let t := qCount s d pa k
    t = { s with dies := t.dies, reqs := t.reqs } ∧ (∀ e, t.die e = { s.die e with counters := (t.die e).counters }) ∧
    t.reqs.take s.reqs.length = s.reqs) ∧
  (∀ s d pa v, v < 4 → reached s d pa .write → qState (qSetState s d pa v) pa = v) ∧
  (∀ s d e pa n bad, queueError s d e pa n bad =
    deliverAsync (samplePacket (qSetState s d pa 2) d e (qRegion s pa)) { region := qRegion s pa, die := d, record := n, paddr := pa, bad := bad }) ∧
  (∀ s d e r, samplePacket s d e r = if sampling s r then sampleReqs s r d (0x100 + e) 0 0xFFFF_FFFF (some 4) s.reqs else s) ∧
  (∀ s d e q, let k := (s.die d).queue e q
    queueOff s d e q = setQueue (off s d k.paddr) d e q { k with valid := false } ∧
    ((s.region (qRegion s k.paddr)).live = false → qState (queueOff s d e q) k.paddr = 0)) ∧
  (∀ (s u : State) (d e q pa t : Nat) (crec h : Bool) (r : PacketEnd),
    let n := qField s pa 4 4
    let w := qField s pa 32 4
    let at' := qField s pa 24 8 + 32 * (w % 2 ^ qField s pa 36 4)
    (r.status = 0 → packetFinish s d e q pa t false false r = samplePacket (qPut s d pa 4 4 (n + 1)) d e (qRegion s pa)) ∧
    (r.status ≠ 0 ∨ crec = true → writeRange s (queueWho (qRegion s pa) d) at' (completionRecord t n r) = (u, none) →
      let v := qPut u d pa 32 4 (w + 1)
      packetFinish s d e q pa t crec h r =
        if r.status = 1 ∨ r.status = 2 ∨ h = true then queueError v d e pa w none
        else samplePacket (if r.status = 6 then queueOff v d e q else qPut v d pa 4 4 (n + 1)) d e (qRegion v pa)) ∧
    (r.status ≠ 0 ∨ crec = true → ∀ f, writeRange s (queueWho (qRegion s pa) d) at' (completionRecord t n r) = (u, some f) →
      packetFinish s d e q pa t crec h r = queueError u d e pa w (some (at', f.fcode)))) ∧
  (∀ s w e p, packetOk 0 p = true → performPacket s w e 0 p = (s, PacketEnd.plain 0)) ∧
  (∀ s w e t p, packetOk t p = false → performPacket s w e t p = (s, PacketEnd.plain 2)) ∧
  (∀ t n (r : PacketEnd), n < 2 ^ 32 → r.status < 2 ^ 8 → t < 16 → r.fcode < 2 ^ 32 → r.bytes < 2 ^ 64 → r.faddr < 2 ^ 64 →
    let c := completionRecord t n r
    c.length = 32 ∧ fieldAt c 0 4 = n ∧ fieldAt c 4 1 = r.status ∧ fieldAt c 5 1 = 16 * t ∧ fieldAt c 12 4 = r.fcode ∧
    fieldAt c 16 8 = r.bytes ∧ fieldAt c 24 8 = r.faddr) ∧
  ∀ (s : State) (d e q : Nat) (value : W64),
    let k := (s.die d).queue e q
    let pa := bitsAt value.toNat 7 31 * 128
    exec (.queueRegionEnded d e q) s = .next (if inService s d e q ∧ k.valid = true ∧ (s.region (qRegion s k.paddr)).live = false
      then queueOff s d e q else s) ∧
    exec (.queueResume d e q) s = .next (if inService s d e q ∧ (k.valid = true ∨ k.paddr ≠ 0) ∧ reached s d k.paddr .read ∧
        qField s k.paddr 20 4 ≠ 0 then
      (let t := qPut (qCount s d k.paddr 0) d k.paddr 20 4 0
       if k.valid = true ∧ qState s k.paddr = 2 then qSetState t d k.paddr 1 else t) else s) ∧
    (¬ (d < 4 ∧ e < 8 ∧ q < 16) → exec (.queueEnable d e q value) s = .next s ∧ exec (.queueDisable d e q value) s = .next s) ∧
    (d < 4 → e < 8 → q < 16 →
      (k.valid = true → exec (.queueEnable d e q value) s = .next s ∧
        exec (.queueDisable d e q value) s = .next (if pa = k.paddr then queueOff s d e q else s)) ∧
      (k.valid = false →
        (checks s d e q pa → exec (.queueEnable d e q value) s =
          .next (setQueue (qSetState (qCount s d pa 0) d pa 1) d e q { valid := true, paddr := pa })) ∧
        (¬ checks s d e q pa → exec (.queueEnable d e q value) s =
          .next (setQueue (off (qCount s d pa 0) d pa) d e q { valid := false, paddr := pa })) ∧
        exec (.queueDisable d e q value) s = .next (setQueue s d e q { valid := false, paddr := pa })))

/-- 15 R256 to R258, R262, R271 to R275; 11 R213: launches and pipelines. A launch answers the first code that applies, and on OK its grid
starts. DLAUNCH returns status and grid number. ENQ puts the partition's bytes into the next entry and publishes it, DEQ claims the next
index and takes its entry out; on a full or an empty queue they wait. A stage is reviewed every 10 µs, a pipeline with nothing left
quiesces, and a grid whose blocks and operations have ended completes with its signal. A launch record outside every window or in the sync
window traps, and one that cannot be read answers ACCESS. The arguments of a call are checked through the tables of the region that owns its
arena. These clauses are the model's readings: DEQ drops the L1's lines (log 37), a ring
fault is the instruction's own trap (log 53), the Keystone of a die makes a grid's accesses (log 65), the codes of bounds that several rules
share (log 66), ADDR_RANGE for a launch record outside every window (log 67), a review adds at most one block and ends the idle one with the highest number (log 68), and ENQ writes and publishes in one
step, DEQ reads and frees in one (log 91). -/
def Obligations.LaunchesAndPipelines : Prop :=
  let target := fun (launcher : Option Nat) (r : LaunchRec) => if r.region = 0 then launcher.getD 0 else r.region
  let here := fun (s : State) (launcher : Option Nat) (r : LaunchRec) => (s.region (target launcher r)).live = true ∧
    ∀ l, launcher = some l → s.within (target launcher r) l = true
  (∀ s launcher die r arena, let w := keystoneOf (target launcher r) die
    let wa := keystoneOf (arena.getD (target launcher r)) die
    let answer := (launch s launcher die r arena).2
    let sound := r.stamp = Config.classStamp ∧ r.ok = true ∧ here s launcher r
    (r.stamp ≠ Config.classStamp → answer = (1, 0)) ∧
    (r.stamp = Config.classStamp → r.ok = false → answer = (2, 0)) ∧
    (r.stamp = Config.classStamp → r.ok = true → ¬ here s launcher r → answer = (3, 0)) ∧
    (sound → r.stages = 0 → ∀ v f, checkRange s wa r.args r.argLen .read = (v, f) →
      let fits := budgetOk v (target launcher r) (ctlGang r.ctl) (launchNeeds r none)
      (fits = false → answer = (4, 0)) ∧ (fits = true → f.isSome = true → answer = (5, 0))) ∧
    (sound → r.stages ≠ 0 → (∀ u f, readRange s w r.stages 544 = (u, .error f) → answer = (5, 0)) ∧
      ∀ u g, readRange s w r.stages 544 = (u, .ok g) →
        let good := graphOk g (ctlTriad r.ctl) = true ∧ ∀ k, k < fieldAt g 1 1 → ringOk u w g k = true
        (¬ good → answer = (2, 0)) ∧
        (good → ∀ v f, checkRange u wa r.args r.argLen .read = (v, f) →
          let fits := budgetOk v (target launcher r) (ctlGang r.ctl) (launchNeeds r (some g))
          (fits = false → answer = (4, 0)) ∧ (fits = true → f.isSome = true → answer = (5, 0)))) ∧
    (sound → ∀ u graph v,
      (r.stages = 0 ∧ u = s ∧ graph = none ∨ r.stages ≠ 0 ∧ ∃ g, graph = some g ∧ readRange s w r.stages 544 = (u, .ok g) ∧
        graphOk g (ctlTriad r.ctl) = true ∧ ∀ k, k < fieldAt g 1 1 → ringOk u w g k = true) →
      checkRange u wa r.args r.argLen .read = (v, none) → budgetOk v (target launcher r) (ctlGang r.ctl) (launchNeeds r graph) = true →
      let n := gridNumber v (v.grids.length + 1) v.nextGrid
      launch s launcher die r arena = ({ v with
        nextGrid := n + 1
        grids := SMap.put v.grids n { gridOf r (target launcher r) graph with reviewed := v.reft.toNat } }, 0, n))) ∧
  (∀ x s is i, let reads := [(true, opA x), noRead, noRead, noRead]
    Single true x (readRegs reads) s is i →
    let B := s.block is.blk
    let a := addressOfPair x (memIn s is i x reads)
    (∀ pl u raw v st n, launchPlace s is.blk a = .ok pl → captureRecord (started s) is.blk (s.member is.blk i) pl = (u, some raw) →
      launch u (some B.region) (coreDie B.core) (LaunchRec.of raw) = (v, st, n) →
      ∃ t, exec (.dlaunch x) s = .next t ∧ Completes x v t is.blk i (fun _ => [.pair x.d (BitVec.ofNat 64 (st + n * 2 ^ 32))])) ∧
    (∀ pl u, launchPlace s is.blk a = .ok pl → captureRecord (started s) is.blk (s.member is.blk i) pl = (u, none) →
      ∃ t, exec (.dlaunch x) s = .next t ∧ Completes x u t is.blk i (fun _ => [.pair x.d 5])) ∧
    (∀ f, launchPlace s is.blk a = .error f →
      exec (.dlaunch x) s = .next (trapped s (keptAt s (started s) is i x 58 reads) is i x 58 f))) ∧
  (∀ (s : State) (b va : Nat),
    (windowOf va = .outside → launchPlace s b va = .error (fltOf .addrRange va)) ∧
    (∀ d o, windowOf va = .sync d o → launchPlace s b va = .error (fltOf .syncSpace va)) ∧
    (windowOf va = .translated → launchPlace s b va =
      if va % 64 = 0 then .ok (.page va) else .error (fltOf .misalignedAddr va)) ∧
    ∀ m u, (∀ raw, readRange s (threadOf (s.block b)) va 128 = (u, .ok raw) → captureRecord s b m (.page va) = (u, some raw)) ∧
      (∀ f, readRange s (threadOf (s.block b)) va 128 = (u, .error f) → captureRecord s b m (.page va) = (u, none))) ∧
  Rows .enq .enqBase 58 (fun ins x => ∀ s is i Q off, Single true x (readRegs (queueReads x)) s is i →
    queuePlace x (memIn s is i x (queueReads x)) s true = .ok (Q, off) → let B := s.block is.blk
    (Q.room = true → ∀ u, writeRange (started s) (keystoneOf B.region (coreDie B.core)) (Q.base + Q.esize * (Q.write % 2 ^ Q.logN))
        (spadRead s is.blk off Q.esize) = (u, none) →
      ∃ t, exec ins s = .next t ∧ Completes x (setStageQueue u B.grid (x.b % 8)
        { Q with write := (Q.write + 1) % 2 ^ 32, published := Q.published ++ [Q.write] }) t is.blk i
        (fun _ => [.pair x.d (BitVec.ofNat 64 Q.write)])) ∧
    (Q.room = false → ∃ t, exec ins s = .next t ∧ Waits (started s) t is.blk i (.enq (x.b % 8) off)
      (captured s is.blk (s.member is.blk i) x 58 (queueReads x) []))) ∧
  (∀ x s is i Q off, Single true x (readRegs (queueReads x)) s is i → (s.member is.blk i).wait = none →
    queuePlace x (memIn s is i x (queueReads x)) s false = .ok (Q, off) →
    let B := s.block is.blk
    let Q' := { Q with claim := (Q.claim + 1) % 2 ^ 32 }
    (Q.published.contains Q.claim = true → ∀ u bytes, readRange (started s) (keystoneOf B.region (coreDie B.core))
        (Q.base + Q.esize * (Q.claim % 2 ^ Q.logN)) Q.esize = (u, .ok bytes) →
      ∃ t, exec (.deq x) s = .next t ∧ Completes x (setStageQueue (spadWrite (acquireEffect u is.blk i .acquire .device) is.blk off bytes) B.grid (x.b % 8)
        { Q' with published := Q.published.filter (fun k => k ≠ Q.claim) }) t is.blk i
        (fun _ => [.pair x.d (BitVec.ofNat 64 Q.claim)])) ∧
    (Q.published.contains Q.claim = false → ∃ t, exec (.deq x) s = .next t ∧ Waits (setStageQueue (started s) B.grid (x.b % 8) Q') t
      is.blk i (.deq (x.b % 8) Q.claim off) (captured s is.blk (s.member is.blk i) x 58 (queueReads x) []))) ∧
  (∀ x l s enq, let S := (s.grid (s.block l.b).grid).queues
    let off := windowOffset x l
    (S[x.b % 8]? = none → queuePlace x l s enq = .error (fltOf .queueRange 0)) ∧
    ∀ Q, S[x.b % 8]? = some Q → (stageOf s l.b ≠ (if enq then Q.prod else Q.cons) → queuePlace x l s enq = .error (fltOf .queueRange 0)) ∧
      (stageOf s l.b = (if enq then Q.prod else Q.cons) → 0 ≤ off → off % 16 = 0 → off + Q.esize ≤ spadSizeOf s l.b →
        queuePlace x l s enq = .ok (Q, off.toNat))) ∧
  (∀ s g, let G := s.grid g
    let runs := G.stages ≠ [] ∧ G.complete = false ∧ G.status = none
    let bs := gridBlocks s g
    let spent := (∀ Q ∈ G.queues, Q.published = []) ∧ (∀ S ∈ G.stages, S.inq = 0xFF → S.want = 0) ∧ ∀ b ∈ bs,
      (waitsEmpty s b).isSome = true ∧ match (s.block b).state with | .running | .saved _ _ _ => True | _ => False
    (runs ∧ G.reviewed + 10000 ≤ s.reft.toNat → exec (.stageReview g) s =
      .next ((List.range G.stages.length).foldl (reviewStage g) (s.setGrid g { G with reviewed := s.reft.toNat }))) ∧
    (¬ (runs ∧ G.reviewed + 10000 ≤ s.reft.toNat) → exec (.stageReview g) s = .next s) ∧
    (runs ∧ spent → let u := bs.foldl exitBlock s
      exec (.pipelineQuiesce g) s = .next (u.setGrid g { u.grid g with stages := (u.grid g).stages.map (fun S => { S with want := 0 }) })) ∧
    (¬ (runs ∧ spent) → exec (.pipelineQuiesce g) s = .next s)) ∧
  (∀ s g k S Q, (s.grid g).stages[k]? = some S → (s.grid g).queues[S.inq]? = some Q →
    let G := s.grid g
    let bs := stageBlocks s g k
    let n := bs.length + S.want
    let grows := (n = 0 ∧ Q.published ≠ [] ∨ 2 ^ Q.logN ≤ 2 * Q.published.length ∧ ∀ P ∈ G.queues, P.prod = k → P.room = true) ∧
      n < S.maxB ∧ limitsSome s G.region (G.need k).slots = true
    let noted := fun want => s.setGrid g { G with stages := G.stages.zipIdx.map (fun sk =>
      if sk.2 = k then { S with want := want, idle := bs.flatMap (fun b => (waitsEmpty s b).getD []) } else sk.1) }
    let idle := fun b => b ∈ bs ∧ ∃ ms, waitsEmpty s b = some ms ∧ ∀ m ∈ ms, m ∈ S.idle
    (bs.length ≤ S.minB ∨ (∀ b, ¬ idle b) → (grows → reviewStage g s k = noted (S.want + 1)) ∧ (¬ grows → reviewStage g s k = noted S.want)) ∧
    (S.minB < bs.length → (∃ b, idle b) → ∃ b, idle b ∧ (∀ c, idle c → (s.block c).blk ≤ (s.block b).blk) ∧
      (grows → reviewStage g s k = exitBlock (noted (S.want + 1)) b) ∧ (¬ grows → reviewStage g s k = exitBlock (noted S.want) b))) ∧
  ∀ s g, let G := s.grid g
    let ends := G.complete = false ∧ gridDrained s g = true ∧ gridBusy s g = false
    (¬ ends → exec (.gridComplete g) s = .next s) ∧ (ends → exec (.gridComplete g) s = .next (completeGrid s g)) ∧
    (G.ckind < 4 → G.queue = [] → G.argArea = none →
      let st := if G.lostBlock = true ∧ G.status = none then some 6 else G.status
      let u := { s with choice := s.choice + 1, reqs := [] }.setGrid g { G with status := st, complete := true, argArea := none }
      let code := st.getD 0
      completeGrid s g = freeHandles ((signalWrite u G.region ((Config.freeValue s.choice).toNat % 4) G.ckind G.caddr.toNat
        (if code = 0 then G.cvalue.toNat else 2 ^ 63 + code) code G.exited).setGrid g
          { (signalWrite u G.region ((Config.freeValue s.choice).toNat % 4) G.ckind G.caddr.toNat
            (if code = 0 then G.cvalue.toNat else 2 ^ 63 + code) code G.exited).grid g with queue := [] }))

/-- 00 R3; 02 R31, R34, R37, R41; 10 R186; 15 R263, R264, R278 to R280; 19 R341: time and the issue of entries. Core cycles that pass on a
clocked die count in its CYC, in the age of every entry of its cores, in the idle time of those with no ready thread, and in the stall
spacing and spin hints of the threads that run on it. A cycle of a clocked quarter, a later one than its last, issues, of the entries with a
ready thread, the one that the selection rule puts first, with every ready thread in it; a cause held in one of them is raised instead, and a
block whose log has no room begins its next course. A block's threads enter the tables lowest slot first: into an entry of their block at
their PC that holds no thread of their lane, else into a new one, and where none is free, or others wait before them, into the pending list.
An entry idle for 512 cycles is freed and its threads wait for another; a variable-latency result reaches its register; a code line arrives; an L1 line leaves after
4 µs; clock steps relock for 800 ns; parts enter the deepest state that the tolerance allows and leave it for work or for a smaller tolerance. An instruction is interlocked while a
register it names awaits a result or belongs to an operation in flight, GETC and SETC while any result is outstanding, and a release while an
RST of its thread is unacknowledged, and an instruction that makes replay entries while 256 are live. The registers of one result reach the
thread together. The model's choices here: the time that passes with a cycle is free (logs 2, 26), what a full log does at an issue (log 13),
two entries of equal rank and PC go in table order (log 71), a frequency step that entering or leaving a power state makes without a relock
(log 78), what else awaits an RST (log 101), and counts that stand while a block does not run (log 108). -/
def Obligations.Scheduling : Prop :=
  (∀ (s : State) (d n : Nat), let t := tickAll s d n
    let w := s.blocks.map (fun kv => (kv.1, if coreDie kv.2.core = d then kv.2.ticked n else kv.2))
    let v : State := { tickDie s d n with blocks := w }
    ((s.die d).clocked = false ∨ n = 0 → t = s) ∧
    ((s.die d).clocked = true → n ≠ 0 → (t.die d).cyc = (s.die d).cyc + BitVec.ofNat 64 n ∧ (∀ k, k ≠ d → t.die k = s.die k) ∧
      t.reft = s.reft ∧ t.mem = s.mem ∧
      (∀ b i, let m := s.member b i
        t.member b i = if coreDie (s.block b).core = d ∧ (s.block b).state = .running then { m with space := m.space - n, spin := m.spin - n }
          else m) ∧
      (∀ c, coreDie c = d → t.core c = { tickMat v c n with tables := (s.core c).tables.map (fun kv => (kv.1, kv.2.map (fun e => { e with
        age := e.age + n, idle := if readyOf v e = [] then e.idle + n else 0 }))) }) ∧
      ∀ c, coreDie c ≠ d → t.core c = s.core c)) ∧
  (∀ (s : State) (d least : Nat), let v := Config.freeValue s.choice
    let t := elapse s d least
    t.reft = s.reft + BitVec.ofNat 64 (v.toNat / 2 ^ 32) ∧ t.choice = s.choice + 1 ∧ t.mem = s.mem ∧
    t.agenda = s.agenda ++ dueTasks { t with agenda := s.agenda } ∧
    ∀ k, k < 4 → (t.die k).cyc = (if (s.die k).clocked then
      (s.die k).cyc + BitVec.ofNat 64 (v.toNat / 2 ^ (8 * k) % 2 ^ 8 + (if k = d then least else 0)) else (s.die k).cyc)) ∧
  (∀ (s : State) (c q : Nat), let now := (s.die (coreDie c)).cyc
    let v := retryFrames (elapse s (coreDie c) (if (s.core c).issued.lookup q = some now then 1 else 0))
    let runs := c < 256 ∧ q < 4 ∧ (v.die (coreDie c)).clocked = true ∧ (v.core c).power = 0
    let w := takePending c q (v.setCore c { v.core c with issued := SMap.put (v.core c).issued q (v.die (coreDie c)).cyc })
    let u := { (SMap.get [] (w.core c).tables q).foldl (fun s e => (fetchLine (releaseHeld s e.blk) (s.block e.blk) e.pc).1) w with reqs := [] }
    let table := SMap.get [] (u.core c).tables q
    let ready := readyOf u
    let eligible := fun e => e ∈ table ∧ ready e ≠ []
    let aged := table.any (fun f => ready f != [] && decide (64 < f.age))
    let key := fun e : Entry => if aged then e.age else rankOf u e (ready e) + e.age
    (¬ runs → exec (.issueCycle c q) s = .next v) ∧
    (runs → ((∀ e, ¬ eligible e) → exec (.issueCycle c q) s = .next u) ∧
      ((∃ e, eligible e) → ∃ e, eligible e ∧ (∀ f, eligible f → key f < key e ∨ key f = key e ∧ e.pc ≤ f.pc) ∧
        let t := u.setCore c { u.core c with tables := SMap.put (u.core c).tables q (table.map (fun f => if f = e then { f with age := 0 } else f)) }
        let full := ∃ k, (t.block e.blk).course = some k ∧ (t.block e.blk).state = .running ∧ k.current.log ≠ [] ∧
          logRoom (t.debug (t.block e.blk).region) k.current < k.current.log.length + ((ready e).map (fun i => 12 * (t.member e.blk i).nsib)).sum
        (∀ i, (ready e).find? (fun i => (t.member e.blk i).pendCause ≠ []) = some i → exec (.issueCycle c q) s = .next (raiseHeld t e.blk i)) ∧
        ((∀ i ∈ ready e, (t.member e.blk i).pendCause = []) →
          (full → exec (.issueCycle c q) s = .next (nextCourse t e.blk)) ∧
          (¬ full → exec (.issueCycle c q) s = .next { t with cur := some { blk := e.blk, mems := ready e, words := none } }))))) ∧
  (∀ s e i, let m := State.member s e.blk i
    i ∈ readyOf s e ↔ i ∈ e.mems ∧ m.space = 0 ∧ m.hold = false ∧
      ∀ ins, peekAt s (s.block e.blk) e.pc = some ins → interlocked s e.blk i ins = false) ∧
  (∀ s b, ∃ placed : List (Nat × Member), (∀ kv, kv ∈ placed ↔ kv ∈ (State.block s b).members ∧ tabled (s.block b) kv.2 = true ∧ kv.2.slot < 12) ∧
    placed.Pairwise (fun p q => p.2.slot ≤ q.2.slot) ∧
    seatBlock s b = traceJoins ((placed.map Prod.fst).foldl (fun s i => enterTable s b i) s) b (placed.map Prod.fst)) ∧
  (∀ s b i, let B := State.block s b
    let m := B.member i
    let C := s.core B.core
    let t := SMap.get [] C.tables m.quarter
    let waits := SMap.get [] C.pending m.quarter
    let takes := fun e : Entry => e.blk = b ∧ e.pc = m.pc ∧ ∀ j ∈ e.mems, (s.member b j).laneMask &&& m.laneMask = 0
    let seats := fun t' => s.setCore B.core { C with tables := SMap.put C.tables m.quarter t' }
    (∀ before e after, t = before ++ e :: after → (∀ f ∈ before, ¬ takes f) → takes e →
      enterTable s b i = seats (before ++ { e with mems := laneInsert s b i e.mems } :: after)) ∧
    ((∀ e ∈ t, ¬ takes e) → t.length < 64 → waits = [] →
      enterTable s b i = seats (t ++ [{ blk := b, pc := m.pc, mems := [i], age := 0, idle := 0 }])) ∧
    ((∀ e ∈ t, ¬ takes e) → ¬ (t.length < 64 ∧ waits = []) →
      enterTable s b i = s.setCore B.core { C with pending := SMap.put C.pending m.quarter (waits ++ [(b, i)]) })) ∧
  (∀ s b i ins, let m := State.member s b i
    interlocked s b i ins = true ↔
      (∃ n ∈ namedRegs ins ++ walkNamed m ins, abusyRegs s b n = true ∨ ∃ r ∈ m.sibs, r.infl.lookup n ≠ none) ∨
      ((∃ x, ins = .getc x ∨ ins = .setc x) ∧ ∃ r ∈ m.sibs, r.infl ≠ []) ∨ storesAwaited s b i ins = true ∨
      (replayClass ins = true ∧ 256 ≤ (replaySeqs (s.block b)).length)) ∧
  (∀ s c q n, let C := s.core c
    let t := SMap.get [] C.tables q
    (∀ e, t[n]? = some e → 512 ≤ e.idle → exec (.entryIdleTimeout c q n) s = .next (s.setCore c { C with
      tables := SMap.put C.tables q (t.eraseIdx n), pending := SMap.put C.pending q (SMap.get [] C.pending q ++ e.mems.map (fun i => (e.blk, i))) })) ∧
    ((∀ e, t[n]? = some e → e.idle < 512) → exec (.entryIdleTimeout c q n) s = .next s)) ∧
  (∀ s b i k n, let m := State.member s b i
    let r := m.sibs.getD k Regs.zero
    (∀ v, k < m.sibs.length → r.infl.lookup n = some v →
      exec (.variableLatencyComplete b i k n) s = .next (s.setMember b i { m with sibs := m.sibs.set k (r.complete n) })) ∧
    ((∀ r ∈ m.sibs, r.infl.lookup n = none) → exec (.variableLatencyComplete b i k n) s = .next s)) ∧
  (∀ (r : Regs) (n : Nat), let g := (r.grp.find? (fun g => g.contains n)).getD [n]
    let t := r.complete n
    (∀ j v, j ∈ g → r.infl.lookup j = some v → t.infl.lookup j = none ∧ (j < 128 → SMap.get 0 t.v j = v) ∧
      (128 ≤ j → SMap.get false t.p (j - 128) = (v != 0))) ∧
    (∀ j, j ∉ g → t.infl.lookup j = r.infl.lookup j ∧ SMap.get 0 t.v j = SMap.get 0 r.v j)) ∧
  (∀ s b va, exec (.icacheFill b va) s =
    .next (if (s.block b).state = .running then { (fillLine s (s.block b) (va - va % 64)).1 with reqs := [] } else s)) ∧
  (∀ s c line, ∃ t, exec (.l1LineExpiry c line) s = .next t ∧ t.mem = s.mem ∧
    ∀ l, l ∈ (t.core c).l1 ↔ l ∈ (s.core c).l1 ∧ ¬ (l.line = line ∧ l.filled + 4000 ≤ s.reft.toNat)) ∧
  (∀ s d n, exec (.frequencyStepChange d n) s = .next (if d < 4 ∧ n < 5 ∧ (s.die d).relock = none then
    s.setDie d { s.die d with step := n, relock := some s.reft.toNat } else s)) ∧
  (∀ s d, (∀ t, (s.die d).relock = some t → t + 800 ≤ s.reft.toNat → exec (.relockDone d) s = .next (s.setDie d { s.die d with relock := none })) ∧
    ((∀ t, (s.die d).relock = some t → s.reft.toNat < t + 800) → exec (.relockDone d) s = .next s)) ∧
  (∀ s n c, let tol := activeTol s
    exec (.powerStateEnter (.core c) n) s = .next (if coreLive s c = true ∧ 50 ≤ tol ∧ n = (if 2000 ≤ tol then 2 else 1) ∧ coreQuiet s c = true ∧
      (s.core c).power ≠ n then s.setCore c { s.core c with power := n } else s) ∧
    exec (.powerStateEnter (.die c) n) s = .next (if c < 4 ∧ (s.die c).fencedFull = false ∧ 20000 ≤ tol ∧
      n = (if 400000 ≤ tol then 4 else 3) ∧ dieQuiet s c = true ∧ (s.die c).power ≠ n
      then s.setDie c { s.die c with power := n, step := 4 } else s) ∧
    let deep := n = 5 ∧ 5000000 ≤ tol ∧ ∀ d, d < 4 → (s.die d).power = 4
    (deep → exec (.powerStateEnter .package n) s = .next { s with packagePower := 5 }) ∧
    (¬ deep → exec (.powerStateEnter .package n) s = .next s)) ∧
  ∀ s : State, (workWaits s = true ↔ (∃ kv ∈ s.grids, ∃ k, k < max 1 kv.2.stages.length ∧ kv.2.owes k = true) ∨
      ∃ kv ∈ s.blocks, runnable s kv.1 = true) ∧
    (let leaves := fun n : Nat => workWaits s = true ∨ activeTol s < exitLatency n
     exitLatency 0 = 0 ∧ exitLatency 1 = 50 ∧ exitLatency 2 = 2000 ∧ exitLatency 3 = 20000 ∧ exitLatency 4 = 400000 ∧ exitLatency 5 = 5000000 ∧
     (leaves s.packagePower → exec (.powerStateExit .package) s = .next { s with packagePower := 0 }) ∧
     (¬ leaves s.packagePower → exec (.powerStateExit .package) s = .next s) ∧
     ∀ c, (leaves (s.core c).power ∧ coreLive s c = true → exec (.powerStateExit (.core c)) s = .next (s.setCore c { s.core c with power := 0 })) ∧
        (¬ (leaves (s.core c).power ∧ coreLive s c = true) → exec (.powerStateExit (.core c)) s = .next s) ∧
        let out := leaves (s.die c).power ∧ s.packagePower = 0 ∧ (s.die c).fencedFull = false
        (out → exec (.powerStateExit (.die c)) s = .next (s.setDie c { s.die c with power := 0 })) ∧
        (¬ out → exec (.powerStateExit (.die c)) s = .next s))

/-- 15 R253, R256, R257, R259, R260, R266 to R270, R276, R277; 19 R357 to R359: where blocks stand. A block is created where its grid owes one
and it fits, with registers, B31 and uniform registers as R260 says; its slice ends; it is saved when evicted or taken by force; it is
restored or moved only onto its own lanes and slots of a core, and is lost where its save area cannot be read or fails its check. The blocks
of a GANG grid take their places together. A block that is evictable by the end of its grace is evicted plainly. A region of a level has the
turn when no rival would have credit in fewer rounds, and a block's slice is charged to it as it takes its place. The model's choices here:
zero registers and predicates of a new thread (log 6), the layout of a save area (log 12) and of its arrival records (log 64), the L1 emptied
at creation (log 37), which place among those that fit is free (logs 88, 89), a level waits while a higher one does (log 55), turns of a level
follow credits (log 54), grace runs from the call (log 70), an area that cannot be taken means no eviction (log 74), a restore stays on a die
with a free core (log 75), a forwarding entry waits for every packet in flight (log 76), and an ECC error of memory is free (log 99). -/
def Obligations.BlockPlaces : Prop :=
  (∀ s g k c spad ps, let G := State.grid s g
    let n := G.need k
    let fits := G.owes k = true ∧ coreTakes s c = true ∧ placeOk s c spad n ps = true ∧ limitsOk s G.region c n.slots = true ∧
      waiting s c (prioOf s G.region + 1) = false ∧ hasTurn s c G.region = true
    let got := readRange (takeTurn { s with reqs := [] } c G.region) (keystoneOf ((G.argArea.map Prod.fst).getD G.region) (coreDie c))
      G.args (min G.argLen 256)
    (¬ fits → exec (.blockCreate g k c spad ps) s = .next s) ∧
    (fits → G.gang = false → ∀ u f, got = (u, .error f) → exec (.blockCreate g k c spad ps) s =
      .next (recordFault (endGrid u g 6) G.region f.cause.code false (G.nextOf k) f.addr)) ∧
    (fits → ∀ u args, got = (u, .ok args) → G.gang = false → (s.region G.region).descr = none → let b := s.nextBlock
      ∃ t, exec (.blockCreate g k c spad ps) s = .next t ∧ t.nextBlock = b + 1 ∧ t.mem = s.mem ∧ t.grid g = G.made k ∧
        t.block b = newBlock s g k (G.nextOf k) c spad ps args ∧ (∀ a, a ≠ b → t.block a = s.block a) ∧ (t.core c).l1 = [] ∧
        SMap.get 0 t.turns G.region = SMap.get 0 (takeTurn s c G.region).turns G.region - 1000 * max 1 (s.region G.region).effSlice) ∧
    (fits → G.gang = true → let p : Planned := { saved := none, stage := k, core := c, spad := spad, places := ps }
      let plan := G.plan ++ [p]
      let t := { s with reqs := [] }.setGrid g { G with plan := [] }
      (planFull { s with reqs := [] } g plan = true → exec (.blockCreate g k c spad ps) s =
        .next (match plan.foldl (planStep g) (some t) with | some u => gangStart u g | none => t)) ∧
      (planFull { s with reqs := [] } g plan = false → (plan.filter (fun q => q.saved.isNone && q.stage == k)).length ≤ G.owed k →
        exec (.blockCreate g k c spad ps) s = .next ({ s with reqs := [] }.setGrid g { G with plan := plan })))) ∧
  (∀ s c r, (hasTurn s c r = true ↔ ∀ k ∈ rivals s c r, ∀ n : Nat, 0 < creditOf s k + (n * max 1 (s.eff 1 k).weight : Nat) →
      0 < creditOf s r + (n * max 1 (s.eff 1 r).weight : Nat)) ∧
    (∀ k, k ∈ rivals s c r ↔ k = r ∨ k ≠ r ∧ ∃ R, (k, R) ∈ s.regions ∧ R.live = true ∧ prioOf s k = prioOf s r ∧ backlogged s c k = true) ∧
    ((∀ kv ∈ s.blocks, kv.2.region = r → kv.2.resident = true → kv.2.handler = none → s.reft.toNat ≤ kv.2.placed + kv.2.paid) →
      creditOf s r = SMap.get 0 s.turns r) ∧
    ∀ b, let B := s.block b
      B.resident = true → B.handler = none → chargeCore s b =
        { s with turns := SMap.set 0 s.turns B.region (SMap.get 0 s.turns B.region + B.paid - ((s.reft.toNat : Int) - B.placed)) }) ∧
  (∀ s g plan, planFull s g plan = true ↔ (∀ k, k < max 1 (State.grid s g).stages.length →
      (plan.filter (fun p => p.saved.isNone && p.stage == k)).length = (State.grid s g).owed k) ∧
    ∀ b ∈ gridBlocks s g, (∃ o area f, (s.block b).state = .saved o area f) → ∃ p ∈ plan, p.saved = some b) ∧
  (∀ s g k n c spad ps args, let B := newBlock s g k n c spad ps args
    let G := State.grid s g
    B.blk = n ∧ B.core = c ∧ B.spad = [] ∧ B.paid = 1000 * max 1 (s.region G.region).effSlice ∧ B.spadSize = 4096 * (G.need k).spad ∧
    (∀ i, i < 64 → SMap.get 0 B.k i = BitVec.ofNat 32 (fieldAt args (4 * i) 4)) ∧ B.buffer 31 = mkRecord G.args 0 G.argLen 1 0 0 0 0 0 0 ∧
    ∀ i p, ps[i]? = some p → let m := B.member i
      m.live = true ∧ m.pc = (match G.stages[k]? with | some S => S.code | none => G.code) ∧ m.icount = 0 ∧ m.lane = p.lane ∧ m.slot = p.slot ∧
      m.sibs.length = (if G.triad then 3 else 1) ∧
      ∀ r ∈ m.sibs, (∀ j, r.lane j = 0 ∧ r.pred j = (j % 8 == 7) ∧ r.ls = []) ∧
        r.ctl64 4 = G.seed ∧ r.ctl64 8 = G.seed ^^^ 0x9E37_79B9_7F4A_7C15) ∧
  (∀ s b, let B := State.block s b
    (B.resident = false ∨ B.handler ≠ none → exec (.sliceEnd b) s = .next s) ∧
    (B.resident = true → B.handler = none →
      let past := B.sliceEnded || decide (B.placed + 1000 * (s.region B.region).effSlice ≤ s.reft.toNat) ||
        holdsFor s b (prioOf s B.region + 1)
      let u := s.setBlock b { B with sliceEnded := past }
      exec (.sliceEnd b) s = .next (u.setBlock b { B with
        sliceEnded := past
        called := if past && holdsFor u b (prioOf u B.region) then some (B.called.getD s.reft.toNat) else none }))) ∧
  (∀ s b, let B := State.block s b
    let forced := (∃ t, B.called = some t ∧ t + 1000 * (s.eff 4 B.region).grace ≤ s.reft.toNat) ∧ calledFor s b = true ∨ B.state = .stopping
    (calledFor s b = true ∧ (∀ k ∈ withGang s b, evictable s k = true) ∧ b ∈ withGang s b →
      exec (.blockEvict b) s = .next ((saveAll { s with reqs := [] } false (withGang s b)).getD s)) ∧
    (¬ (calledFor s b = true ∧ (∀ k ∈ withGang s b, evictable s k = true) ∧ b ∈ withGang s b) → exec (.blockEvict b) s = .next s) ∧
    (forced ∧ (∀ k ∈ withGang s b, stoppable (s.block k) = true) ∧ b ∈ withGang s b → let u := { s with reqs := [] }
      let bs := withGang s b
      let plain := ∀ k ∈ bs, evictable s k = true
      (plain → exec (.graceExpiry b) s = .next ((saveAll u false bs).getD s)) ∧
      (¬ plain → (∀ k ∈ bs, savable u k = true) → exec (.graceExpiry b) s =
        .next (match saveAll u true bs with | some t => t | none => bs.foldl runOn u)) ∧
      (¬ plain → (∃ k ∈ bs, savable u k = false) → exec (.graceExpiry b) s = .next (bs.foldl stopForSave u))) ∧
    (¬ (forced ∧ (∀ k ∈ withGang s b, stoppable (s.block k) = true) ∧ b ∈ withGang s b) → exec (.graceExpiry b) s = .next s) ∧
    ∀ forced t, saveOne s b forced = some t → ∃ o area, (t.block b).state = .saved o area forced ∧ (t.block b).sliceEnded = false ∧
      (t.block b).called = none ∧ (t.block b).resident = false ∧ ∀ a, a ≠ b → t.block a = s.block a) ∧
  (∀ s b c spad ps o area f, (State.block s b).state = .saved o area f → let B := s.block b
    let home := coreDie c = coreDie B.core ∨ freeCore s (coreDie B.core) = false
    let peers := s.blocks.filter (fun kv => kv.2.core == B.core && kv.2.region == B.region && runnable s kv.1)
    let moves := c ≠ B.core ∧ (coreLive s B.core = false ∨ 2 ≤ peers.length)
    let go := restoreTo { s with reqs := [] } b c spad ps o area
    (mayRestore s b c spad ps = true ∧ home → exec (.blockRestore b c spad ps) s = .next go) ∧
    (¬ (mayRestore s b c spad ps = true ∧ home) → exec (.blockRestore b c spad ps) s = .next s) ∧
    (mayRestore s b c spad ps = true ∧ moves → exec (.streamerMove b c spad ps) s = .next go) ∧
    (¬ (mayRestore s b c spad ps = true ∧ moves) → exec (.streamerMove b c spad ps) s = .next s)) ∧
  (∀ s b c spad ps, (∀ o area f, (State.block s b).state ≠ .saved o area f) →
    exec (.blockRestore b c spad ps) s = .next s ∧ exec (.streamerMove b c spad ps) s = .next s) ∧
  (∀ s b c spad ps, mayRestore s b c spad ps = true → let B := State.block s b
    ps = B.members.map (fun kv => { lane := kv.2.lane, slot := kv.2.slot }) ∧ coreTakes s c = true ∧ placeOk s c spad B.need ps = true ∧
    limitsOk s B.region c B.nthread = true ∧ waiting s c (prioOf s B.region + 1) = false) ∧
  (∀ s b c spad ps o area u, let B := State.block s b
    let n := saveLen B + imageLen B
    let got := readRange { s with choice := s.choice + 1 } (keystoneOf o (coreDie c)) area (n + 8 + B.arrLen)
    ((s.grid B.grid).gang = false → restoreTo s b c spad ps o area = restoreAt s b c spad o area) ∧
    (∀ f, got = (u, .error f) → restoreAt s b c spad o area = loseBlock u b area) ∧
    ∀ all, got = (u, .ok all) → restoreAt s b c spad o area =
      if Config.eccError s.choice || (all.drop n).take 8 != areaTag u (all.take n) then loseBlock u b area
      else match arrivalsOf u B.arrLen (all.drop (n + 8)) with
        | some late => putBack u b c spad o area (all.take n) late
        | none => loseBlock u b area) ∧
  (∀ s b area, let B := State.block s b
    let t := loseBlock s b area
    (t.block b).state = .lost ∧ (t.region B.region).lostCnt = min ((s.region B.region).lostCnt + 1) 0xFFFF ∧
    (t.region B.region).faultCode = 0x21 + B.blk % 2 ^ 23 * 512 ∧ (t.region B.region).faultAddr = area ∧ (t.grid B.grid).lostBlock = true) ∧
  ∀ s c n, let C := State.core s c
    let quiet := ∀ kv ∈ s.recvs, kv.2.delivered = [] ∧ kv.2.held = []
    (∀ f, C.fwd[n]? = some f → f.since + 100000 ≤ s.reft.toNat ∧ quiet →
      exec (.forwardingEntryExpiry c n) s = .next (s.setCore c { C with fwd := C.fwd.eraseIdx n })) ∧
    ((∀ f, C.fwd[n]? = some f → ¬ (f.since + 100000 ≤ s.reft.toNat ∧ quiet)) → exec (.forwardingEntryExpiry c n) s = .next s)

/-- 16 R292 to R294; 11 R215; 19 R345: remote accesses. RLD, RST and RATOM check device and alignment and send their request when the stream
has room; RST then retires, RLD and RATOM wait for the reply and retire with its value. A request is performed at its target and answered;
a reply reaches its lane and takes the issue up again when every lane has its own, and a faulty one raises REMOTE_FAULT. For a stopped or a
saved block it is written into RESULT and DONEMASK of the replay entry. A store is acknowledged from when it has been performed, and one that
failed raises REMOTE_STORE at its issuer's next boundary, in the lowest live member, or in its grid. A lane that fails
its local check traps precisely, with the lanes whose requests are sent among those of the done mask. The model's choices here: what a
delivered flit says is free (log 5), a request to the own module goes under the thread's own master and takes effect as it is sent
(logs 60, 102), the device number is checked before the alignment (log 61), REMOTE_STORE of an acknowledged RST is a pending cause (log 62), the arrival
record of a reply to a saved block (log 64), and a cause that comes while the block is stopped waits for its return (log 119). -/
def Obligations.RemoteAccesses : Prop :=
  let row := fun (kind : Nat) (ins : Instr) (x : Ext) => ∀ s is i, Single true x (readRegs (remoteReads x kind)) s is i →
    let l := memIn s is i x (remoteReads x kind)
    let dev := medianBy unsignedV (l.src 1)
    let addr := remoteAddr x l
    let sent := sendRequest (started s) l x 59 kind dev addr
    let traps := fun f => exec ins s = .next (trapped s (keptAt s (started s) is i x 59 (remoteReads x kind)) is i x 59 f)
    (dev < 4095 → addr % tyBytes x.ty = 0 → streamRoom s dev tcRequest 1 = true →
      if kind = 1 then ∃ t, exec ins s = .next t ∧ Completes x (storeEffect sent.1 is.blk x.ord x.scope) t is.blk i (fun _ => [])
      else ∃ t, exec ins s = .next t ∧ Waits sent.1 t is.blk i (.remote (kind == 0) [sent.2])
        (captured s is.blk (s.member is.blk i) x 59 (remoteReads x kind) [sent.2])) ∧
    (dev < 4095 → addr % tyBytes x.ty = 0 → streamRoom s dev tcRequest 1 = false →
      exec ins s = .next (reseat (started s) is.blk [i])) ∧
    (4095 ≤ dev → traps (fltOf .addrRange addr)) ∧
    (dev < 4095 → addr % tyBytes x.ty ≠ 0 → traps (fltOf .misalignedAddr addr))
  let answered := fun (ins : Instr) (x : Ext) => ∀ s is i c vs, let m := State.member s is.blk i
    s.cur = some is → is.mems = [i] → m.cap = some c → c.result = some vs → c.nextPc = nextPc m.pc x.len →
    c.icount = m.icount → m.live = true → m.step = false → (∀ k, k < 4 → niAction m k = 0) →
    (s.block is.blk).dbg = false → (s.block is.blk).course = none →
    ∃ t, exec ins s = .next t ∧ Completes x (started (acquireEffect s is.blk i x.ord x.scope)) t is.blk i
      (fun p => [outTy x.ty.wide x.d (loadExtend x.ty (vs.getD p 0).toNat)])
  Rows .rld .rldBase 59 (fun ins x => row 0 ins x ∧ answered ins x) ∧ (∀ x, row 1 (.rst x) x) ∧
  (∀ x, row 2 (.ratom x) x ∧ answered (.ratom x) x) ∧
  (∀ x s is i c a code, let m := State.member s is.blk i
    s.cur = some is → is.mems = [i] → m.cap = some c → c.result = none → c.faultReply = some (a, code) →
    (s.block is.blk).dbg = false → (s.block is.blk).course = none →
    let m' := { m with cap := some { c with faultReply := none, requests := [] } }
    let u := ((started s).setMember is.blk i m').setMember is.blk i { m' with wait := claimed m.wait }
    let f : Flt := { cause := .remoteFault, fcode := code, addr := a }
    exec (.rld x) s = .next (trapped s u is i x 59 f) ∧ exec (.ratom x) s = .next (trapped s u is i x 59 f)) ∧
  (∀ (r : MemAcc) x major ops logged dest b mems i f fs, r.faults = (i, f) :: fs →
    let done := r.done.map Prod.fst ++ r.waits.filterMap (fun w => match w.2 with | .remote _ _ => some w.1 | _ => none)
    ∃ u B, r.finish x major ops logged dest b mems = takeTrap u b (groupTrap B x major done (r.faults.map Prod.fst) i f)) ∧
  (∀ B x major done faulted i f, let t := groupTrap B x major done faulted i f
    t.done = groupMask B done ∧ t.lanes = groupMask B (done ++ faulted) ∧ t.cause = f.cause ∧ t.fcode = f.fcode ∧ t.addr = f.addr) ∧
  (∀ (s : State) (l : MemIn) (x : Ext) (kind dev addr : Nat), dev ≠ s.dev → (s.block l.b).dbg = false →
    let r := sendRequest s l x 59 kind dev addr
    r.2 = s.nextReq ∧ r.1.nextReq = s.nextReq + 1 ∧ r.1.mem = s.mem ∧ r.1.blocks = s.blocks ∧ ∃ o, r.1.outs = s.outs ++ [o] ∧
      o.id = s.nextReq ∧ o.dst = dev ∧ o.blk = l.b ∧ o.mem = l.i ∧ o.op = kind ∧ o.addr = addr ∧ o.answered = false) ∧
  (∀ (s : State) (l : MemIn) (x : Ext) (kind dev addr : Nat), dev = s.dev →
    let B := s.block l.b
    let vals := fun k => (l.src k).map (BitVec.ofNat 64)
    let r : Remote :=
      { id := s.nextReq, op := if kind = 2 then 2 + x.mod else kind, ty := x.ty, region := B.region, addr := addr
        data := vals (if kind = 1 then 3 else 2), cmp := vals 3, triad := l.m.nsib == 3
        digest := (l.m.first.ctl64 6).toNat % 2 ^ 57, port := 0xFF }
    let R := s.recvOf dev tcRequest
    ∀ u res, performRemote ({ s with nextReq := s.nextReq + 1 }.setRecv dev tcRequest { R with expected := (R.expected + 1) % 2 ^ 32 }) dev
        (some B.core) r = (u, res) →
      let t := sendRequest s l x 59 kind dev addr
      t.2 = s.nextReq ∧ (∀ vs, kind = 1 → res = .ok vs → t.1 = u) ∧
      (kind ≠ 1 ∨ (∃ f, res = .error f) → ∃ o, t.1 = answerSelf { u with outs := u.outs ++ [o] } r res ∧ o.id = s.nextReq ∧ o.dst = dev ∧
        o.blk = l.b ∧ o.mem = l.i ∧ o.op = kind ∧ o.addr = addr ∧ o.answered = false)) ∧
  (∀ s src, ((∀ n r t, takeDelivered s src tcRequest ≠ some (n, .request r, t)) ∨ streamRoom s src tcReply 1 = false →
      exec (.remoteRequestReceive src) s = .next s) ∧
    ∀ n r t u, takeDelivered s src tcRequest = some (n, .request r, t) → streamRoom s src tcReply 1 = true →
      (∀ vs, performRemote { t with reqs := [] } src none r = (u, .ok vs) →
        (r.op ≠ 1 → exec (.remoteRequestReceive src) s =
          .next (sendReply u src tcRequest n (.reply r.id (vs.map (BitVec.ofNat 64)) none))) ∧
        (r.op = 1 → exec (.remoteRequestReceive src) s = .next (storeDone u src n))) ∧
      ∀ f, performRemote { t with reqs := [] } src none r = (u, .error f) → let p : Packet := .reply r.id [] (some (f.addr, remoteCode f))
        exec (.remoteRequestReceive src) s = .next (if r.op = 1 then sendPacket (storeDone u src n) src tcReply fkReply 0 p else sendReply u src tcRequest n p)) ∧
  (∀ s src n, let R := State.recvOf s src tcRequest
    storeDone s src n = if n < 2 ^ 32 then s.setRecv src tcRequest { R with
      ackDue := true, ackSince := if R.ackDue = true then R.ackSince else s.reft.toNat } else s) ∧
  (∀ f : Flt, (f.cause = .translationFault ∨ f.cause = .accessFault → remoteCode f = f.fcode) ∧ (f.cause = .addrRange → remoteCode f = 0x107) ∧
    (f.cause = .syncSpace → remoteCode f = 0x108) ∧ (f.cause = .misalignedAddr → remoteCode f = 0x109) ∧
    (f.cause = .atomPlace → remoteCode f = 0x10C)) ∧
  (∀ s src core (r : Remote) u p, p.rep = 0 → r.triad = false → let n := tyBytes r.ty
    let w := remoteWho s src core r.region
    let old := leNat (Memory.read u.mem p.key n)
    let v := (r.data.headD 0).toNat
    (r.op = 0 → remoteReach s w r r.addr n .read = (u, .ok p) → (performRemote s src core r).2 = .ok [old] ∧
      (performRemote s src core r).1.mem = u.mem) ∧
    (r.op = 1 → remoteReach s w r r.addr n .write = (u, .ok p) → (performRemote s src core r).2 = .ok [] ∧
      (performRemote s src core r).1.mem = Memory.write u.mem p.key (leBytes n v)) ∧
    (2 ≤ r.op → remoteReach s w r r.addr n .atomic = (u, .ok p) → (performRemote s src core r).2 = .ok [old] ∧
      (performRemote s src core r).1.mem = Memory.write u.mem p.key (leBytes n (atomNew (r.op - 2) r.ty old v (r.cmp.headD 0).toNat)))) ∧
  (∀ s src, ((∀ n id vs f t, takeDelivered s src tcReply ≠ some (n, .reply id vs f, t)) → exec (.remoteReplyReceive src) s = .next s) ∧
    ∀ n id vs f t, takeDelivered s src tcReply = some (n, .reply id vs f, t) → src = s.dev →
      (∀ o, s.outs.find? (fun o => o.id == id && !o.answered) = some o →
        let v := completeOut t o vs (if o.op = 3 then none else f)
        v.host = s.host → exec (.remoteReplyReceive src) s = .next (freeHandles v)) ∧
      (s.outs.find? (fun o => o.id == id && !o.answered) = none → exec (.remoteReplyReceive src) s = .next (freeHandles t))) ∧
  (∀ s (o : Outstanding) c vs f, let m := State.member s o.blk o.mem
    m.cap = some c → m.live = true → c.requests.contains o.id = true → (s.block o.blk).state = .running →
    let u := s.setMember o.blk o.mem { m with cap := some { c with result := vs, faultReply := f } }
    deliverReply s o vs f = if repliesIn (u.block o.blk) c.seq then wakeGroup u o.blk o.mem else u) ∧
  (∀ s (o : Outstanding) c vs f, let m := State.member s o.blk o.mem
    m.cap = some c → m.live = true → c.requests.contains o.id = true →
    let u := replyToFrame (s.setMember o.blk o.mem { m with cap := some { c with result := vs, faultReply := f } }) o.blk o.mem c vs f
    (∀ n h, (s.block o.blk).state = .handled n h → deliverReply s o vs f = u) ∧
    ∀ r a z, (s.block o.blk).state = .saved r a z → deliverReply s o vs f = arrivalPut u o.blk (.reply o.mem vs f)) ∧
  (∀ s b i c vs f k, let B := State.block s b
    let m := B.member i
    let w := keystoneOf B.region (coreDie B.core)
    let e := 2048 + 2048 * B.nthread + 2368 * k
    (replaySeqs B).idxOf? c.seq = some k →
    (∀ n h hd, B.state = .handled n h → (s.block h).handler = some hd →
      replyToFrame s b i c vs f = replyToEntry s w m (hd.frame + e) vs f) ∧
    ∀ o area z u all, B.state = .saved o area z → let v := keystoneOf o (coreDie B.core)
      let n := saveLen B + imageLen B
      readRange s v area (n + 8) = (u, .ok all) → ∀ t now, readRange (replyToEntry u v m (area + e) vs f) v area n = (t, .ok now) →
      replyToFrame s b i c vs f = if all.drop n = areaTag u (all.take n) then (writeRange t v (area + n) (areaTag t now)).1 else t) ∧
  (∀ s w (m : Member) e, m.nsib = 1 → let place := e + 64 + 48 * (m.lane % 48) + 32
    (∀ v t u old, writeRange s w place (leBytes 8 (BitVec.toNat (w := 64) v) ++ leBytes 8 0) = (t, none) →
      readRange t w (e + 48) 8 = (u, .ok old) →
      replyToEntry s w m e (some [v]) none = (writeRange u w (e + 48) (leBytes 8 (leNat old ||| m.laneMask))).1) ∧
    ∀ addr code, replyToEntry s w m e none (some (addr, code)) =
      (writeRange s w place (leBytes 8 addr ++ leBytes 4 code ++ leBytes 4 (2 ^ 24))).1) ∧
  (∀ s (o : Outstanding) vs addr code, o.op = 1 → let u := { s with outs := s.outs.map (fun p => if p.id = o.id then { p with
      answered := true, result := vs, fault := some (addr, code) } else p) }
    o.sampled = false → completeOut s o vs (some (addr, code)) = remoteStoreFault u o addr code) ∧
  (∀ s (o : Outstanding) addr code, let B := State.block s o.blk
    let held := fun i => let m := B.member i
      holdCause s o.blk i { cause := .remoteStore, fcode := code, addr := addr, pc := o.pc, icount := o.icount, words := o.words, micro := 0xFF
                            tag := 0, quarter := m.quarter, lanes := m.laneMask, done := 0, mems := [i] }
    ((B.member o.mem).live = true → remoteStoreFault s o addr code = held o.mem) ∧
    ((B.member o.mem).live = false → ∀ i, (∃ kv ∈ B.members, kv.1 = i ∧ kv.2.live = true) →
      (∀ kv ∈ B.members, kv.2.live = true → i ≤ kv.1) → remoteStoreFault s o addr code = held i) ∧
    ((∀ kv ∈ B.members, kv.2.live = false) → (s.grid B.grid).complete = false →
      remoteStoreFault s o addr code = recordFault (endGrid s B.grid 6) B.region 0x16 false B.blk addr)) ∧
  ∀ s b i t, let m := State.member s b i
    (m.live = false → holdCause s b i t = s) ∧
    (m.live = true → (s.block b).framed = false → holdCause s b i t = s.setMember b i { m with pendCause := m.pendCause ++ [t] }) ∧
    (m.live = true → (s.block b).framed = true → holdCause s b i t = s.setMember b i { m with late := m.late ++ [t] }) ∧
    ∀ c r, m.pendCause = c :: r → raiseHeld s b i =
      takeTrap (s.setMember b i { m with pendCause := r }) b { c with quarter := m.quarter, lanes := m.laneMask }

/-- 16 R295 to R298: COLL. With room in the die's unit of 16 the instruction retires and its operation stands last with its tag clear. A
collective ends with the status that it was accepted with, with LINK_LOST, with TIMEOUT once that has passed, with PARAM_MISMATCH, or with
the reduction that combines neighbours by rank, level by level, with the finite flag that the tree gives. That a unit reads its source and
group at acceptance and performs the reduction where the result arrives is the model's reading (log 63), and so is that a destination which
cannot be written whole stays unwritten (log 118). -/
def Obligations.Collectives : Prop :=
  let A := fun (x : Ext) => [(false, opA x), noRead, noRead, noRead]
  Rows .coll .collBase 60 (fun ins x => ∀ s is i, Single true x (readRegs (A x)) s is i →
    let B := s.block is.blk
    let q := (s.die (coreDie B.core)).collq
    let off := medianBy unsignedV ((memIn s is i x (A x)).src 0)
    (x.d % 64 < B.tagN → q.length < 16 → ∃ t o, exec ins s = .next t ∧
      Completes x (acceptColl (started s) is.blk i (x.d % 64) off) t is.blk i (fun _ => []) ∧
      (t.die (coreDie B.core)).collq = q ++ [o] ∧ o.blk = is.blk ∧ o.tag = x.d % 64 ∧ o.region = B.region ∧ o.pbOff = off ∧
      o.started = s.reft.toNat ∧ (o.pbOk = true ↔ off % 64 = 0 ∧ off + 64 ≤ B.spadSize) ∧
      (o.pbOk = true → o.pb = storeRead B.spad off 48) ∧ (o.formOk = false → o.bad = 1) ∧ tagSet (t.block is.blk) (x.d % 64) = false) ∧
    (x.d % 64 < B.tagN → 16 ≤ q.length → exec ins s = .next (reseat (started s) is.blk [i])) ∧
    (B.tagN ≤ x.d % 64 → exec ins s = .next (trapped s (keptAt s (started s) is i x 60 (A x)) is i x 60 (fltOf .tagRange 0)))) ∧
  (∀ s d n, (s.die d).collq[n]? = none → (∀ out, exec (.collComplete d n out) s = .next s) ∧ exec (.collTimeout d n) s = .next s) ∧
  (∀ s d n o, (s.die d).collq[n]? = some o → let t := { s with reqs := [] }
    let late := o.timeout ≠ 0 ∧ o.started + 1000 * o.timeout ≤ s.reft.toNat
    (o.bad ≠ 0 → ∀ out, exec (.collComplete d n out) s = .next (collEnd t d o o.bad 0 false)) ∧
    (o.bad = 0 → late → (∀ out, exec (.collComplete d n out) s = .next s) ∧ exec (.collTimeout d n) s = .next (collEnd s d o 3 0 false)) ∧
    (o.bad ≠ 0 ∨ ¬ late → exec (.collTimeout d n) s = .next s) ∧
    (o.bad = 0 → ¬ late →
      ((∃ m ∈ o.neighbours, routeless s m o.started = true) → exec (.collComplete d n .linkLost) s = .next (collEnd t d o 4 0 false)) ∧
      ((∀ m ∈ o.neighbours, routeless s m o.started = false) → exec (.collComplete d n .linkLost) s = .next s) ∧
      ∀ ps, (collParts o ps = none → exec (.collComplete d n (.peers ps)) s = .next t) ∧
        ∀ parts, collParts o ps = some parts → ((∃ p ∈ ps, collMismatch o p = true) →
          exec (.collComplete d n (.peers ps)) s = .next (collEnd t d o 2 0 false)) ∧
          ((∀ p ∈ ps, collMismatch o p = false) →
            let f := collFmt o.fmt
            let vs := parts.map (fun p => match p with | some p => p.elems | none => o.elems)
            let r := collReduce o.op f 12 (vs.map (fun v => (v, v.all (finiteElem f))))
            let bs := r.1.flatMap (fun e => leBytes (collWidth o.fmt) e.toNat)
            let w := { collWho (s.block o.blk) d with region := o.region }
            ∀ u bad, collWrite t o w bs = (u, bad) →
              (bad ≠ none → exec (.collComplete d n (.peers ps)) s = .next (collEnd (sampleEngine { u with mem := s.mem, blocks := s.blocks }
                (u.block o.blk) o.pc) d o 8 0 false)) ∧
              (bad = none → exec (.collComplete d n (.peers ps)) s = .next (collEnd (sampleEngine u (u.block o.blk) o.pc) d o 0
                (r.1.filter (fun e => !finiteElem f e)).length r.2))))) ∧
  (∀ op f (vs : List (List W32 × Bool)) (V : Nat → Nat → List W32 × Bool), vs ≠ [] → vs.length ≤ 2 ^ 12 →
    (∀ r, V 0 r = vs.getD r ([], true)) →
    (∀ l r, V (l + 1) r = if r % 2 ^ (l + 1) = 0 ∧ r + 2 ^ l < vs.length then
      let v := List.zipWith (collCombine op f) (V l r).1 (V l (r + 2 ^ l)).1
      (v, (V l r).2 && (V l (r + 2 ^ l)).2 && v.all (finiteElem f)) else V l r) →
    collReduce op f 12 vs = V 12 0) ∧
  (∀ a b : W32, collCombine 0 none a b = a + b ∧ collCombine 1 none a b = (if a.toInt ≤ b.toInt then b else a) ∧
    collCombine 2 none a b = (if a.toInt ≤ b.toInt then a else b)) ∧
  (∀ f ∈ [Fmt.f32, .bf16, .f16], ∀ a b : W32, let x := fval f a.toNat
    let y := fval f b.toNat
    collCombine 0 (some f) a b = BitVec.ofNat 32 (fadd f ⟨.rne, false⟩ x y).1 ∧
    (x.isNan = true ∨ y.isNan = true → ∀ op, op < 3 → collCombine op (some f) a b = BitVec.ofNat 32 f.nanBits) ∧
    (x.isNan = false → y.isNan = false →
      (fvLt x y = true → collCombine 1 (some f) a b = b ∧ collCombine 2 (some f) a b = a) ∧
      (fvLt y x = true → collCombine 1 (some f) a b = a ∧ collCombine 2 (some f) a b = b) ∧
      (a.toNat = signOf f true → b = 0 → collCombine 1 (some f) a b = b ∧ collCombine 2 (some f) a b = a ∧
        collCombine 1 (some f) b a = b ∧ collCombine 2 (some f) b a = a))) ∧
  ∀ s d (o : CollOp) code nanc fin, (State.block s o.blk).state = .running → o.pbOk = true → let t := collEnd s d o code nanc fin
    let status := collStatus code o.group.tail.length nanc fin
    (t.block o.blk).tagStat = SMap.set 0 (s.block o.blk).tagStat o.tag (BitVec.ofNat 128 status) ∧
    (t.block o.blk).spad = storeWrite (s.block o.blk).spad (o.pbOff + 48) (leBytes 16 status) ∧
    (t.die d).collq = (s.die d).collq.erase o ∧ (tagBusy t o.blk o.tag = false → tagSet (t.block o.blk) o.tag = true)

/-- 16 R299 to R307: calls and handles. CALLR and CALLH take the lowest free entry of their die, PENDING, answer its handle and send the
invocation; a bad call block breaks the handle, and a full table answers the null handle. An invocation is launched, queued or broken;
WAITH waits until its handle is resolved or broken, HSTAT reads its status, and DROPH breaks or releases it. A break reaches the invocations
that wait for the handle and those forwarded for it. The word of a broken handle names a result area only where it broke from RUNNING. The
model's choices here: what an arriving packet says is free (log 5), WAITH acquires for a broken or a stale handle too (log 37), a call with n
argument bytes takes 1 + ceil(n / 240) flits (log 50), the word and address of another module's handle are free within their form, and WAITH
of one waits once (log 56), a full table answers the null handle and sends nothing (log 57), GEN starts at 0 (log 58), and a forwarded
invocation is settled by the reply of the module that takes it up (log 104). -/
def Obligations.CallsAndHandles : Prop :=
  let call := fun (atHandle : Bool) (ins : Instr) (x : Ext) => ∀ s is i,
    Single true x (readRegs (callReads x atHandle)) s is i →
    let B := s.block is.blk
    let l := memIn s is i x (callReads x atHandle)
    let off := medianBy unsignedV (l.src 0)
    let target : W64 := BitVec.ofNat 64 (medianBy unsignedV (l.src 1))
    let c := CallBlock.of (spadRead s is.blk off 64) (spadSizeOf s is.blk) atHandle
    let m := if atHandle then handleDev target else c.dev
    let got := allocHandle (started s) (coreDie B.core) B.region (if atHandle then 0xFFF else c.dev) (if atHandle then m else 0xFFF)
    let h := got.2
    let e := got.1.handle h
    let fits := off % 64 = 0 ∧ off + 64 ≤ spadSizeOf s is.blk
    let dead := atHandle = true ∧ target = nullHandle
    let gives := fun (u : State) => ∃ t, exec ins s = .next t ∧ Completes x u t is.blk i (fun _ => [.pair x.d h])
    let inv : Invocation :=
      { handle := h, region := B.region, exec := m, lrec := c.lrec, resLen := c.resLen, args := spadRead s is.blk c.argOff c.argLen
        producer := 0, addressed := if atHandle then some target else none }
    (¬ fits → exec ins s = .next (trapped s (keptAt s (started s) is i x 60 (callReads x atHandle)) is i x 60
      (fltOf .addrRange (off + 0x01E0_0000_0000_0000)))) ∧
    (fits → c.ok = true → ¬ dead → streamRoom s m tcInvoke (1 + ceilDiv c.argLen 240) = false →
      exec ins s = .next (reseat (started s) is.blk [i])) ∧
    (fits → c.ok = false → h ≠ nullHandle → gives (got.1.setHandle h { e with state := 4, cause := 2, exec := 0xFFF })) ∧
    (fits → c.ok = true → dead → h ≠ nullHandle → gives (got.1.setHandle h { e with state := 4, cause := 9 })) ∧
    (fits → c.ok = true → ¬ dead → streamRoom s m tcInvoke (1 + ceilDiv c.argLen 240) = true →
      (h = nullHandle → gives got.1) ∧
      (h ≠ nullHandle → gives (invoke got.1 m is.blk (if atHandle then .callh inv else .invoke inv) inv)))
  let word := fun (s : State) (B : Block) (h : W64) =>
    if h = nullHandle then 4 + 11 * 2 ^ 24 else if s.handleUsable h B.region then (s.handle h).word else 0
  let arg := fun (s : State) (is : Issue) (i : Nat) (x : Ext) => handleArg (memIn s is i x (handleReads x))
  let drop := fun (ins : Instr) (x : Ext) (st cause : Nat) (f : State → W64 → State) => ∀ s is i,
    Single true x (readRegs (handleReads x)) s is i → let h := arg s is i x
    let completes := fun u => ∃ t, exec ins s = .next t ∧ Completes x u t is.blk i (fun _ => [])
    (h = nullHandle ∨ (s.homeOf h = true ∧ s.handleUsable h (s.block is.blk).region = false) → completes (started s)) ∧
    (s.handleUsable h (s.block is.blk).region = true → let u := f (started s) h
      u.block is.blk = s.block is.blk → completes u) ∧
    (h ≠ nullHandle → s.homeOf h = false → handleDev h ≠ 0xFFF →
      (streamRoom s (handleDev h) tcInvoke 1 = true → completes
        (sendNotice (started s) (handleDev h) h st cause 0 0 0 (s.block is.blk).region (s.block is.blk).grid)) ∧
      (streamRoom s (handleDev h) tcInvoke 1 = false → exec ins s = .next (reseat (started s) is.blk [i])))
  (∀ x, call false (.callr x) x ∧ call true (.callh x) x) ∧
  (∀ x s is i, Single true x (readRegs (handleReads x)) s is i → let h := arg s is i x
    let w := word s (s.block is.blk) h
    (h = nullHandle ∨ s.homeOf h = true →
      (w % 16 ≠ 1 → w % 16 ≠ 2 → ∃ t, exec (.waith x) s = .next t ∧
        Completes x (acquireEffect (started s) is.blk i .acquire .system) t is.blk i (fun _ => [.pair x.d (BitVec.ofNat 64 w)])) ∧
      (w % 16 = 1 ∨ w % 16 = 2 → ∃ t, exec (.waith x) s = .next t ∧ Waits (started s) t is.blk i (.waith h)
        (captured s is.blk (s.member is.blk i) x 60 (handleReads x) []))) ∧
    (h = nullHandle ∨ s.homeOf h = true → let u := if w % 16 = 3 then acquireEffect (started s) is.blk i .acquire .system else started s
      let v := if x.m0 then (if w % 16 = 2 ∨ w % 16 = 3 then (s.handle h).raddr % 2 ^ 57 else 0) else w
      ∃ t, exec (.hstat x) s = .next t ∧ Completes x u t is.blk i (fun _ => [.pair x.d (BitVec.ofNat 64 v)])) ∧
    (h ≠ nullHandle → s.homeOf h = false →
      ((s.member is.blk i).wait = none → ∃ t, exec (.waith x) s = .next t ∧ Waits (started s) t is.blk i (.waith h)
        (captured s is.blk (s.member is.blk i) x 60 (handleReads x) [])) ∧
      (let f := foreignWord (started s) true
       (s.member is.blk i).wait ≠ none → ∃ t, exec (.waith x) s = .next t ∧
        Completes x (acquireEffect f.1 is.blk i .acquire .system) t is.blk i (fun _ => [.pair x.d (BitVec.ofNat 64 f.2)])) ∧
      let f := foreignWord (started s) false
      let u := if f.2 % 16 = 3 then acquireEffect f.1 is.blk i .acquire .system else f.1
      let a := if f.2 % 16 = 2 ∨ f.2 % 16 = 3 then (Config.freeValue u.choice).toNat % 2 ^ 57 else 0
      ∃ t, exec (.hstat x) s = .next t ∧
        (x.m0 = false → Completes x u t is.blk i (fun _ => [.pair x.d (BitVec.ofNat 64 f.2)])) ∧
        (x.m0 = true → Completes x { u with choice := u.choice + 1 } t is.blk i (fun _ => [.pair x.d (BitVec.ofNat 64 a)])))) ∧
  (∀ (s : State) (settled : Bool), let f := foreignWord s settled
    let st := f.2 % 16
    let cause := bitsAt f.2 24 8
    f.1 = { s with choice := s.choice + 1 } ∧ st ≤ 4 ∧ (settled = true → st = 0 ∨ st = 3 ∨ st = 4) ∧ bitsAt f.2 4 20 = 0 ∧ f.2 < 2 ^ 64 ∧
    (st ≠ 4 → cause = 0) ∧ (st = 4 → 1 ≤ cause ∧ cause ≤ 12) ∧
    (st ≠ 2 → st ≠ 3 → ¬ (st = 4 ∧ cause ∈ [6, 7, 8, 10]) → f.2 / 2 ^ 32 = 0)) ∧
  (∀ x, drop (.drophBreak x) x 4 8 (fun s h => freeHandles (breakHandle s h 8))) ∧
  (∀ x, drop (.drophRelease x) x 0 0 (fun s h => freeHandles (s.setHandle h { s.handle h with released := true }))) ∧
  (∀ (s : State) (d region ex via n : Nat), d < 4 → n < 65536 → (∀ k, k < n → (SMap.get HandleEntry.free (s.die d).handles k).state ≠ 0) →
    (SMap.get HandleEntry.free (s.die d).handles n).state = 0 → n < 16384 + (s.die d).hovfCnt →
    let g := (SMap.get HandleEntry.free (s.die d).handles n).gen
    (allocHandle s d region ex via).2 = mkHandle s.dev d n g ∧
    SMap.get HandleEntry.free ((allocHandle s d region ex via).1.die d).handles n =
      { HandleEntry.free with gen := g, state := 1, region := region, exec := ex, via := via }) ∧
  (∀ (s : State) (d region ex via : Nat), (∀ k, k < 65536 → k < 16384 + (s.die d).hovfCnt →
    (SMap.get HandleEntry.free (s.die d).handles k).state ≠ 0) → allocHandle s d region ex via = (s, nullHandle)) ∧
  (∀ s h cause rdev rlen raddr, State.handleValid s h = true → (s.handle h).state < 3 →
    let e := s.handle h
    let broken := s.setHandle h { e with state := 4, cause := cause, queue := [], sent := [] }
    handleEvent s h 4 cause rdev rlen raddr = (e.sent ++ e.queue).foldl (fun s' i => applyHandle (handleFuel s - 1) s' i.handle 4 9 0 0 0)
      (if cause = 8 then tellCallee broken e.exec h 4 8 else broken) ∧
    (e.state = 1 → handleEvent s h 3 cause rdev rlen raddr = s ∧
      handleEvent s h 2 cause rdev rlen raddr = e.queue.foldl (fun s' i => forward s' rdev i) (s.setHandle h { e with
        state := 2, rdev := rdev, rlen := rlen, raddr := raddr, exec := rdev, queue := [], sent := e.sent ++ e.queue })) ∧
    (e.state = 2 → handleEvent s h 2 cause rdev rlen raddr = s ∧ handleEvent s h 3 cause rdev rlen raddr =
      s.setHandle h { e with state := 3, rdev := rdev, rlen := rlen, raddr := raddr, exec := rdev, sent := [] })) ∧
  (∀ s m (i : Invocation), let u := invoke s m 0 (.invoke i) i
    forward s m i = if u.handleValid i.handle = true ∧ (u.handle i.handle).state = 1
      then u.setHandle i.handle { u.handle i.handle with exec := m } else u) ∧
  (∀ s h st cause a b c region,
    (State.homeOf s h = true → st = 0 → takeNotice s h st cause a b c region =
      if s.handleUsable h region = true then s.setHandle h { s.handle h with released := true } else s) ∧
    (State.homeOf s h = true → st = 4 → cause = 8 → s.handleUsable h region = false → takeNotice s h st cause a b c region = s) ∧
    (State.homeOf s h = true → 2 ≤ st → (st ≠ 4 ∨ cause ≠ 8 ∨ s.handleUsable h region = true) →
      takeNotice s h st cause a b c region = handleEvent s h st cause a b c) ∧
    (State.homeOf s h = false → st = 0 → takeNotice s h st cause a b c region = freeResult s h) ∧
    (State.homeOf s h = false → st = 4 → takeNotice s h st cause a b c region = killCallee s h)) ∧
  (∀ s src, ((∀ n i t, takeDelivered s src tcInvoke ≠ some (n, .invoke i, t)) →
      (∀ n h a b c d e r t, takeDelivered s src tcInvoke ≠ some (n, .notice h a b c d e r, t)) → exec (.invokeReceive src) s = .next s) ∧
    (∀ n i t, takeDelivered s src tcInvoke = some (n, .invoke i, t) → let u := invocationAt { t with reqs := [] } (src % 4) i
      (streamRoom s src tcReply 1 = true → exec (.invokeReceive src) s =
        .next (freeHandles (if src = u.dev then u else sendReply u src tcInvoke n (.reply 0 [] none)))) ∧
      (streamRoom s src tcReply 1 = false → exec (.invokeReceive src) s = .next s)) ∧
    (∀ n h a b c d e r t, takeDelivered s src tcInvoke = some (n, .notice h a b c d e r, t) →
      exec (.invokeReceive src) s = .next (freeHandles (takeNotice t h a b c d e r))) ∧
    ((∀ n i t, takeDelivered s src tcInvoke ≠ some (n, .callh i, t)) → exec (.callhAtHome src) s = .next s) ∧
    ∀ n i t, takeDelivered s src tcInvoke = some (n, .callh i, t) → let h := i.addressed.getD nullHandle
      let room := streamRoom s src tcReply 1 = true ∧ streamRoom s (s.handle h).exec tcInvoke (1 + ceilDiv i.args.length 240) = true
      let u := callhAt t i h
      (room → exec (.callhAtHome src) s =
        .next (freeHandles (if src = u.dev then u else sendReply u src tcInvoke n (.reply 0 [] none)))) ∧
      (¬ room → exec (.callhAtHome src) s = .next s)) ∧
  ∀ s die (i : Invocation) h, let e := State.handle s h
    (i.addressed = none → invocationAt s die i = runInvocation s die i) ∧
    (i.addressed = some h → ∀ g, gridServing s h = some g → (s.grid g).complete = false →
      invocationAt s die i = s.setGrid g { s.grid g with queue := (s.grid g).queue ++ [i] }) ∧
    (i.addressed = some h → ∀ g, gridServing s h = some g → (s.grid g).complete = true → (s.grid g).status ≠ none →
      invocationAt s die i = breakHandle s i.handle 9) ∧
    ((s.region i.region).live = false → runInvocation s die i = breakHandle s i.handle 3) ∧
    (s.handleUsable h i.region = false → callhAt s i h = breakHandle s i.handle 12) ∧
    (s.handleUsable h i.region = true → e.state = 4 → callhAt s i h = breakHandle s i.handle 9) ∧
    (s.handleUsable h i.region = true → e.state ≠ 4 → e.exec = 0xFFF → s.dev ≠ 0xFFF →
      callhAt s i h = s.setHandle h { e with queue := e.queue ++ [i] }) ∧
    (s.handleUsable h i.region = true → e.state ≠ 4 → e.exec ≠ 0xFFF →
      callhAt s i h = forward (if e.state = 3 then s else s.setHandle h { e with sent := e.sent ++ [i] }) e.exec i)

/-- 11 R213; 16 R283 to R290, R383; 18 R332, R333, R337: links. A data flit is sent with the stream's next number and kept until acknowledged, and
waits in order where the window or the retry buffer is full; a flit that is malformed or meant for another module is discarded; data is
delivered in order, an old flit only acknowledged again; a NAK sends again from its number on. What is acknowledged stops before a reply that
has not been taken and before a store that has not been performed. A gap of 2 µs sends a NAK, 16 retries or 20 µs without progress fail a
port. A module that holds a request is owed an ACK flit every 100 µs. A failed port shows in DIEFAULT, within 100 µs its streams move to their
first working route, and a stream without one for 10 ms is lost, when its requests, handles or collectives end with
LINK_LOST; so is one to a module that has been silent for 10 ms and owes a reply. The model's choices here: what a delivered flit says is free
(log 5), and when an ACK is sent within its 1 µs, a NAK is repeated, and a stream's 10 ms begin (log 114). -/
def Obligations.Links : Prop :=
  (∀ s m tc kind plen grid p, let S := State.sendOf s m tc
    let R := s.recvOf m tc
    let port := streamPort s m tc
    let r := sendFlit s m tc kind plen grid p
    r.2.seq = S.next ∧ r.2.dst = m ∧ r.2.src = s.host.devid ∧ r.2.tc = tc ∧ r.2.kind = kind ∧ r.2.plen = plen ∧ r.2.packet = p ∧
    r.2.ackV = R.ackDue ∧ (R.ackDue = true → r.2.ack = ackNumber s m tc) ∧
    r.1.sendOf m tc = { S with next := (S.next + 1) % 2 ^ 32, unacked := S.unacked ++ [r.2], port := port
                               started := if S.next = 0 ∧ S.acked = 0 ∧ S.unacked = [] then s.reft.toNat else S.started } ∧
    r.1.wire = (if portWorks s port then s.wire ++ [(port, r.2)] else s.wire) ∧ r.1.mem = s.mem ∧ r.1.blocks = s.blocks ∧
    (streamRoom s m tc 1 = true → postFlit s m tc kind plen grid p = r.1) ∧
    (streamRoom s m tc 1 = false → ∃ f, (postFlit s m tc kind plen grid p).sendOf m tc = { S with waiting := S.waiting ++ [f] } ∧
      (postFlit s m tc kind plen grid p).wire = s.wire ∧ f.kind = kind ∧ f.packet = p) ∧
    ∀ n, streamRoom s m tc n = true ↔ m = s.host.devid ∨ S.waiting = [] ∧ (S.next + 2 ^ 32 - S.acked) % 2 ^ 32 + n ≤ 4096 ∧
      (port = 0xFF ∨ portHeld s port + n ≤ 4096)) ∧
  (∀ s port flit, let h := fieldAt flit 0 16
    let src := hdrSrc h
    let mine := portWorks s port = true ∧ flitOk flit = true ∧ hdrDst h = s.host.devid ∧ src ≠ 4095 ∧ src ≠ s.host.devid
    let w := wakeDie { s with heard := SMap.put s.heard src s.reft.toNat } (port / 16)
    let u := if bitN h 35 && hdrKind h != 1 then takeAck w src (bitsAt h 36 2) (hdrAck h) else w
    (¬ mine → exec (.flitReceive port flit) s = .next s) ∧
    (mine → hdrKind h = 0 → exec (.flitReceive port flit) s = .next u) ∧
    (mine → hdrKind h = 1 → exec (.flitReceive port flit) s = .next (takeNak w src (bitsAt h 36 2) (hdrAck h))) ∧
    (mine → 2 ≤ hdrKind h → exec (.flitReceive port flit) s = .next (takeData u port src (hdrTc h) (hdrKind h) (hdrSeq h)))) ∧
  (∀ s port src tc kind seq, let R := State.recvOf s src tc
    let d := (seq + 2 ^ 32 - R.expected) % 2 ^ 32
    let since := if R.ackDue then R.ackSince else s.reft.toNat
    (4096 < d → d < 2 ^ 31 → takeData s port src tc kind seq = s) ∧
    (2 ^ 31 ≤ d → (∀ kv ∈ s.dies, ∀ e ∈ kv.2.replies, ¬ (e.src = src ∧ e.tc = tc ∧ e.seq = seq)) →
      takeData s port src tc kind seq = s.setRecv src tc { R with ackDue := true, ackSince := since }) ∧
    (0 < d → d ≤ 4096 → (∀ h ∈ R.held, h.1 ≠ R.expected) → (∀ h ∈ R.held, h.1 ≠ seq) → seq < 2 ^ 32 → R.expected < 2 ^ 32 →
      let t := takeData s port src tc kind seq
      t = { s with recvs := t.recvs } ∧ t.recvOf src tc = { R with
        held := R.held ++ [(seq, kind, port)], ackDue := R.ackDue || tc != tcReply
        ackSince := if tc = tcReply then R.ackSince else since, gapSince := if R.held = [] then s.reft.toNat else R.gapSince }) ∧
    (d = 0 → tc < 4 → R.held = [] → seq < 2 ^ 32 → R.expected < 2 ^ 32 → needsEntry kind = false → kind ∈ [3, 5, 9] →
      ∃ t p, takeData s port src tc kind seq = t ∧ (t.recvOf src tc).expected = (R.expected + 1) % 2 ^ 32 ∧
        (t.recvOf src tc).held = [] ∧ (t.recvOf src tc).delivered = R.delivered ++ [(seq, p)])) ∧
  (∀ s m tc e, let S := State.sendOf s m tc
    let P := s.port S.port
    let u := (S.unacked.filter (fun f => !precedes f.seq e)).foldl (fun s f => transmit s S.port f)
      (s.setPort S.port { P with retries := P.retries + 1 })
    takeNak s m tc e = if S.port = 0xFF then s else if 16 ≤ P.retries + 1 then failPort u S.port else u) ∧
  (∀ a b : Nat, a < 2 ^ 32 → b < 2 ^ 32 → (precedes a b = true ↔ ∃ d, 1 ≤ d ∧ d < 2 ^ 31 ∧ (a + d) % 2 ^ 32 = b)) ∧
  (∀ s src tc, let R := State.recvOf s src tc
    (R.ackDue = true ∧ tc < 4 → exec (.ackTimer src tc) s =
      .next (sendControl (s.setRecv src tc { R with ackDue := false }) src tc 0 (ackNumber s src tc))) ∧
    (¬ (R.ackDue = true ∧ tc < 4) → exec (.ackTimer src tc) s = .next s) ∧
    (let gap := R.held ≠ [] ∧ tc < 4 ∧ R.gapSince + 2000 ≤ s.reft.toNat ∧ ∀ h ∈ R.held, h.1 ≠ R.expected
     (gap → exec (.gapTimeout src tc) s =
        .next (sendControl (s.setRecv src tc { R with gapSince := s.reft.toNat }) src tc 1 R.expected)) ∧
      (¬ gap → exec (.gapTimeout src tc) s = .next s)) ∧
    (let owes := holdsRequest s src = true ∧ src ≠ s.host.devid
     (owes → exec (.keepaliveAck src) s = .next (sendControl s src 0 0 (ackNumber s src 0))) ∧
      (¬ owes → exec (.keepaliveAck src) s = .next s)) ∧
    ∀ kind a p, pickPort s src = some p → let f : Flit := { seq := 0, ack := a, dst := src, src := s.host.devid, tc := tc, ackTc := tc,
                                                            ackV := true, replay := false, kind := kind, plen := 0, packet := .none_, grid := 0 }
      sendControl s src tc kind a = { s with
        beats := if kind = 0 then SMap.put s.beats src s.reft.toNat else s.beats, wire := s.wire ++ [(p, f)] }) ∧
  (∀ s m tc, let R := State.recvOf s m tc
    let store := fun d : Nat × Packet => d.1 < 2 ^ 32 ∧ ∃ r, d.2 = .request r ∧ r.op = 1
    (tc = 1 → ackNumber s m tc = (R.expected + 2 ^ 33 - 1 - R.delivered.length) % 2 ^ 32) ∧
    (tc ≠ 1 → (tc = 0 → ∀ d ∈ R.delivered, ¬ store d) → ackNumber s m tc = (R.expected + 2 ^ 33 - 1) % 2 ^ 32) ∧
    (tc = 0 → ∀ before d after, R.delivered = before ++ d :: after → store d → (∀ e ∈ before, ¬ store e) →
      ackNumber s m tc = (d.1 + 2 ^ 33 - 1) % 2 ^ 32)) ∧
  (∀ (s : State) (m : Nat), (beatsOf s).lookup m = if holdsRequest s m = true ∧ m ≠ s.host.devid then some (SMap.get s.reft.toNat s.beats m) else none) ∧
  (∀ s x, (x ∈ dueBeats s ↔ ∃ kv ∈ s.beats, kv.2 + 100000 ≤ s.reft.toNat ∧ x = .event (.keepaliveAck kv.1)) ∧
    (x ∈ dueCastlings s ↔ ∃ kv ∈ s.ports, kv.2.failed = true ∧ kv.2.since + 100000 ≤ s.reft.toNat ∧
      (∃ sv ∈ s.sends, sv.2.port = kv.1 ∧ pickPort s (sv.1 / 4) ≠ none) ∧ x = .event (.castling kv.1)) ∧
    ∀ kv ∈ s.recvs, kv.2.ackDue = true → kv.1 / 4 ≠ s.host.devid → kv.2.ackSince + 1000 ≤ s.reft.toNat →
      .event (.ackTimer (kv.1 / 4) (kv.1 % 4)) ∈ dueAcks s) ∧
  (∀ s p, exec (.laneLockLoss p) s = .next (failPort s p) ∧
    exec (.ackProgressTimeout p) s = .next (if (∃ kv ∈ s.sends, kv.2.port = p ∧ ∃ f ∈ kv.2.unacked, precedes f.seq kv.2.acked = false) ∧
        (s.port p).since + 20000 ≤ s.reft.toNat then failPort s p else s) ∧
    (p < 64 → ((failPort s p).port p).failed = true ∧ portWorks (failPort s p) p = false ∧
      ((s.port p).failed = false → bitN ((failPort s p).die (p / 16)).portFail (p % 16) = true)) ∧
    exec (.linkRetrain p) s = .next (if p < 64 then s.setPort p { s.port p with failed := false, trained := true } else s)) ∧
  (∀ s (ps : List Nat), ∃ t, exec (.switchFailure ps) s = .next t ∧ ∀ p, p < 64 → (t.port p).failed = ((s.port p).failed || ps.contains p)) ∧
  (∀ s p, (portWorks s p = true → exec (.castling p) s = .next s) ∧
    (portWorks s p = false → exec (.castling p) s = .next (castlePort s p))) ∧
  (∀ s key p, let S := SMap.get SendStream.new (State.sends s) key
    let fs := S.unacked.map (fun f => { f with replay := S.port != 0xFF })
    (pickPort s (key / 4) = none → castle s key = s) ∧
    (pickPort s (key / 4) = some p → (∀ kv ∈ s.sends, kv.2.waiting = []) →
      SMap.get SendStream.new (castle s key).sends key = { S with port := p, unacked := fs } ∧
      (castle s key).wire = s.wire ++ fs.map (fun f => (p, f)))) ∧
  ∀ s m tc,
    let lost := m ≠ s.host.devid ∧ tc < 4 ∧ pickPort s m = none ∧
      max (SMap.get 0 s.lastRoute m) (s.sendOf m tc).started + 10000000 ≤ s.reft.toNat
    let owes := m ≠ s.host.devid ∧ SMap.get 0 s.heard m + 10000000 ≤ s.reft.toNat ∧
      ∃ o ∈ s.outs, o.dst = m ∧ o.answered = false ∧ o.op ≠ 1 ∧ o.sent + 10000000 ≤ s.reft.toNat
    let r := { s with reqs := [] }
    let u := dropStream (markLost r m) m tc
    (¬ lost → exec (.streamLost m tc) s = .next s) ∧
    (lost → exec (.streamLost m tc) s = .next (freeHandles (if tc = 0 then loseRequests u m (fun o => o.op != 3)
      else if tc = 3 then loseRequests (loseHandles u m) m (fun o => o.op == 3) else if tc = 2 then loseColls u (fun o => o.neighbours.contains m) else u))) ∧
    (¬ owes → exec (.replyStreamLost m) s = .next s) ∧
    (owes → exec (.replyStreamLost m) s = .next (freeHandles (loseRequests (loseHandles (dropStream (markLost r m) m 1) m) m (fun _ => true)))) ∧
    (∀ hs, lostHandles s m = hs → loseHandles s m = hs.foldl (fun t h => (h.2.sent ++ h.2.queue).foldl (fun t i => breakHandle t i.handle 9) t)
      (hs.foldl (fun t h => t.setHandle h.1 { h.2 with state := 4, cause := 10, queue := [], sent := [] }) s)) ∧
    ((u.recvOf m tc).delivered = (s.recvOf m tc).delivered.map (fun d => (2 ^ 32 + d.1 % 2 ^ 32, d.2))) ∧
    ((markLost s m).die (m % 4)).lost = true ∧ (u.sendOf m tc = SendStream.new) ∧ (u.recvOf m tc).expected = 0

/-- 15 R252 to R255, R268, R384; 18 R314, R323, R336; 19 R339; 20 R360 to R367: region commands, debug descriptors, arenas, courses and stop
requests. A command reads its control block or descriptor, acts or answers the REASON of its first breach, and REGSTAT tells the outcome;
a course ends at its boundary. A registration zeroes what the device writes. One stop request runs per region at a time: an update with GO
reads its fields and starts it; it holds the resident block, waits for a handler or a frame, and rebuilds a thread's state into the frame,
unless a plumb word computed up to it differs from the one logged; its release lets the block go on where it was held. The model's choices
here: the layout of a course area (log 13), the frame is taken in the region whose handler fields are in effect (log 21), device counters
start at 0 and REASON takes the lowest code (log 77), END drops the region's operations at once (log 79), an UPDATE with GO starts a request
(log 80), re-execution goes from the states that the model keeps of the course, and is free where the area no longer holds what was written
there (log 81), and a stop whose SIB names no sibling of the member is refused (log 116). -/
def Obligations.RegionsAndDebug : Prop :=
  let at' := fun pa => bitsAt pa 7 31 * 128
  let named := fun (s : State) pa => Memory.nat s.mem (at' pa) 2
  let told := fun (s : State) (op pa : Nat) (t : State) (reason : Nat) => { t with host := { t.host with
    regCmd := BitVec.ofNat 64 (op * 2 ^ 60 + at' pa)
    regStat := BitVec.ofNat 64 ((if reason = 0 then 2 else 3) + reason * 2 ^ 8 + named s pa * 2 ^ 16) } }
  (∀ s pa, let r := { s with reqs := [] }
    let id := named s pa
    let R := readControl r Region.none (at' pa)
    let c := controlReason r id R
    (c ≠ 0 → exec (.registerRegion pa) s = .next (told s 1 pa r c)) ∧
    (c = 0 → (s.region id).live = true → exec (.registerRegion pa) s = .next (told s 1 pa r 5)) ∧
    (c = 0 → (s.region id).live = false → rootSet s = false → exec (.registerRegion pa) s = .next (told s 1 pa r 7)) ∧
    (c = 0 → (s.region id).live = false → rootSet s = true → ∃ t n e st, exec (.registerRegion pa) s = .next t ∧
      t.region id = { R with live := true, root := bitsAt s.host.regRoot.toNat 12 36 * 2 ^ 12, srEst := n, effSlice := e, status := st } ∧
      bitN t.host.regRoot.toNat 0 = false ∧ t.host.regStat = BitVec.ofNat 64 (2 + id * 2 ^ 16))) ∧
  (∀ s pa, let r := { s with reqs := [] }
    let id := named s pa
    let R := readControl r (s.region id) (at' pa)
    let c := controlReason r id R
    let root := bitsAt s.host.regRoot.toNat 12 36 * 2 ^ 12
    (c ≠ 0 → exec (.updateRegion pa) s = .next (told s 2 pa r c)) ∧
    (c = 0 → (s.region id).live = false → exec (.updateRegion pa) s = .next (told s 2 pa r 6)) ∧
    (c = 0 → (s.region id).live = true → ∃ t e st, exec (.updateRegion pa) s = .next t ∧ t.host.regStat = BitVec.ofNat 64 (2 + id * 2 ^ 16) ∧
      t.region id = { (if rootSet s = false then R else if hasGrid s id then { R with stagedRoot := some root }
        else { R with root := root, stagedRoot := none }) with effSlice := e, status := st })) ∧
  (∀ s id (R : Region), let orphan := R.parent ≠ 0 ∧ (State.region s R.parent).live = false
    let cycle := R.parent ≠ 0 ∧ (R.parent = id ∨ (s.ancestors R.parent).contains id = true)
    (R.parent = 0 → R.ovr % 2 ^ 10 ≠ 2 ^ 10 - 1 → controlReason s id R = 1) ∧ (orphan → controlReason s id R = 2) ∧
    (¬ orphan → cycle → controlReason s id R = 3) ∧
    ((R.parent = 0 → R.ovr % 2 ^ 10 = 2 ^ 10 - 1) → ¬ orphan → ¬ cycle → controlReason s id R = if controlOk id R then 0 else 4)) ∧
  (∀ s pa, let r := { s with reqs := [] }
    let id := named s pa
    ((s.region id).live = true → exec (.endRegion pa) s = .next (told s 3 pa (endRegion r id) 0)) ∧
    ((s.region id).live = false → exec (.endRegion pa) s = .next (told s 3 pa s 6))) ∧
  (∀ s r, let t := closeRegion s r
    (t.region r).live = false ∧ (t.region r).frames = [] ∧ (t.region r).areas = [] ∧ (t.region r).descr = none ∧
    bitN (t.region r).status 1 = true ∧ (∀ e ∈ t.atab, bitsAt e.2.toNat 0 16 ≠ r) ∧ ∀ e ∈ t.asyncs, e.region ≠ r) ∧
  (∀ s pa, let r := { s with reqs := [] }
    let id := named s pa
    let D := readDebug r Debug.none (at' pa)
    let zeros := Memory.nat s.mem (at' pa + 80) 16 + Memory.nat s.mem (at' pa + 125) 3
    let ok := debugOk D zeros
    let idle := (s.debug id).stopBlk = none ∧ (s.debug id).stopFrame = none
    ((s.region id).live = false ∨ id = 0 → exec (.registerDebugDescriptor pa) s = .next (told s 4 pa r 6)) ∧
    ((s.region id).live = true → id ≠ 0 → ok = false → exec (.registerDebugDescriptor pa) s = .next (told s 4 pa r 4)) ∧
    ((s.region id).live = true → id ≠ 0 → ok = true → ∃ t, exec (.registerDebugDescriptor pa) s = .next t ∧
      t.host.regStat = BitVec.ofNat 64 (2 + id * 2 ^ 16) ∧ t.debug id = D ∧ (t.region id).descr = some (at' pa) ∧
      Memory.nat t.mem (at' pa + 120) 5 = 0 ∧
      (idle → t.region id = { s.region id with descr := some (at' pa) } ∧
        ∀ b, (s.block b).region = id → (t.block b).dbg = false ∧ (t.block b).course = none)) ∧
    (∀ d, (s.region id).live = true → (s.region id).descr = some d → let D' := readDebug r (s.debug id) (at' pa)
      debugOk D' zeros = true →
      (Memory.nat s.mem (at' pa + 107) 1 ≠ 1 → ∃ t, exec (.updateDebugDescriptor pa) s = .next t ∧ t.debug id = { D' with usedSlots := [] } ∧
        t.host.regStat = BitVec.ofNat 64 (2 + id * 2 ^ 16)) ∧
      (Memory.nat s.mem (at' pa + 107) 1 = 1 → let v := (r.setRegion id { s.region id with descr := some (at' pa) }).setDebug id D'
        let f := fun o n => Memory.nat s.mem (at' pa + o) n
        let q : StopReq := { grid := f 96 4, blk := f 100 4, mem := f 104 2, sib := f 106 1, course := f 108 4, count := f 112 8 }
        (D'.stop ≠ none → exec (.updateDebugDescriptor pa) s = .next (told s 5 pa v 0)) ∧
        (D'.stop = none → exec (.updateDebugDescriptor pa) s =
          .next (told s 5 pa (stopOnce (stopStatus (v.setDebug id { D' with stop := some q }) id 1) id q) 0)))) ∧
    ((s.region id).live = false ∨ (s.region id).descr = none → exec (.updateDebugDescriptor pa) s = .next (told s 5 pa r 6) ∧
      exec (.removeDebugDescriptor pa) s = .next (told s 6 pa r 6)) ∧
    (∀ d, (s.region id).live = true → (s.region id).descr = some d → ∃ t, exec (.removeDebugDescriptor pa) s = .next t ∧
      (t.region id).descr = none ∧ t.debug id = Debug.none ∧
      ∀ b, (s.block b).region = id → idle → (t.block b).dbg = false ∧ (t.block b).course = none)) ∧
  (∀ s pa, let r := { s with reqs := [] }
    let id := named s pa
    let b := Memory.read s.mem (at' pa) 128
    let base := fieldAt b 8 8
    let size := fieldAt b 16 8
    let ok := id ≠ 0 ∧ fieldAt b 2 6 = 0 ∧ fieldAt b 24 104 = 0 ∧ base % 2 ^ 16 = 0 ∧ base < 2 ^ 57 ∧ size % 2 ^ 16 = 0
    (¬ ok → exec (.setArena pa) s = .next (told s 7 pa r 4)) ∧
    (ok → (s.region id).live = false → exec (.setArena pa) s = .next (told s 7 pa r 6)) ∧
    (ok → (s.region id).live = true → hasGrid s id = true ∨ (s.region id).areas ≠ [] → exec (.setArena pa) s = .next (told s 7 pa r 8)) ∧
    (ok → (s.region id).live = true → hasGrid s id = false → (s.region id).areas = [] → exec (.setArena pa) s =
      .next (told s 7 pa (r.setRegion id { s.region id with arenaBase := base, arenaSize := size }) 0))) ∧
  (∀ s b, ((State.block s b).state = .running ∧ courseDone s b = true →
      exec (.courseEnd b) s = .next (seatBlock (startCourse (stopBlock s b) b) b)) ∧
    (¬ ((s.block b).state = .running ∧ courseDone s b = true) → exec (.courseEnd b) s = .next s)) ∧
  (∀ s r d, (State.region s r).descr = some d → let D := s.debug r
    let asked := fun q => D.stop = some q ∧ D.stopFrame = none ∧ Memory.nat s.mem (d + 124) 1 = 1
    ((∀ q, ¬ asked q) → exec (.stopRequest r) s = .next s) ∧ (∀ q, asked q → exec (.stopRequest r) s = .next (stopOnce s r q))) ∧
  (∀ (s : State) (r : Nat) (q : StopReq), let target := match (s.debug r).stopBlk with | some b => some b | none => stopTarget s r q
    let refused := fun u => stopStatus (endStop u r) r 3
    ((target = none ∨ ∃ b, target = some b ∧ stopCourse s b q = none) → stopOnce s r q = refused s) ∧
    (∀ b c, target = some b → stopCourse s b q = some c →
      let waits := (∃ n h, (s.block b).state = .handled n h) ∨ ∃ t, (s.block b).state = .frameWait t
      (waits → stopOnce s r q = s) ∧
      (¬ waits → let u := stopHold s r b
        (pickFrame u r = none → stopOnce s r q = u) ∧
        ∀ n, pickFrame u r = some n →
          let B := u.block b
          let w := keystoneOf r (coreDie B.core)
          let head := 2048 + 2048 * B.nthread
          let from_ := courseAddr (u.debug r) ((B.course.map CourseSlot.slot).getD 0) c.number
          let o := effOwner u.regions 4 u.regions.length r
          let rest := fun h => head + 2368 * fieldAt h 82 2
          let place := (u.region o).frameBase + (u.region o).frameSize * n
          let ready := fun z : State => let y := z.setRegion o { z.region o with frames := n :: (z.region o).frames }
            stopStatus (debugBytes (y.setDebug r { y.debug r with stopFrame := some n }) r 120 4 n) r 2
          (∀ v f, readRange { u with reqs := [] } w from_ head = (v, .error f) → stopOnce s r q = refused v) ∧
          ∀ v h, readRange { u with reqs := [] } w from_ head = (v, .ok h) →
            (∀ v' f, readRange v w from_ (rest h) = (v', .error f) → stopOnce s r q = refused v') ∧
            ∀ v' snap v'' log, readRange v w from_ (rest h) = (v', .ok snap) →
              readRange v' w (from_ + c.snap.length) (16 * min c.log.length (logRoom (u.debug r) c)) = (v'', .ok log) →
              let kept := snap = c.snap.take snap.length ∧ log = (c.log.take (log.length / 16)).flatMap LogEntry.bytes
              (kept → diverged c q log = true → stopOnce s r q = stopStatus v'' r 4) ∧
              (kept → diverged c q log = false → ∀ z, writeRange v'' w place (stopFrameBytes B c q snap) = (z, none) →
                stopOnce s r q = ready z) ∧
              (¬ kept → let differs := bitN (Config.freeValue v''.choice).toNat 0
                ∃ k frame, (differs = true → stopOnce s r q = stopStatus { v'' with choice := k } r 4) ∧
                  ∀ z, differs = false → writeRange { v'' with choice := k } w place frame = (z, none) → stopOnce s r q = ready z))) ∧
    (∀ b c, stopCourse s b q = some c → let m := SMap.get Member.none c.start q.mem
      m.live = true ∧ q.sib < m.nsib ∧ 1 ≤ q.count ∧ q.count ≤ SMap.get 0 c.retired q.mem ∧ c.number = q.course) ∧
    (∀ c log, diverged c q log = true ↔ ∃ p ∈ c.plumbs, p.count ≤ stopCount c q p.mem ∧
      ∃ w, loggedPlumb log p = some w ∧ w ≠ c.plumb p) ∧
    (∀ c, (∀ e ∈ c.log, e.late = false) → rebuilt c q q.mem = { c.after q.mem q.count with
      sibs := (c.after q.mem q.count).sibs.map Regs.settleAll }) ∧
    (let D := s.debug r
     let u := s.setDebug r { D with stop := none, stopBlk := none, stopFrame := none }
     endStop s r = match D.stopBlk with | some b => unholdBlock u b | none => u)) ∧
  (∀ s r d, (State.region s r).descr = some d → let u := stopStatus (endStop s r) r 0
    exec (.stopRelease r) s = .next (match (s.debug r).stopFrame with | some n => frameFreed (freeFrame u r n) r | none => u)) ∧
  (∀ s r b, let v := writeLog (holdBlock { s with reqs := [] } b) b
    let st := (State.block s b).state
    (st = .running ∨ st = .stopping ∨ st = .gangWait → stopHold s r b = v.setDebug r { v.debug r with stopBlk := some b }) ∧
    (st ≠ .running → st ≠ .stopping → st ≠ .gangWait → stopHold s r b = s) ∧
    (st = .running → ((holdBlock s b).block b).state = .heldForStop .running ∧
      ∀ kv ∈ ((holdBlock s b).core (s.block b).core).tables, ∀ e ∈ kv.2, e.blk ≠ b) ∧
    (st = .stopping → holdBlock s b = s.setBlock b { s.block b with state := .heldForStop .stopping }) ∧
    (st = .gangWait → holdBlock s b = s.setBlock b { s.block b with state := .heldForStop .gang }) ∧
    (st = .heldForStop .running →
      unholdBlock s b = wakeReplies (seatBlock (s.setBlock b { s.block b with state := .running }) b) b) ∧
    (st = .heldForStop .stopping → unholdBlock s b = s.setBlock b { s.block b with state := .stopping }) ∧
    (st = .heldForStop .gang → unholdBlock s b = s.setBlock b { s.block b with state := .gangWait }) ∧
    (st = .heldForStop .started → unholdBlock s b = resumeBlock s b)) ∧
  ∀ s r, (State.region s r).descr = none → exec (.stopRequest r) s = .next s ∧ exec (.stopRelease r) s = .next s

/-- 10 R197; 11 R214; 16 R282, R300; 18 R321, R323, R326 to R337: the host's window. Registers take what their fields allow; DEVID, fences,
returns, invalidations, counters, routes and access-table entries act; the host reaches memory line by line through its access table; a
start whose image is accepted ends READY at the reset values with the memory that it keeps, and a refused image waits in RECOVERY, where
only the mailbox answers the host. An access that is not aligned ends as an unsupported request and changes nothing else. The model's choices
here: the fused values and functions of an attestation are free (log 4), entry n of a target's access table has the key 1024 × target + n
(log 8), a second write of DEVID takes the new value (log 84), a write of FENCECTL with RETURN passes its self-test (log 85), a write takes
effect without the bits of a field that must be zero (log 105), the host reaches memory line by line under a master of its own (log 86), a start keeps
REFT and host memory (log 87), and a step of a start that fails is an input (log 95). -/
def Obligations.HostWindow : Prop :=
  (∀ (s : State) (value : W64), s.host.devidSet = false → exec (.devidWrite value) s =
    .next { s with host := { s.host with devid := value.toNat % 2 ^ 12, devidSet := true } }) ∧
  (∀ (s : State) (value : W64), ∃ t, exec (.devidWrite value) s = .next t ∧ t.host.devid = value.toNat % 2 ^ 12 ∧ t.host.devidSet = true) ∧
  (∀ s value, let v := if fenceBusy s then s.host.fenceReq else value
    let q := FenceReq.of v.toNat
    let r := fenceOnce { s with host := { s.host with fenceReq := v } } q
    (q.op ≠ 1 ∨ q.ok = false → exec (.fencePart value) s = .next (fenceStatus s v 3)) ∧
    (q.op = 1 → q.ok = true → exec (.fencePart value) s =
      .next (fenceStatus r.1 (if fenceBusy s then r.1.host.fenceCtl else v) (if r.2 then 2 else 1))) ∧
    (q.kind = 2 → let p := 16 * q.die + q.port
      fenceOnce s q = (castlePort (noteRoutes s (s.setPort p { s.port p with fenced := true })) p, true) ∧
      portWorks (fenceOnce s q).1 p = false) ∧
    (q.kind = 0 → let c := 64 * q.die + q.core
      residents s c = [] → ((fenceOnce s q).1.core c).fenced = true ∧ ((fenceOnce s q).1.core c).power = 2 ∧ (fenceOnce s q).2 = true) ∧
    (q.kind = 1 → let c := 64 * q.die + q.core
      residents s c = [] → ((fenceOnce s q).1.core c).rowsFenced.contains q.row = true ∧ (fenceOnce s q).2 = true)) ∧
  (∀ s value ok, let q := FenceReq.of (BitVec.toNat (w := 64) value)
    (fenceBusy s = true → exec (.returnPart value ok) s = .next s) ∧
    (fenceBusy s = false → q.op ≠ 2 ∨ q.ok = false ∨ ok = false → exec (.returnPart value ok) s = .next (fenceStatus s value 3)) ∧
    (fenceBusy s = false → q.op = 2 → q.ok = true → ok = true →
      exec (.returnPart value ok) s = .next (fenceStatus (returnOnce s q) value 2)) ∧
    (q.kind = 0 → let c := 64 * q.die + q.core
      returnOnce s q = s.setCore c { s.core c with fenced := false, power := 0 }) ∧
    (q.kind = 2 → let p := 16 * q.die + q.port
      returnOnce s q = s.setPort p { s.port p with fenced := false }) ∧
    (q.kind = 3 → ((returnOnce s q).die q.die).fencedCompute = false ∧ ((returnOnce s q).die q.die).fencedFull = (s.die q.die).fencedFull ∧
      ∀ p, (returnOnce s q).port p = s.port p) ∧
    (q.kind = 4 → ((returnOnce s q).die q.die).fencedCompute = false ∧ ((returnOnce s q).die q.die).fencedFull = false ∧
      ∀ k, k < 16 → ((returnOnce s q).port (16 * q.die + k)).fenced = false)) ∧
  (∀ s d, exec (.counterClear d) s = .next (if d < 4 then s.setDie d { s.die d with counters := [] } else s) ∧
    (∀ f, exec (.counterFreeze d f) s = .next (if d < 4 then s.setDie d { s.die d with freeze := f } else s)) ∧
    (∀ v, d < 4 → ∃ t, exec (.diefaultClear d v) s = .next t ∧ (t.die d).lost = ((s.die d).lost && !bitN v.toNat 16) ∧
      ∀ k, k < 16 → (s.die d).portFail < 2 ^ 16 → bitN (t.die d).portFail k = (bitN (s.die d).portFail k && !bitN v.toNat (48 + k))) ∧
    (∀ v, d < 4 → ∃ t, exec (.hostTlbInvalidate d v) s = .next t ∧ t.mem = s.mem ∧
      bitsAt (t.die d).tlbiCmd.toNat 16 2 = 2 ∧ ∀ c e, e ∈ (t.core c).tlb ↔ e ∈ (s.core c).tlb ∧ tlbCovers (bitsAt v.toNat 0 16)
        (if bitN v.toNat 62 then none else tlbRange ((s.die d).tlbiAddr.toNat % 2 ^ 57) (bitsAt v.toNat 18 32)) e = false) ∧
    ∀ c v, d < 4 → ((∃ kv ∈ s.regions, kv.2.live = true) → exec (.handleOverflowConfig d c v) s = .next s) ∧
      ((∀ kv ∈ s.regions, kv.2.live = false) → let n := v.toNat % 2 ^ 16
        exec (.handleOverflowConfig d true v) s = .next (if n % 64 = 0 ∧ n ≤ 49152 then s.setDie d { s.die d with hovfCnt := n } else s) ∧
        exec (.handleOverflowConfig d false v) s = .next (s.setDie d { s.die d with hovfBase := bitsAt v.toNat 12 26 * 2 ^ 12 }))) ∧
  (∀ s m (v : W64), let ok := m ≤ 4094 ∧ ∀ k, k < 4 → bitsAt v.toNat (8 * k) 8 ≤ 63 ∨ bitsAt v.toNat (8 * k) 8 = 0xFF
    (ok → ∃ t, exec (.routeTableWrite m v) s = .next t ∧ t.route m = BitVec.ofNat 64 (v.toNat % 2 ^ 32) ∧
      ∀ n, n ≠ m → t.route n = s.route n) ∧ (¬ ok → exec (.routeTableWrite m v) s = .next s)) ∧
  (∀ s tg n v, n < 1024 → ∃ t, exec (.accessTableUpdate tg n v) s = .next t ∧
    SMap.get 0 t.atab (1024 * tg + n) = v &&& ~~~(((0xFFF_FFFF : BitVec 128)) <<< 36) ∧
    ∀ k, k ≠ 1024 * tg + n → SMap.get 0 t.atab k = SMap.get 0 s.atab k) ∧
  (∀ s off (v : W64), off % 8 ≠ 0 → readWindow s off = none ∧
    exec (.registerWrite off v) s = .next { s with host := { s.host with unsupported := true } }) ∧
  (∀ s off (v : W64), off % 8 = 0 → let a := if off < 0x4000 then wakeDie s (off / 0x1000) else wakePackage s
    let u := { a with host := { a.host with unsupported := false } }
    let w := writeWindow u off v
    exec (.registerWrite off v) s = .next w ∧ (off ∈ [0x8000, 0x8008, 0x8030, 0x8050] → w = u) ∧
    (off = 0x8010 → w = writeDevid u v.toNat) ∧ (off = 0x8028 → w = hostLaunch u v.toNat) ∧
    (off = 0x8048 → bitN v.toNat 63 = true → w = regCommand u (bitsAt v.toNat 60 3) v.toNat) ∧
    (off = 0x8020 → bitN v.toNat 63 = false → w = fenceStatus u v (s.host.fenceCtl.toNat % 256)) ∧
    (off = 0x8020 → bitN v.toNat 63 = true → (fenceBusy s = true → w = u) ∧ (fenceBusy s = false →
      exec (if bitsAt v.toNat 61 2 = 2 then .returnPart v true else .fencePart v) u = .next w)) ∧
    (∀ d e q, d < 4 → e < 8 → q < 16 → off = 0x1000 * d + 0x400 + 0x80 * e + 8 * q → w = writeQtab u d e q v) ∧
    (s.host.mailboxState ≠ 1 → (off = 0x8018 → readWindow w off = some (v.toNat % 2 ^ 32)) ∧
      (off = 0x8040 → readWindow w off = some (v &&& 0x0000_FFFF_FFFF_F001).toNat) ∧
      ∀ d, d < 4 → off = 0x1000 * d + 0x200 → readWindow w off = some (v.toNat % 2 ^ 57)) ∧
    (s.host.mailboxState = 1 → off ≠ 0x8008 → readWindow s off = some 0) ∧
    readWindow s 0x8008 = some (s.host.mailboxState + s.host.mailboxStep * 2 ^ 8 + (if s.host.mailboxWarm then 2 ^ 16 else 0))) ∧
  (∀ (s u : State) (v : W64) st g, launch { s with reqs := [] } none 0
      (LaunchRec.of (Memory.read s.mem (bitsAt v.toNat 6 32 * 64) 128)) = (u, st, g) →
    exec (.hostLaunch v) s = .next { u with host := { u.host with launchStat := BitVec.ofNat 64 (st + g * 2 ^ 32) } }) ∧
  (∀ s pa n bs, 0 < n → n ≤ 64 - pa % 64 → List.length bs = n → let r := { s with reqs := [] }
    (hostKey pa = true → exec (.hostMemoryAccess pa n (some bs)) s = .next { r with mem := Memory.write s.mem pa bs } ∧
      exec (.hostMemoryAccess pa n none) s = .next { r with host := { s.host with hostRead := Memory.read s.mem pa n } }) ∧
    (hostKey pa = false → pa + n ≤ 2 ^ 38 → ∀ u, checkTarget r hostWho 0 pa n pa .write = (u, none) →
      ∃ t, exec (.hostMemoryAccess pa n (some bs)) s = .next t ∧ t.mem = Memory.write u.mem pa bs) ∧
    (hostKey pa = false → pa + n ≤ 2 ^ 38 → ∀ u, checkTarget r hostWho 0 pa n pa .read = (u, none) →
      ∃ t, exec (.hostMemoryAccess pa n none) s = .next t ∧ t.mem = u.mem ∧ t.host.hostRead = Memory.read u.mem pa n) ∧
    (hostKey pa = false → pa + n ≤ 2 ^ 38 → ∀ u f, checkTarget r hostWho 0 pa n pa .write = (u, some f) →
      exec (.hostMemoryAccess pa n (some bs)) s = .next u)) ∧
  (∀ s warm (env : StartEnv), let ins := if warm then Instr.warmStart env else .coldStart env
    (∃ t, exec ins s = .next t ∧ t.regions = [] ∧ t.grids = [] ∧ t.blocks = [] ∧ t.cores = [] ∧ t.dies = [] ∧ t.atab = [] ∧ t.sends = [] ∧
      t.reft = s.reft ∧ t.host.mailboxWarm = warm ∧ t.host.devid = 0xFFF ∧ t.host.starts = s.host.starts + 1) ∧
    (env.failStep = none → ∃ t, exec ins s = .next t ∧ t.host.mailboxWarm = warm ∧ t.reft = s.reft ∧
      if imageOk env.image = true then
        t.host.mailboxState = 2 ∧ t.host.mailboxStep = 0 ∧ t.host.digest = imageDigest env.image ∧ t.host.version = imageVersion env.image ∧
        t.mem = s.mem.filter (fun e => !inOverflow s e.1 && (hostKey e.1 || (warm && decide (e.1 < 2 ^ 49)))) ∧
        t = { State.reset with mem := t.mem, reft := s.reft, choice := s.choice, issues := s.issues, host := t.host } ∧
        t.host = { HostRegs.reset with
          mailboxWarm := warm, digest := t.host.digest, version := t.host.version, starts := s.host.starts + 1 }
      else t.host.mailboxState = 1 ∧ t.host.mailboxStep = 5) ∧
    (∀ n, env.failStep = some n → 1 ≤ n → n ≤ 4 → ∃ t, exec ins s = .next t ∧ t.host.mailboxState = 3 ∧ t.host.mailboxStep = n)) ∧
  (∀ s image, (s.host.mailboxState = 1 → ∃ t, exec (.recoveryImage image) s = .next t ∧
      if imageOk image = true then t.host.mailboxState = 2 ∧ t.host.mailboxStep = 0 ∧ t.host.digest = imageDigest image else t = s) ∧
    (s.host.mailboxState ≠ 1 → exec (.recoveryImage image) s = .next s)) ∧
  (∀ s nonce, (List.length nonce ≤ 64 → ∃ t, exec (.attestationReport nonce) s = .next t ∧ t.host.report =
      reportBody s nonce ++ Config.falconSign s.host.digest (Config.shake256 (reportBody s nonce) 64) ∧
      t = { s with host := { s.host with report := t.host.report } }) ∧
    (64 < List.length nonce → exec (.attestationReport nonce) s = .next s)) ∧
  ∀ s i, allowed s i = true ↔ s.host.mailboxState = 2 ∨ match i with
    | .coldStart _ | .warmStart _ | .recoveryImage _ => True
    | _ => False
end

