-- ==== Sys2Proof/Laws/State.lean ====
section
/-!
SUPPORT. What each state accessor changes and what it leaves: one lemma per field per update, true by unfolding the record update.
-/
namespace Sys2Proof.Machine

section
variable (s : State) (b : Nat) (B : Block)
@[simp] theorem State.setBlock_mem : (s.setBlock b B).mem = s.mem := rfl
@[simp] theorem State.setBlock_cur : (s.setBlock b B).cur = s.cur := rfl
@[simp] theorem State.setBlock_agenda : (s.setBlock b B).agenda = s.agenda := rfl
@[simp] theorem State.setBlock_choice : (s.setBlock b B).choice = s.choice := rfl
@[simp] theorem State.setBlock_issues : (s.setBlock b B).issues = s.issues := rfl
@[simp] theorem State.setBlock_reft : (s.setBlock b B).reft = s.reft := rfl
@[simp] theorem State.setBlock_blocks : (s.setBlock b B).blocks = SMap.put s.blocks b B := rfl
@[simp] theorem State.setBlock_nextBlock : (s.setBlock b B).nextBlock = s.nextBlock := rfl
@[simp] theorem State.setBlock_grids : (s.setBlock b B).grids = s.grids := rfl
@[simp] theorem State.setBlock_nextGrid : (s.setBlock b B).nextGrid = s.nextGrid := rfl
@[simp] theorem State.setBlock_regions : (s.setBlock b B).regions = s.regions := rfl
@[simp] theorem State.setBlock_debugs : (s.setBlock b B).debugs = s.debugs := rfl
@[simp] theorem State.setBlock_cores : (s.setBlock b B).cores = s.cores := rfl
@[simp] theorem State.setBlock_dies : (s.setBlock b B).dies = s.dies := rfl
@[simp] theorem State.setBlock_ports : (s.setBlock b B).ports = s.ports := rfl
@[simp] theorem State.setBlock_sends : (s.setBlock b B).sends = s.sends := rfl
@[simp] theorem State.setBlock_recvs : (s.setBlock b B).recvs = s.recvs := rfl
@[simp] theorem State.setBlock_outs : (s.setBlock b B).outs = s.outs := rfl
@[simp] theorem State.setBlock_nextReq : (s.setBlock b B).nextReq = s.nextReq := rfl
@[simp] theorem State.setBlock_wire : (s.setBlock b B).wire = s.wire := rfl
@[simp] theorem State.setBlock_atab : (s.setBlock b B).atab = s.atab := rfl
@[simp] theorem State.setBlock_asyncs : (s.setBlock b B).asyncs = s.asyncs := rfl
@[simp] theorem State.setBlock_host : (s.setBlock b B).host = s.host := rfl
@[simp] theorem State.setBlock_packagePower : (s.setBlock b B).packagePower = s.packagePower := rfl
@[simp] theorem State.setBlock_turns : (s.setBlock b B).turns = s.turns := rfl
@[simp] theorem State.setBlock_beats : (s.setBlock b B).beats = s.beats := rfl
@[simp] theorem State.setBlock_heard : (s.setBlock b B).heard = s.heard := rfl
@[simp] theorem State.setBlock_lastRoute : (s.setBlock b B).lastRoute = s.lastRoute := rfl
@[simp] theorem State.setBlock_reqs : (s.setBlock b B).reqs = s.reqs := rfl
end

section
variable (s : State) (b i : Nat) (m : Member)
@[simp] theorem State.setMember_mem : (s.setMember b i m).mem = s.mem := rfl
@[simp] theorem State.setMember_cur : (s.setMember b i m).cur = s.cur := rfl
@[simp] theorem State.setMember_agenda : (s.setMember b i m).agenda = s.agenda := rfl
@[simp] theorem State.setMember_choice : (s.setMember b i m).choice = s.choice := rfl
@[simp] theorem State.setMember_issues : (s.setMember b i m).issues = s.issues := rfl
@[simp] theorem State.setMember_reft : (s.setMember b i m).reft = s.reft := rfl
@[simp] theorem State.setMember_blocks : (s.setMember b i m).blocks = SMap.put s.blocks b ((s.block b).setMember i m) := rfl
@[simp] theorem State.setMember_nextBlock : (s.setMember b i m).nextBlock = s.nextBlock := rfl
@[simp] theorem State.setMember_grids : (s.setMember b i m).grids = s.grids := rfl
@[simp] theorem State.setMember_nextGrid : (s.setMember b i m).nextGrid = s.nextGrid := rfl
@[simp] theorem State.setMember_regions : (s.setMember b i m).regions = s.regions := rfl
@[simp] theorem State.setMember_debugs : (s.setMember b i m).debugs = s.debugs := rfl
@[simp] theorem State.setMember_cores : (s.setMember b i m).cores = s.cores := rfl
@[simp] theorem State.setMember_dies : (s.setMember b i m).dies = s.dies := rfl
@[simp] theorem State.setMember_ports : (s.setMember b i m).ports = s.ports := rfl
@[simp] theorem State.setMember_sends : (s.setMember b i m).sends = s.sends := rfl
@[simp] theorem State.setMember_recvs : (s.setMember b i m).recvs = s.recvs := rfl
@[simp] theorem State.setMember_outs : (s.setMember b i m).outs = s.outs := rfl
@[simp] theorem State.setMember_nextReq : (s.setMember b i m).nextReq = s.nextReq := rfl
@[simp] theorem State.setMember_wire : (s.setMember b i m).wire = s.wire := rfl
@[simp] theorem State.setMember_atab : (s.setMember b i m).atab = s.atab := rfl
@[simp] theorem State.setMember_asyncs : (s.setMember b i m).asyncs = s.asyncs := rfl
@[simp] theorem State.setMember_host : (s.setMember b i m).host = s.host := rfl
@[simp] theorem State.setMember_packagePower : (s.setMember b i m).packagePower = s.packagePower := rfl
@[simp] theorem State.setMember_turns : (s.setMember b i m).turns = s.turns := rfl
@[simp] theorem State.setMember_beats : (s.setMember b i m).beats = s.beats := rfl
@[simp] theorem State.setMember_heard : (s.setMember b i m).heard = s.heard := rfl
@[simp] theorem State.setMember_lastRoute : (s.setMember b i m).lastRoute = s.lastRoute := rfl
@[simp] theorem State.setMember_reqs : (s.setMember b i m).reqs = s.reqs := rfl
end

section
variable (s : State) (c : Nat) (C : CoreSt)
@[simp] theorem State.setCore_mem : (s.setCore c C).mem = s.mem := rfl
@[simp] theorem State.setCore_cur : (s.setCore c C).cur = s.cur := rfl
@[simp] theorem State.setCore_agenda : (s.setCore c C).agenda = s.agenda := rfl
@[simp] theorem State.setCore_choice : (s.setCore c C).choice = s.choice := rfl
@[simp] theorem State.setCore_issues : (s.setCore c C).issues = s.issues := rfl
@[simp] theorem State.setCore_reft : (s.setCore c C).reft = s.reft := rfl
@[simp] theorem State.setCore_blocks : (s.setCore c C).blocks = s.blocks := rfl
@[simp] theorem State.setCore_nextBlock : (s.setCore c C).nextBlock = s.nextBlock := rfl
@[simp] theorem State.setCore_grids : (s.setCore c C).grids = s.grids := rfl
@[simp] theorem State.setCore_nextGrid : (s.setCore c C).nextGrid = s.nextGrid := rfl
@[simp] theorem State.setCore_regions : (s.setCore c C).regions = s.regions := rfl
@[simp] theorem State.setCore_debugs : (s.setCore c C).debugs = s.debugs := rfl
@[simp] theorem State.setCore_cores : (s.setCore c C).cores = SMap.put s.cores c C := rfl
@[simp] theorem State.setCore_dies : (s.setCore c C).dies = s.dies := rfl
@[simp] theorem State.setCore_ports : (s.setCore c C).ports = s.ports := rfl
@[simp] theorem State.setCore_sends : (s.setCore c C).sends = s.sends := rfl
@[simp] theorem State.setCore_recvs : (s.setCore c C).recvs = s.recvs := rfl
@[simp] theorem State.setCore_outs : (s.setCore c C).outs = s.outs := rfl
@[simp] theorem State.setCore_nextReq : (s.setCore c C).nextReq = s.nextReq := rfl
@[simp] theorem State.setCore_wire : (s.setCore c C).wire = s.wire := rfl
@[simp] theorem State.setCore_atab : (s.setCore c C).atab = s.atab := rfl
@[simp] theorem State.setCore_asyncs : (s.setCore c C).asyncs = s.asyncs := rfl
@[simp] theorem State.setCore_host : (s.setCore c C).host = s.host := rfl
@[simp] theorem State.setCore_packagePower : (s.setCore c C).packagePower = s.packagePower := rfl
@[simp] theorem State.setCore_turns : (s.setCore c C).turns = s.turns := rfl
@[simp] theorem State.setCore_beats : (s.setCore c C).beats = s.beats := rfl
@[simp] theorem State.setCore_heard : (s.setCore c C).heard = s.heard := rfl
@[simp] theorem State.setCore_lastRoute : (s.setCore c C).lastRoute = s.lastRoute := rfl
@[simp] theorem State.setCore_reqs : (s.setCore c C).reqs = s.reqs := rfl
end

section
variable (s : State) (d : Nat) (D : DieSt)
@[simp] theorem State.setDie_mem : (s.setDie d D).mem = s.mem := rfl
@[simp] theorem State.setDie_cur : (s.setDie d D).cur = s.cur := rfl
@[simp] theorem State.setDie_agenda : (s.setDie d D).agenda = s.agenda := rfl
@[simp] theorem State.setDie_choice : (s.setDie d D).choice = s.choice := rfl
@[simp] theorem State.setDie_issues : (s.setDie d D).issues = s.issues := rfl
@[simp] theorem State.setDie_reft : (s.setDie d D).reft = s.reft := rfl
@[simp] theorem State.setDie_blocks : (s.setDie d D).blocks = s.blocks := rfl
@[simp] theorem State.setDie_nextBlock : (s.setDie d D).nextBlock = s.nextBlock := rfl
@[simp] theorem State.setDie_grids : (s.setDie d D).grids = s.grids := rfl
@[simp] theorem State.setDie_nextGrid : (s.setDie d D).nextGrid = s.nextGrid := rfl
@[simp] theorem State.setDie_regions : (s.setDie d D).regions = s.regions := rfl
@[simp] theorem State.setDie_debugs : (s.setDie d D).debugs = s.debugs := rfl
@[simp] theorem State.setDie_cores : (s.setDie d D).cores = s.cores := rfl
@[simp] theorem State.setDie_dies : (s.setDie d D).dies = SMap.put s.dies d D := rfl
@[simp] theorem State.setDie_ports : (s.setDie d D).ports = s.ports := rfl
@[simp] theorem State.setDie_sends : (s.setDie d D).sends = s.sends := rfl
@[simp] theorem State.setDie_recvs : (s.setDie d D).recvs = s.recvs := rfl
@[simp] theorem State.setDie_outs : (s.setDie d D).outs = s.outs := rfl
@[simp] theorem State.setDie_nextReq : (s.setDie d D).nextReq = s.nextReq := rfl
@[simp] theorem State.setDie_wire : (s.setDie d D).wire = s.wire := rfl
@[simp] theorem State.setDie_atab : (s.setDie d D).atab = s.atab := rfl
@[simp] theorem State.setDie_asyncs : (s.setDie d D).asyncs = s.asyncs := rfl
@[simp] theorem State.setDie_host : (s.setDie d D).host = s.host := rfl
@[simp] theorem State.setDie_packagePower : (s.setDie d D).packagePower = s.packagePower := rfl
@[simp] theorem State.setDie_turns : (s.setDie d D).turns = s.turns := rfl
@[simp] theorem State.setDie_beats : (s.setDie d D).beats = s.beats := rfl
@[simp] theorem State.setDie_heard : (s.setDie d D).heard = s.heard := rfl
@[simp] theorem State.setDie_lastRoute : (s.setDie d D).lastRoute = s.lastRoute := rfl
@[simp] theorem State.setDie_reqs : (s.setDie d D).reqs = s.reqs := rfl
end

section
variable (s : State) (g : Nat) (G : Grid)
@[simp] theorem State.setGrid_mem : (s.setGrid g G).mem = s.mem := rfl
@[simp] theorem State.setGrid_cur : (s.setGrid g G).cur = s.cur := rfl
@[simp] theorem State.setGrid_agenda : (s.setGrid g G).agenda = s.agenda := rfl
@[simp] theorem State.setGrid_choice : (s.setGrid g G).choice = s.choice := rfl
@[simp] theorem State.setGrid_issues : (s.setGrid g G).issues = s.issues := rfl
@[simp] theorem State.setGrid_reft : (s.setGrid g G).reft = s.reft := rfl
@[simp] theorem State.setGrid_blocks : (s.setGrid g G).blocks = s.blocks := rfl
@[simp] theorem State.setGrid_nextBlock : (s.setGrid g G).nextBlock = s.nextBlock := rfl
@[simp] theorem State.setGrid_grids : (s.setGrid g G).grids = SMap.put s.grids g G := rfl
@[simp] theorem State.setGrid_nextGrid : (s.setGrid g G).nextGrid = s.nextGrid := rfl
@[simp] theorem State.setGrid_regions : (s.setGrid g G).regions = s.regions := rfl
@[simp] theorem State.setGrid_debugs : (s.setGrid g G).debugs = s.debugs := rfl
@[simp] theorem State.setGrid_cores : (s.setGrid g G).cores = s.cores := rfl
@[simp] theorem State.setGrid_dies : (s.setGrid g G).dies = s.dies := rfl
@[simp] theorem State.setGrid_ports : (s.setGrid g G).ports = s.ports := rfl
@[simp] theorem State.setGrid_sends : (s.setGrid g G).sends = s.sends := rfl
@[simp] theorem State.setGrid_recvs : (s.setGrid g G).recvs = s.recvs := rfl
@[simp] theorem State.setGrid_outs : (s.setGrid g G).outs = s.outs := rfl
@[simp] theorem State.setGrid_nextReq : (s.setGrid g G).nextReq = s.nextReq := rfl
@[simp] theorem State.setGrid_wire : (s.setGrid g G).wire = s.wire := rfl
@[simp] theorem State.setGrid_atab : (s.setGrid g G).atab = s.atab := rfl
@[simp] theorem State.setGrid_asyncs : (s.setGrid g G).asyncs = s.asyncs := rfl
@[simp] theorem State.setGrid_host : (s.setGrid g G).host = s.host := rfl
@[simp] theorem State.setGrid_packagePower : (s.setGrid g G).packagePower = s.packagePower := rfl
@[simp] theorem State.setGrid_turns : (s.setGrid g G).turns = s.turns := rfl
@[simp] theorem State.setGrid_beats : (s.setGrid g G).beats = s.beats := rfl
@[simp] theorem State.setGrid_heard : (s.setGrid g G).heard = s.heard := rfl
@[simp] theorem State.setGrid_lastRoute : (s.setGrid g G).lastRoute = s.lastRoute := rfl
@[simp] theorem State.setGrid_reqs : (s.setGrid g G).reqs = s.reqs := rfl
end

section
variable (s : State) (r : Nat) (R : Region)
@[simp] theorem State.setRegion_mem : (s.setRegion r R).mem = s.mem := rfl
@[simp] theorem State.setRegion_cur : (s.setRegion r R).cur = s.cur := rfl
@[simp] theorem State.setRegion_agenda : (s.setRegion r R).agenda = s.agenda := rfl
@[simp] theorem State.setRegion_choice : (s.setRegion r R).choice = s.choice := rfl
@[simp] theorem State.setRegion_issues : (s.setRegion r R).issues = s.issues := rfl
@[simp] theorem State.setRegion_reft : (s.setRegion r R).reft = s.reft := rfl
@[simp] theorem State.setRegion_blocks : (s.setRegion r R).blocks = s.blocks := rfl
@[simp] theorem State.setRegion_nextBlock : (s.setRegion r R).nextBlock = s.nextBlock := rfl
@[simp] theorem State.setRegion_grids : (s.setRegion r R).grids = s.grids := rfl
@[simp] theorem State.setRegion_nextGrid : (s.setRegion r R).nextGrid = s.nextGrid := rfl
@[simp] theorem State.setRegion_regions : (s.setRegion r R).regions = SMap.put s.regions r R := rfl
@[simp] theorem State.setRegion_debugs : (s.setRegion r R).debugs = s.debugs := rfl
@[simp] theorem State.setRegion_cores : (s.setRegion r R).cores = s.cores := rfl
@[simp] theorem State.setRegion_dies : (s.setRegion r R).dies = s.dies := rfl
@[simp] theorem State.setRegion_ports : (s.setRegion r R).ports = s.ports := rfl
@[simp] theorem State.setRegion_sends : (s.setRegion r R).sends = s.sends := rfl
@[simp] theorem State.setRegion_recvs : (s.setRegion r R).recvs = s.recvs := rfl
@[simp] theorem State.setRegion_outs : (s.setRegion r R).outs = s.outs := rfl
@[simp] theorem State.setRegion_nextReq : (s.setRegion r R).nextReq = s.nextReq := rfl
@[simp] theorem State.setRegion_wire : (s.setRegion r R).wire = s.wire := rfl
@[simp] theorem State.setRegion_atab : (s.setRegion r R).atab = s.atab := rfl
@[simp] theorem State.setRegion_asyncs : (s.setRegion r R).asyncs = s.asyncs := rfl
@[simp] theorem State.setRegion_host : (s.setRegion r R).host = s.host := rfl
@[simp] theorem State.setRegion_packagePower : (s.setRegion r R).packagePower = s.packagePower := rfl
@[simp] theorem State.setRegion_turns : (s.setRegion r R).turns = s.turns := rfl
@[simp] theorem State.setRegion_beats : (s.setRegion r R).beats = s.beats := rfl
@[simp] theorem State.setRegion_heard : (s.setRegion r R).heard = s.heard := rfl
@[simp] theorem State.setRegion_lastRoute : (s.setRegion r R).lastRoute = s.lastRoute := rfl
@[simp] theorem State.setRegion_reqs : (s.setRegion r R).reqs = s.reqs := rfl
end

section
variable (s : State) (r : Nat) (D : Debug)
@[simp] theorem State.setDebug_mem : (s.setDebug r D).mem = s.mem := rfl
@[simp] theorem State.setDebug_cur : (s.setDebug r D).cur = s.cur := rfl
@[simp] theorem State.setDebug_agenda : (s.setDebug r D).agenda = s.agenda := rfl
@[simp] theorem State.setDebug_choice : (s.setDebug r D).choice = s.choice := rfl
@[simp] theorem State.setDebug_issues : (s.setDebug r D).issues = s.issues := rfl
@[simp] theorem State.setDebug_reft : (s.setDebug r D).reft = s.reft := rfl
@[simp] theorem State.setDebug_blocks : (s.setDebug r D).blocks = s.blocks := rfl
@[simp] theorem State.setDebug_nextBlock : (s.setDebug r D).nextBlock = s.nextBlock := rfl
@[simp] theorem State.setDebug_grids : (s.setDebug r D).grids = s.grids := rfl
@[simp] theorem State.setDebug_nextGrid : (s.setDebug r D).nextGrid = s.nextGrid := rfl
@[simp] theorem State.setDebug_regions : (s.setDebug r D).regions = s.regions := rfl
@[simp] theorem State.setDebug_debugs : (s.setDebug r D).debugs = SMap.put s.debugs r D := rfl
@[simp] theorem State.setDebug_cores : (s.setDebug r D).cores = s.cores := rfl
@[simp] theorem State.setDebug_dies : (s.setDebug r D).dies = s.dies := rfl
@[simp] theorem State.setDebug_ports : (s.setDebug r D).ports = s.ports := rfl
@[simp] theorem State.setDebug_sends : (s.setDebug r D).sends = s.sends := rfl
@[simp] theorem State.setDebug_recvs : (s.setDebug r D).recvs = s.recvs := rfl
@[simp] theorem State.setDebug_outs : (s.setDebug r D).outs = s.outs := rfl
@[simp] theorem State.setDebug_nextReq : (s.setDebug r D).nextReq = s.nextReq := rfl
@[simp] theorem State.setDebug_wire : (s.setDebug r D).wire = s.wire := rfl
@[simp] theorem State.setDebug_atab : (s.setDebug r D).atab = s.atab := rfl
@[simp] theorem State.setDebug_asyncs : (s.setDebug r D).asyncs = s.asyncs := rfl
@[simp] theorem State.setDebug_host : (s.setDebug r D).host = s.host := rfl
@[simp] theorem State.setDebug_packagePower : (s.setDebug r D).packagePower = s.packagePower := rfl
@[simp] theorem State.setDebug_turns : (s.setDebug r D).turns = s.turns := rfl
@[simp] theorem State.setDebug_beats : (s.setDebug r D).beats = s.beats := rfl
@[simp] theorem State.setDebug_heard : (s.setDebug r D).heard = s.heard := rfl
@[simp] theorem State.setDebug_lastRoute : (s.setDebug r D).lastRoute = s.lastRoute := rfl
@[simp] theorem State.setDebug_reqs : (s.setDebug r D).reqs = s.reqs := rfl
end

section
variable (s : State) (p : Nat) (P : PortSt)
@[simp] theorem State.setPort_mem : (s.setPort p P).mem = s.mem := rfl
@[simp] theorem State.setPort_cur : (s.setPort p P).cur = s.cur := rfl
@[simp] theorem State.setPort_agenda : (s.setPort p P).agenda = s.agenda := rfl
@[simp] theorem State.setPort_choice : (s.setPort p P).choice = s.choice := rfl
@[simp] theorem State.setPort_issues : (s.setPort p P).issues = s.issues := rfl
@[simp] theorem State.setPort_reft : (s.setPort p P).reft = s.reft := rfl
@[simp] theorem State.setPort_blocks : (s.setPort p P).blocks = s.blocks := rfl
@[simp] theorem State.setPort_nextBlock : (s.setPort p P).nextBlock = s.nextBlock := rfl
@[simp] theorem State.setPort_grids : (s.setPort p P).grids = s.grids := rfl
@[simp] theorem State.setPort_nextGrid : (s.setPort p P).nextGrid = s.nextGrid := rfl
@[simp] theorem State.setPort_regions : (s.setPort p P).regions = s.regions := rfl
@[simp] theorem State.setPort_debugs : (s.setPort p P).debugs = s.debugs := rfl
@[simp] theorem State.setPort_cores : (s.setPort p P).cores = s.cores := rfl
@[simp] theorem State.setPort_dies : (s.setPort p P).dies = s.dies := rfl
@[simp] theorem State.setPort_ports : (s.setPort p P).ports = SMap.put s.ports p P := rfl
@[simp] theorem State.setPort_sends : (s.setPort p P).sends = s.sends := rfl
@[simp] theorem State.setPort_recvs : (s.setPort p P).recvs = s.recvs := rfl
@[simp] theorem State.setPort_outs : (s.setPort p P).outs = s.outs := rfl
@[simp] theorem State.setPort_nextReq : (s.setPort p P).nextReq = s.nextReq := rfl
@[simp] theorem State.setPort_wire : (s.setPort p P).wire = s.wire := rfl
@[simp] theorem State.setPort_atab : (s.setPort p P).atab = s.atab := rfl
@[simp] theorem State.setPort_asyncs : (s.setPort p P).asyncs = s.asyncs := rfl
@[simp] theorem State.setPort_host : (s.setPort p P).host = s.host := rfl
@[simp] theorem State.setPort_packagePower : (s.setPort p P).packagePower = s.packagePower := rfl
@[simp] theorem State.setPort_turns : (s.setPort p P).turns = s.turns := rfl
@[simp] theorem State.setPort_beats : (s.setPort p P).beats = s.beats := rfl
@[simp] theorem State.setPort_heard : (s.setPort p P).heard = s.heard := rfl
@[simp] theorem State.setPort_lastRoute : (s.setPort p P).lastRoute = s.lastRoute := rfl
@[simp] theorem State.setPort_reqs : (s.setPort p P).reqs = s.reqs := rfl
end

section
variable (s : State) (b : Nat) (B : Block) (n : Nat)
@[simp] theorem State.setBlock_core_at : (s.setBlock b B).core n = s.core n := rfl
@[simp] theorem State.setBlock_die_at : (s.setBlock b B).die n = s.die n := rfl
@[simp] theorem State.setBlock_grid_at : (s.setBlock b B).grid n = s.grid n := rfl
@[simp] theorem State.setBlock_region_at : (s.setBlock b B).region n = s.region n := rfl
@[simp] theorem State.setBlock_debug_at : (s.setBlock b B).debug n = s.debug n := rfl
@[simp] theorem State.setBlock_port_at : (s.setBlock b B).port n = s.port n := rfl
end

section
variable (s : State) (b i : Nat) (m : Member) (n : Nat)
@[simp] theorem State.setMember_core_at : (s.setMember b i m).core n = s.core n := rfl
@[simp] theorem State.setMember_die_at : (s.setMember b i m).die n = s.die n := rfl
@[simp] theorem State.setMember_grid_at : (s.setMember b i m).grid n = s.grid n := rfl
@[simp] theorem State.setMember_region_at : (s.setMember b i m).region n = s.region n := rfl
@[simp] theorem State.setMember_debug_at : (s.setMember b i m).debug n = s.debug n := rfl
@[simp] theorem State.setMember_port_at : (s.setMember b i m).port n = s.port n := rfl
end

section
variable (s : State) (c : Nat) (C : CoreSt) (n : Nat)
@[simp] theorem State.setCore_block_at : (s.setCore c C).block n = s.block n := rfl
@[simp] theorem State.setCore_die_at : (s.setCore c C).die n = s.die n := rfl
@[simp] theorem State.setCore_grid_at : (s.setCore c C).grid n = s.grid n := rfl
@[simp] theorem State.setCore_region_at : (s.setCore c C).region n = s.region n := rfl
@[simp] theorem State.setCore_debug_at : (s.setCore c C).debug n = s.debug n := rfl
@[simp] theorem State.setCore_port_at : (s.setCore c C).port n = s.port n := rfl
@[simp] theorem State.setCore_member_at (k : Nat) : (s.setCore c C).member n k = s.member n k := rfl
end

section
variable (s : State) (d : Nat) (D : DieSt) (n : Nat)
@[simp] theorem State.setDie_block_at : (s.setDie d D).block n = s.block n := rfl
@[simp] theorem State.setDie_core_at : (s.setDie d D).core n = s.core n := rfl
@[simp] theorem State.setDie_grid_at : (s.setDie d D).grid n = s.grid n := rfl
@[simp] theorem State.setDie_region_at : (s.setDie d D).region n = s.region n := rfl
@[simp] theorem State.setDie_debug_at : (s.setDie d D).debug n = s.debug n := rfl
@[simp] theorem State.setDie_port_at : (s.setDie d D).port n = s.port n := rfl
@[simp] theorem State.setDie_member_at (k : Nat) : (s.setDie d D).member n k = s.member n k := rfl
end

section
variable (s : State) (g : Nat) (G : Grid) (n : Nat)
@[simp] theorem State.setGrid_block_at : (s.setGrid g G).block n = s.block n := rfl
@[simp] theorem State.setGrid_core_at : (s.setGrid g G).core n = s.core n := rfl
@[simp] theorem State.setGrid_die_at : (s.setGrid g G).die n = s.die n := rfl
@[simp] theorem State.setGrid_region_at : (s.setGrid g G).region n = s.region n := rfl
@[simp] theorem State.setGrid_debug_at : (s.setGrid g G).debug n = s.debug n := rfl
@[simp] theorem State.setGrid_port_at : (s.setGrid g G).port n = s.port n := rfl
@[simp] theorem State.setGrid_member_at (k : Nat) : (s.setGrid g G).member n k = s.member n k := rfl
end

section
variable (s : State) (r : Nat) (R : Region) (n : Nat)
@[simp] theorem State.setRegion_block_at : (s.setRegion r R).block n = s.block n := rfl
@[simp] theorem State.setRegion_core_at : (s.setRegion r R).core n = s.core n := rfl
@[simp] theorem State.setRegion_die_at : (s.setRegion r R).die n = s.die n := rfl
@[simp] theorem State.setRegion_grid_at : (s.setRegion r R).grid n = s.grid n := rfl
@[simp] theorem State.setRegion_debug_at : (s.setRegion r R).debug n = s.debug n := rfl
@[simp] theorem State.setRegion_port_at : (s.setRegion r R).port n = s.port n := rfl
@[simp] theorem State.setRegion_member_at (k : Nat) : (s.setRegion r R).member n k = s.member n k := rfl
end

section
variable (s : State) (r : Nat) (D : Debug) (n : Nat)
@[simp] theorem State.setDebug_block_at : (s.setDebug r D).block n = s.block n := rfl
@[simp] theorem State.setDebug_core_at : (s.setDebug r D).core n = s.core n := rfl
@[simp] theorem State.setDebug_die_at : (s.setDebug r D).die n = s.die n := rfl
@[simp] theorem State.setDebug_grid_at : (s.setDebug r D).grid n = s.grid n := rfl
@[simp] theorem State.setDebug_region_at : (s.setDebug r D).region n = s.region n := rfl
@[simp] theorem State.setDebug_port_at : (s.setDebug r D).port n = s.port n := rfl
@[simp] theorem State.setDebug_member_at (k : Nat) : (s.setDebug r D).member n k = s.member n k := rfl
end

section
variable (s : State) (p : Nat) (P : PortSt) (n : Nat)
@[simp] theorem State.setPort_block_at : (s.setPort p P).block n = s.block n := rfl
@[simp] theorem State.setPort_core_at : (s.setPort p P).core n = s.core n := rfl
@[simp] theorem State.setPort_die_at : (s.setPort p P).die n = s.die n := rfl
@[simp] theorem State.setPort_grid_at : (s.setPort p P).grid n = s.grid n := rfl
@[simp] theorem State.setPort_region_at : (s.setPort p P).region n = s.region n := rfl
@[simp] theorem State.setPort_debug_at : (s.setPort p P).debug n = s.debug n := rfl
@[simp] theorem State.setPort_member_at (k : Nat) : (s.setPort p P).member n k = s.member n k := rfl
end

section
variable (B : Block) (i : Nat) (m : Member)
@[simp] theorem Block.setMember_grid : (B.setMember i m).grid = B.grid := rfl
@[simp] theorem Block.setMember_stage : (B.setMember i m).stage = B.stage := rfl
@[simp] theorem Block.setMember_blk : (B.setMember i m).blk = B.blk := rfl
@[simp] theorem Block.setMember_region : (B.setMember i m).region = B.region := rfl
@[simp] theorem Block.setMember_core : (B.setMember i m).core = B.core := rfl
@[simp] theorem Block.setMember_triad : (B.setMember i m).triad = B.triad := rfl
@[simp] theorem Block.setMember_tb : (B.setMember i m).tb = B.tb := rfl
@[simp] theorem Block.setMember_members : (B.setMember i m).members = SMap.put B.members i m := rfl
@[simp] theorem Block.setMember_k : (B.setMember i m).k = B.k := rfl
@[simp] theorem Block.setMember_sh : (B.setMember i m).sh = B.sh := rfl
@[simp] theorem Block.setMember_buf : (B.setMember i m).buf = B.buf := rfl
@[simp] theorem Block.setMember_spad : (B.setMember i m).spad = B.spad := rfl
@[simp] theorem Block.setMember_full : (B.setMember i m).full = B.full := rfl
@[simp] theorem Block.setMember_own : (B.setMember i m).own = B.own := rfl
@[simp] theorem Block.setMember_spadBase : (B.setMember i m).spadBase = B.spadBase := rfl
@[simp] theorem Block.setMember_spadSize : (B.setMember i m).spadSize = B.spadSize := rfl
@[simp] theorem Block.setMember_lsSize : (B.setMember i m).lsSize = B.lsSize := rfl
@[simp] theorem Block.setMember_tagN : (B.setMember i m).tagN = B.tagN := rfl
@[simp] theorem Block.setMember_tags : (B.setMember i m).tags = B.tags := rfl
@[simp] theorem Block.setMember_tagStat : (B.setMember i m).tagStat = B.tagStat := rfl
@[simp] theorem Block.setMember_sample : (B.setMember i m).sample = B.sample := rfl
@[simp] theorem Block.setMember_shChanged : (B.setMember i m).shChanged = B.shChanged := rfl
@[simp] theorem Block.setMember_state : (B.setMember i m).state = B.state := rfl
@[simp] theorem Block.setMember_handler : (B.setMember i m).handler = B.handler := rfl
@[simp] theorem Block.setMember_placed : (B.setMember i m).placed = B.placed := rfl
@[simp] theorem Block.setMember_paid : (B.setMember i m).paid = B.paid := rfl
@[simp] theorem Block.setMember_sliceEnded : (B.setMember i m).sliceEnded = B.sliceEnded := rfl
@[simp] theorem Block.setMember_called : (B.setMember i m).called = B.called := rfl
@[simp] theorem Block.setMember_arrLen : (B.setMember i m).arrLen = B.arrLen := rfl
@[simp] theorem Block.setMember_course : (B.setMember i m).course = B.course := rfl
@[simp] theorem Block.setMember_rgnEnd : (B.setMember i m).rgnEnd = B.rgnEnd := rfl
@[simp] theorem Block.setMember_dbg : (B.setMember i m).dbg = B.dbg := rfl
end

end Sys2Proof.Machine
end

