-- ==== Sys2Proof/Laws/Store.lean ====
section
/-!
SUPPORT. Reading after writing in sparse maps and in memory, and that every memory operation keeps the canonical form.
-/
namespace Sys2Proof.Machine

theorem lookup_append {α : Type} (l m : SMap α) (j : Nat) :
    (l ++ m).lookup j = (l.lookup j).or (m.lookup j) := by
  induction l with
  | nil => simp
  | cons e r ih =>
    obtain ⟨k, v⟩ := e
    by_cases h : j = k
    · simp [h]
    · have : (j == k) = false := by simpa using h
      simp [List.lookup_cons, this, ih]

theorem lookup_filter {α : Type} (m : SMap α) (p : Nat → Bool) (j : Nat) :
    (m.filter (fun e => p e.1)).lookup j = if p j then m.lookup j else none := by
  induction m with
  | nil => simp
  | cons e r ih =>
    obtain ⟨k, v⟩ := e
    by_cases h : j = k
    · subst h
      by_cases hp : p j <;> simp [hp, ih]
    · have hk : (j == k) = false := by simpa using h
      by_cases hp : p k <;> simp [hp, ih, List.lookup_cons, hk]

theorem SMap.lookup_put {α : Type} (m : SMap α) (k : Nat) (v : α) (j : Nat) :
    (SMap.put m k v).lookup j = if j = k then some v else m.lookup j := by
  unfold SMap.put SMap.below SMap.from
  rw [lookup_append, lookup_filter m (fun n => decide (n < k)), List.lookup_cons,
    lookup_filter m (fun n => decide (k + 1 ≤ n))]
  by_cases h : j = k
  · simp [h]
  · have hk : (j == k) = false := by simpa using h
    by_cases hl : j < k
    · have : ¬ (k + 1 ≤ j) := by omega
      simp [hl, h, hk, this]
    · have : k + 1 ≤ j := by omega
      simp [hl, h, hk, this]

theorem SMap.lookup_del {α : Type} (m : SMap α) (k j : Nat) :
    (SMap.del m k).lookup j = if j = k then none else m.lookup j := by
  unfold SMap.del SMap.below SMap.from
  rw [lookup_append, lookup_filter m (fun n => decide (n < k)), lookup_filter m (fun n => decide (k + 1 ≤ n))]
  by_cases h : j = k
  · have : ¬ (k + 1 ≤ k) := by omega
    rw [if_neg (by simp; omega), if_neg (by simp; omega), if_pos h]; rfl
  · by_cases hl : j < k
    · have : ¬ (k + 1 ≤ j) := by omega
      simp [hl, h, this]
    · have : k + 1 ≤ j := by omega
      simp [hl, h, this]

@[simp] theorem SMap.get_put {α : Type} (d : α) (m : SMap α) (k : Nat) (v : α) (j : Nat) :
    SMap.get d (SMap.put m k v) j = if j = k then v else SMap.get d m j := by
  unfold SMap.get
  rw [SMap.lookup_put]
  split <;> simp

@[simp] theorem SMap.get_del {α : Type} (d : α) (m : SMap α) (k j : Nat) :
    SMap.get d (SMap.del m k) j = if j = k then d else SMap.get d m j := by
  unfold SMap.get
  rw [SMap.lookup_del]
  split <;> simp

@[simp] theorem SMap.get_set {α : Type} [DecidableEq α] (d : α) (m : SMap α) (k : Nat) (v : α) (j : Nat) :
    SMap.get d (SMap.set d m k v) j = if j = k then v else SMap.get d m j := by
  unfold SMap.set
  split
  · next h => rw [SMap.get_del]; simp [h]
  · simp

@[simp] theorem SMap.get_nil {α : Type} (d : α) (k : Nat) : SMap.get d [] k = d := rfl

section
variable (s : State) (n : Nat)
@[simp] theorem State.setBlock_block (b : Nat) (B : Block) : (s.setBlock b B).block n = if n = b then B else s.block n := by
  simp [State.block]
@[simp] theorem State.setMember_block (b i : Nat) (m : Member) :
    (s.setMember b i m).block n = if n = b then (s.block b).setMember i m else s.block n := by
  simp [State.setMember]
@[simp] theorem Block.setMember_member (B : Block) (i : Nat) (m : Member) (j : Nat) :
    (B.setMember i m).member j = if j = i then m else B.member j := by
  simp [Block.member]
@[simp] theorem State.setMember_member (b i : Nat) (m : Member) (c j : Nat) :
    (s.setMember b i m).member c j = if c = b ∧ j = i then m else s.member c j := by
  by_cases h : c = b <;> simp [State.member, h]
@[simp] theorem State.setCore_core (c : Nat) (C : CoreSt) : (s.setCore c C).core n = if n = c then C else s.core n := by
  simp [State.core]
@[simp] theorem State.setDie_die (d : Nat) (D : DieSt) : (s.setDie d D).die n = if n = d then D else s.die n := by
  simp [State.die]
@[simp] theorem State.setGrid_grid (g : Nat) (G : Grid) : (s.setGrid g G).grid n = if n = g then G else s.grid n := by
  simp [State.grid]
@[simp] theorem State.setRegion_region (r : Nat) (R : Region) :
    (s.setRegion r R).region n = if n = r then R else s.region n := by
  simp [State.region]
@[simp] theorem State.setDebug_debug (r : Nat) (D : Debug) : (s.setDebug r D).debug n = if n = r then D else s.debug n := by
  simp [State.debug]
@[simp] theorem State.setPort_port (p : Nat) (P : PortSt) : (s.setPort p P).port n = if n = p then P else s.port n := by
  simp [State.port]
end

/-! Memory. -/

theorem lookup_memEntries (bs : List Byte) (a j : Nat) :
    (memEntries a bs).lookup j =
      if a ≤ j ∧ j < a + bs.length ∧ bs.getD (j - a) 0 ≠ memDefault j then some (bs.getD (j - a) 0) else none := by
  induction bs generalizing a with
  | nil =>
    have : ¬ (a ≤ j ∧ j < a + 0) := by omega
    simp only [memEntries, List.lookup_nil, List.length_nil]
    rw [if_neg]; rintro ⟨h1, h2, -⟩; exact this ⟨h1, h2⟩
  | cons b r ih =>
    simp only [memEntries]
    by_cases hj : j = a
    · subst hj
      by_cases hb : b = memDefault j
      · have : ¬ (j + 1 ≤ j) := by omega
        simp [hb, ih, this]
      · have : (b == memDefault j) = false := by simpa using hb
        simp [hb]
    · have hk : (j == a) = false := by simpa using hj
      have e : (memEntries a (b :: r)).lookup j = (memEntries (a + 1) r).lookup j := by
        simp only [memEntries]; split <;> simp [List.lookup_cons, hk]
      have e' : (if b = memDefault a then memEntries (a + 1) r else (a, b) :: memEntries (a + 1) r).lookup j =
          (memEntries (a + 1) r).lookup j := e
      rw [e', ih]
      by_cases hlt : a ≤ j
      · have h1 : j - a = (j - (a + 1)) + 1 := by omega
        have h2 : a + 1 ≤ j := by omega
        have h3 : (j < a + 1 + r.length) = (j < a + (b :: r).length) := by simp; omega
        rw [h1]; simp only [List.getD_cons_succ, hlt, h2, h3, true_and]
      · have : ¬ (a + 1 ≤ j) := by omega
        simp [hlt, this]

/-- Reading a byte after a write: the written byte inside the range, the old byte outside. -/
theorem Memory.byte_write (m : Memory) (a : Nat) (bs : List Byte) (j : Nat) :
    Memory.byte (Memory.write m a bs) j =
      if a ≤ j ∧ j < a + bs.length then bs.getD (j - a) 0 else Memory.byte m j := by
  unfold Memory.byte Memory.write
  have l1 := lookup_filter m (fun n => decide (n < a)) j
  have l2 := lookup_filter m (fun n => decide (a + bs.length ≤ n)) j
  rw [lookup_append, lookup_append, l1, l2, lookup_memEntries]
  by_cases h1 : j < a
  · have : ¬ (a ≤ j) := by omega
    have h3 : ¬ (a + bs.length ≤ j) := by omega
    simp [h1, this, h3]
  · by_cases h2 : j < a + bs.length
    · have h3 : a ≤ j := by omega
      have h4 : ¬ (a + bs.length ≤ j) := by omega
      by_cases hd : bs.getD (j - a) 0 = memDefault j
      · rw [if_neg (by simpa using h1), if_neg (fun h => h.2.2 hd), if_neg (by simpa using h4)]
        show memDefault j = _
        rw [if_pos ⟨h3, h2⟩, hd]
      · rw [if_neg (by simpa using h1), if_pos ⟨h3, h2, hd⟩]
        rw [if_pos (⟨h3, h2⟩ : a ≤ j ∧ j < a + bs.length)]
        rw [Option.none_or, Option.some_or, Option.getD_some]
    · have h3 : a + bs.length ≤ j := by omega
      simp [h1, h2, h3]

theorem Memory.byte_write_outside (m : Memory) (a : Nat) (bs : List Byte) (j : Nat) (h : j < a ∨ a + bs.length ≤ j) :
    Memory.byte (Memory.write m a bs) j = Memory.byte m j := by
  rw [Memory.byte_write, if_neg]; omega

/-! Byte order. -/

theorem leNat_lt (bs : List Byte) : leNat bs < 2 ^ (8 * bs.length) := by
  induction bs with
  | nil => simp [leNat]
  | cons b r ih =>
    have := b.isLt
    simp only [leNat, List.length_cons, Nat.mul_add, Nat.pow_add]
    omega

theorem leBytes_length (n v : Nat) : (leBytes n v).length = n := by
  induction n generalizing v with
  | zero => rfl
  | succ n ih => simp [leBytes, ih]

theorem leNat_leBytes (n v : Nat) : leNat (leBytes n v) = v % 2 ^ (8 * n) := by
  induction n generalizing v with
  | zero => simp [leBytes, leNat, Nat.mod_one]
  | succ n ih =>
    simp only [leBytes, leNat, ih, BitVec.toNat_ofNat, Nat.mul_add, Nat.pow_add]
    rw [Nat.mul_comm (2 ^ (8 * n)), Nat.mod_mul]

theorem leBytes_leNat (bs : List Byte) : leBytes bs.length (leNat bs) = bs := by
  induction bs with
  | nil => rfl
  | cons b r ih =>
    have := b.isLt
    have h1 : (b.toNat + 256 * leNat r) / 256 = leNat r := by omega
    simp only [leNat, List.length_cons, leBytes, h1, ih]
    congr 1
    apply BitVec.eq_of_toNat_eq
    simp; omega

theorem storeRead_length (m : SMap Byte) (a n : Nat) : (storeRead m a n).length = n := by
  induction n generalizing a with
  | zero => rfl
  | succ n ih => simp [storeRead, ih]

theorem Memory.read_length (m : Memory) (a n : Nat) : (Memory.read m a n).length = n := by
  induction n generalizing a with
  | zero => rfl
  | succ n ih => simp [Memory.read, ih]

theorem Memory.read_congr (m k : Memory) (a n : Nat) (h : ∀ j, a ≤ j → j < a + n → m.byte j = k.byte j) :
    Memory.read m a n = Memory.read k a n := by
  induction n generalizing a with
  | zero => rfl
  | succ n ih =>
    simp only [Memory.read]
    rw [h a (by omega) (by omega), ih (a + 1) (fun j h1 h2 => h j (by omega) (by omega))]

theorem Memory.read_eq (m : Memory) (a : Nat) (bs : List Byte)
    (h : ∀ k (hk : k < bs.length), m.byte (a + k) = bs[k]) : Memory.read m a bs.length = bs := by
  induction bs generalizing a with
  | nil => rfl
  | cons b r ih =>
    simp only [Memory.read, List.length_cons]
    rw [ih (a + 1) (fun k hk => by have := h (k + 1) (by simpa using hk); simpa [Nat.add_assoc, Nat.add_comm 1] using this)]
    have := h 0 (by simp)
    simpa using this

theorem Memory.read_write (m : Memory) (a : Nat) (bs : List Byte) : Memory.read (Memory.write m a bs) a bs.length = bs := by
  apply Memory.read_eq
  intro k hk
  rw [Memory.byte_write]
  simp [hk]

theorem canonical_append (d : Nat → Byte) (l r : Memory) (k : Nat) (hl : Memory.canonical d l = true)
    (hr : Memory.canonical d r = true) (h1 : ∀ e ∈ l, e.1 < k) (h2 : ∀ e ∈ r, k ≤ e.1) :
    Memory.canonical d (l ++ r) = true := by
  induction l with
  | nil => simpa using hr
  | cons e t ih =>
    obtain ⟨n, v⟩ := e
    simp only [Memory.canonical, Bool.and_eq_true, List.all_eq_true, decide_eq_true_eq] at hl
    simp only [List.cons_append, Memory.canonical, Bool.and_eq_true, List.all_eq_true, decide_eq_true_eq]
    refine ⟨⟨hl.1.1, ?_⟩, ih hl.2 (fun e he => h1 e (List.mem_cons_of_mem _ he))⟩
    intro x hx
    rcases List.mem_append.mp hx with hx | hx
    · exact hl.1.2 x hx
    · exact Nat.lt_of_lt_of_le (h1 (n, v) (List.mem_cons_self ..)) (h2 x hx)

theorem canonical_filter (d : Nat → Byte) (p : Host.Cell → Bool) (l : Memory) (hl : Memory.canonical d l = true) :
    Memory.canonical d (l.filter p) = true := by
  induction l with
  | nil => rfl
  | cons e t ih =>
    obtain ⟨n, v⟩ := e
    simp only [Memory.canonical, Bool.and_eq_true, List.all_eq_true, decide_eq_true_eq] at hl
    by_cases h : p (n, v)
    · rw [List.filter_cons_of_pos h]
      simp only [Memory.canonical, Bool.and_eq_true, List.all_eq_true, decide_eq_true_eq]
      exact ⟨⟨hl.1.1, fun x hx => hl.1.2 x (List.mem_filter.mp hx).1⟩, ih hl.2⟩
    · rw [List.filter_cons_of_neg h]; exact ih hl.2

theorem memEntries_range (bs : List Byte) (a : Nat) : ∀ e ∈ memEntries a bs, a ≤ e.1 ∧ e.1 < a + bs.length := by
  induction bs generalizing a with
  | nil => simp [memEntries]
  | cons b r ih =>
    intro e he
    have key : e = (a, b) ∨ e ∈ memEntries (a + 1) r := by
      simp only [memEntries] at he
      split at he
      · exact .inr he
      · simpa using he
    rcases key with rfl | h
    · simp
    · have := ih (a + 1) e h; simp only [List.length_cons]; omega

theorem memEntries_canonical (bs : List Byte) (a : Nat) : Memory.wf (memEntries a bs) = true := by
  unfold Memory.wf
  induction bs generalizing a with
  | nil => rfl
  | cons b r ih =>
    simp only [memEntries]
    split
    · exact ih (a + 1)
    · next h =>
      simp only [Memory.canonical, Bool.and_eq_true, List.all_eq_true, decide_eq_true_eq]
      refine ⟨⟨by simpa using h, ?_⟩, ih (a + 1)⟩
      intro e he
      have := memEntries_range r (a + 1) e he
      omega

/-- A write keeps the canonical form. -/
theorem Memory.wf_write (m : Memory) (a : Nat) (bs : List Byte) (h : Memory.wf m = true) :
    Memory.wf (Memory.write m a bs) = true := by
  unfold Memory.write
  refine canonical_append _ _ _ (a + bs.length) (canonical_append _ _ _ a (canonical_filter _ _ _ h) (memEntries_canonical bs a)
    ?_ ?_) (canonical_filter _ _ _ h) ?_ ?_
  · intro e he; simpa using (List.mem_filter.mp he).2
  · intro e he; exact (memEntries_range bs a e he).1
  · intro e he
    rcases List.mem_append.mp he with he | he
    · have : e.1 < a := by simpa using (List.mem_filter.mp he).2
      omega
    · exact (memEntries_range bs a e he).2
  · intro e he; simpa using (List.mem_filter.mp he).2

/-- Keeping part of memory keeps the canonical form. -/
theorem Memory.wf_filter (p : Host.Cell → Bool) (m : Memory) (h : Memory.wf m = true) : Memory.wf (m.filter p) = true :=
  canonical_filter _ p m h

theorem State.reset_mem_wf : Memory.wf State.reset.mem = true := rfl

end Sys2Proof.Machine
end

