-- ==== Sys2Proof/Laws/Access.lean ====
section
/-!
SUPPORT. What memory accesses leave unchanged: translation, checks, reads and writes of the caches, counters and range accesses
touch no block, grid, region, port or stream; reads and checks leave memory as it is.
-/
namespace Sys2Proof.Machine

/-- `t` differs from `s` at most in memory, cores, dies, the package's power, free values taken, requests noted and debug counters. -/
structure Keeps (s t : State) : Prop where
  blocks : t.blocks = s.blocks
  grids : t.grids = s.grids
  regions : t.regions = s.regions
  ports : t.ports = s.ports
  sends : t.sends = s.sends
  recvs : t.recvs = s.recvs
  outs : t.outs = s.outs
  wire : t.wire = s.wire
  atab : t.atab = s.atab
  host : t.host = s.host
  cur : t.cur = s.cur
  agenda : t.agenda = s.agenda
  issues : t.issues = s.issues
  reft : t.reft = s.reft
  asyncs : t.asyncs = s.asyncs
  nextBlock : t.nextBlock = s.nextBlock
  nextGrid : t.nextGrid = s.nextGrid
  nextReq : t.nextReq = s.nextReq
  turns : t.turns = s.turns
  heard : t.heard = s.heard
  lastRoute : t.lastRoute = s.lastRoute

/-- `Keeps`, and memory and the debug counters too. -/
structure Reads (s t : State) : Prop extends Keeps s t where
  mem : t.mem = s.mem
  debugs : t.debugs = s.debugs

theorem Keeps.refl (s : State) : Keeps s s := by constructor <;> rfl
theorem Reads.refl (s : State) : Reads s s := { Keeps.refl s with mem := rfl, debugs := rfl }
theorem Keeps.trans {s t u : State} (h : Keeps s t) (g : Keeps t u) : Keeps s u := by
  constructor
  all_goals first
    | exact g.blocks.trans h.blocks | exact g.grids.trans h.grids | exact g.regions.trans h.regions
    | exact g.ports.trans h.ports | exact g.sends.trans h.sends | exact g.recvs.trans h.recvs | exact g.outs.trans h.outs
    | exact g.wire.trans h.wire | exact g.atab.trans h.atab | exact g.host.trans h.host | exact g.cur.trans h.cur
    | exact g.agenda.trans h.agenda | exact g.issues.trans h.issues | exact g.reft.trans h.reft
    | exact g.asyncs.trans h.asyncs | exact g.nextBlock.trans h.nextBlock | exact g.nextGrid.trans h.nextGrid
    | exact g.nextReq.trans h.nextReq | exact g.turns.trans h.turns | exact g.heard.trans h.heard
    | exact g.lastRoute.trans h.lastRoute
theorem Reads.trans {s t u : State} (h : Reads s t) (g : Reads t u) : Reads s u :=
  { h.toKeeps.trans g.toKeeps with mem := g.mem.trans h.mem, debugs := g.debugs.trans h.debugs }

theorem Keeps.block {s t : State} (h : Keeps s t) (b : Nat) : t.block b = s.block b := by unfold State.block; rw [h.blocks]
theorem Keeps.region {s t : State} (h : Keeps s t) (r : Nat) : t.region r = s.region r := by unfold State.region; rw [h.regions]

theorem Reads.setCore (s : State) (c : Nat) (C : CoreSt) : Reads s (s.setCore c C) := by constructor; constructor; all_goals rfl
theorem Reads.setDie (s : State) (d : Nat) (D : DieSt) : Reads s (s.setDie d D) := by constructor; constructor; all_goals rfl
theorem Keeps.withMem (s : State) (m : Memory) : Keeps s { s with mem := m } := by constructor <;> rfl
theorem Reads.withReqs (s : State) (q : List Req) : Reads s { s with reqs := q } := by constructor; constructor; all_goals rfl
theorem Reads.withChoice (s : State) (n : Nat) : Reads s { s with choice := n } := by constructor; constructor; all_goals rfl
theorem Reads.withPower (s : State) (n : Nat) : Reads s { s with packagePower := n } := by constructor; constructor; all_goals rfl
theorem Keeps.setDebug (s : State) (r : Nat) (D : Debug) : Keeps s (s.setDebug r D) := by constructor <;> rfl

theorem Keeps.foldl {α : Type} (f : State → α → State) (hf : ∀ s a, Keeps s (f s a)) (l : List α) (s : State) :
    Keeps s (l.foldl f s) := by
  induction l generalizing s with
  | nil => exact .refl s
  | cons a r ih => exact (hf s a).trans (ih (f s a))

theorem Keeps.foldl_fst {α β : Type} (f : State × β → α → State × β) (hf : ∀ a x, Keeps a.1 (f a x).1) (l : List α)
    (a : State × β) : Keeps a.1 (l.foldl f a).1 := by
  induction l generalizing a with
  | nil => exact .refl a.1
  | cons x r ih => exact (hf a x).trans (ih (f a x))

theorem Reads.foldl_fst {α β : Type} (f : State × β → α → State × β) (hf : ∀ a x, Reads a.1 (f a x).1) (l : List α)
    (a : State × β) : Reads a.1 (l.foldl f a).1 := by
  induction l generalizing a with
  | nil => exact .refl a.1
  | cons x r ih => exact (hf a x).trans (ih (f a x))

theorem bump_reads (s : State) (d off : Nat) : Reads s (bump s d off) := by
  unfold bump
  simp only
  split
  · exact .refl s
  · exact .setDie ..

theorem countReq_reads (s : State) (w : Who) (p : Page) (key kind : Nat) : Reads s (countReq s w p key kind) := by
  unfold countReq
  simp only
  repeat' split
  all_goals first
    | exact .refl s
    | exact Reads.withReqs s _
    | exact (Reads.withReqs s _).trans (bump_reads ..)
    | exact (Reads.withReqs s _).trans ((bump_reads ..).trans (bump_reads ..))

theorem wakeDie_reads (s : State) (d : Nat) : Reads s (wakeDie s d) := by
  have h : Reads s (wakePackage s) := by
    unfold wakePackage
    split
    · exact .refl s
    · exact .withPower ..
  unfold wakeDie
  simp only
  split
  · exact h
  · exact h.trans (.setDie ..)

theorem placeLeaf_reads (s : State) (w : Who) (e : TlbEntry) (found : Nat) : Reads s (placeLeaf s w e found) := by
  have h : ∀ t, Reads s t → Reads s (match w.die with
      | some d => if found == 2 then t.setDie d { t.die d with tlb2 := tlbAdd (t.die d).tlb2 e 8192 } else t
      | none => t) := by
    intro t ht
    split
    · split
      · exact ht.trans (.setDie ..)
      · exact ht
    · exact ht
  unfold placeLeaf
  apply h
  split
  · split
    · exact .refl s
    · exact .setCore ..
  · exact .refl s

theorem translate_reads (s : State) (w : Who) (va n : Nat) (k : AccKind) : Reads s (translate s w va n k).1 := by
  unfold translate
  split
  · exact .refl s
  · simp only
    split
    · exact .refl s
    · split
      · exact .refl s
      · exact placeLeaf_reads ..

theorem checkTarget_reads (s : State) (w : Who) (place key n va : Nat) (k : AccKind) :
    Reads s (checkTarget s w place key n va k).1 := by
  unfold checkTarget
  simp only
  have h := wakeDie_reads s ((keyTarget place key).2.getD 0)
  split
  · exact h
  · split
    · split <;> exact h.trans (.withChoice ..)
    · split
      · split <;> exact h
      · exact h

theorem reach_reads (s : State) (w : Who) (va n : Nat) (k : AccKind) (planes : Nat) : Reads s (reach s w va n k planes).1 := by
  have h := translate_reads s w va n k
  unfold reach
  split
  · next e => rw [e] at h; exact h
  · next s1 p e =>
    rw [e] at h
    simp only
    have g := Reads.foldl_fst (fun (acc : State × Option Flt) key =>
      match acc.2 with
      | some _ => acc
      | none => match checkTarget acc.1 w p.place key n va k with
        | (s, some f) => (countReq s w p key k.req, some f)
        | (s, none) => (s, none))
      (by intro a x
          have hc := checkTarget_reads a.1 w p.place x n va k
          split
          · exact .refl _
          · split
            · next e => rw [e] at hc; exact hc.trans (countReq_reads ..)
            · next e => rw [e] at hc; exact hc)
      (if p.rep == 1 then (List.range planes).map p.plane else [p.key]) (s1, none)
    split <;> exact h.trans g

theorem loadKey_reads (s : State) (w : Who) (p : Page) (key n : Nat) : Reads s (loadKey s w p key n).1 := by
  unfold loadKey
  split
  · exact countReq_reads ..
  · split
    · split
      · exact .refl s
      · exact (countReq_reads ..).trans (.setCore ..)
    · simp only
      split
      · exact (countReq_reads ..).trans (.setCore ..)
      · exact countReq_reads ..

theorem storeKey_keeps (s : State) (w : Who) (p : Page) (key : Nat) (bs : List Byte) : Keeps s (storeKey s w p key bs) := by
  have h := (Keeps.withMem s (Memory.write s.mem key bs)).trans
    (countReq_reads { s with mem := Memory.write s.mem key bs } w p key 1).toKeeps
  unfold storeKey
  simp only
  split
  · exact h
  · split
    · exact h
    · exact h.trans (Reads.setCore ..).toKeeps

/-- A store changes memory by one write at its key. -/
theorem storeKey_mem (s : State) (w : Who) (p : Page) (key : Nat) (bs : List Byte) :
    (storeKey s w p key bs).mem = Memory.write s.mem key bs := by
  have h := (countReq_reads { s with mem := Memory.write s.mem key bs } w p key 1).mem
  unfold storeKey
  simp only
  split
  · exact h
  · split
    · exact h
    · exact h

theorem atomicKey_keeps (s : State) (w : Who) (p : Page) (key : Nat) (bs : List Byte) : Keeps s (atomicKey s w p key bs) := by
  have h := (Keeps.withMem s (Memory.write s.mem key bs)).trans
    (countReq_reads { s with mem := Memory.write s.mem key bs } w p key 2).toKeeps
  unfold atomicKey
  simp only
  split
  · exact h
  · split
    · exact h.trans (Reads.setCore ..).toKeeps
    · exact h

theorem atomicKey_mem (s : State) (w : Who) (p : Page) (key : Nat) (bs : List Byte) :
    (atomicKey s w p key bs).mem = Memory.write s.mem key bs := by
  have h := (countReq_reads { s with mem := Memory.write s.mem key bs } w p key 2).mem
  unfold atomicKey
  simp only
  split
  · exact h
  · split <;> exact h

theorem readRange_reads (s : State) (w : Who) (va n : Nat) : Reads s (readRange s w va n).1 := by
  unfold readRange
  apply Reads.foldl_fst (a := (s, Except.ok []))
  intro a x
  simp only
  split
  · exact .refl _
  · split
    · exact .refl _
    · have h := reach_reads a.1 w x.1 x.2 .read 1
      split
      · next e => rw [e] at h; exact h
      · next e => rw [e] at h; exact h.trans (loadKey_reads ..)

theorem checkRange_reads (s : State) (w : Who) (va n : Nat) (k : AccKind) : Reads s (checkRange s w va n k).1 := by
  unfold checkRange
  apply Reads.foldl_fst (a := (s, none))
  intro a x
  split
  · exact .refl _
  · split
    · exact .refl _
    · have h := reach_reads a.1 w x.1 x.2 k 3
      split
      · next e => rw [e] at h; exact h
      · next e => rw [e] at h; exact h

theorem writeRange_keeps (s : State) (w : Who) (va : Nat) (bs : List Byte) : Keeps s (writeRange s w va bs).1 := by
  unfold writeRange
  apply Keeps.foldl_fst (a := (s, none))
  intro a x
  simp only
  split
  · exact .refl _
  · split
    · exact .refl _
    · have h := (reach_reads a.1 w x.1 x.2 .write 3).toKeeps
      split
      · next e => rw [e] at h; exact h
      · next e =>
        rw [e] at h
        exact h.trans (Keeps.foldl _ (fun _ _ => storeKey_keeps ..) _ _)

theorem writeRange_wf (s : State) (w : Who) (va : Nat) (bs : List Byte) (h : Memory.wf s.mem = true) :
    Memory.wf (writeRange s w va bs).1.mem = true := by
  unfold writeRange
  suffices H : ∀ (l : List (Nat × Nat)) (a : State × Option Flt), Memory.wf a.1.mem = true → Memory.wf (l.foldl (fun acc pc =>
      match acc.2 with
      | some _ => acc
      | none =>
        if windowOf pc.1 != .translated then (acc.1, some { cause := .addrRange, fcode := 0, addr := pc.1 })
        else match reach acc.1 w pc.1 pc.2 .write 3 with
          | (s, .error f) => (s, some f)
          | (s, .ok p) =>
            let b := (bs.drop (pc.1 - va)).take pc.2
            let keys := if p.rep == 1 then (List.range 3).map p.plane else [p.key]
            (keys.foldl (fun s key => storeKey s w p key b) s, none)) a).1.mem = true from H _ _ h
  intro l
  induction l with
  | nil => intro a h; exact h
  | cons x r ih =>
    intro a h
    apply ih
    simp only
    split
    · exact h
    · split
      · exact h
      · have hr := (reach_reads a.1 w x.1 x.2 .write 3).mem
        split
        · next e => rw [e] at hr; rw [hr]; exact h
        · next s1 p e =>
          rw [e] at hr
          have : ∀ (ks : List Nat) (s : State), Memory.wf s.mem = true →
              Memory.wf (ks.foldl (fun s key => storeKey s w p key ((bs.drop (x.1 - va)).take x.2)) s).mem = true := by
            intro ks
            induction ks with
            | nil => intro s h; exact h
            | cons k ks ihk =>
              intro s h
              exact ihk _ (by rw [storeKey_mem]; exact Memory.wf_write _ _ _ h)
          exact this _ _ (by rw [hr]; exact h)

end Sys2Proof.Machine
end

