-- ==== Sys2Proof/Laws/Issue.lean ====
section
/-!
SUPPORT. What the shared operations of an issue can do: the debug facilities that follow it, the issue tables, and a lane
instruction that every member of its issue executes.
-/
namespace Sys2Proof.Machine

open Safety

theorem Keeps.of_pair {s t : State} {β : Type} {r : State × β} {x : β} (e : r = (t, x)) (h : Keeps s r.1) : Keeps s t := by
  rw [e] at h; exact h

theorem debugField_keeps (s : State) (r off v : Nat) : Keeps s (debugField s r off v) := by
  unfold debugField
  split
  · exact .withMem ..
  · exact .refl s

theorem ringPut_keeps (s : State) (r die base log wr : Nat) (bytes : List Byte) :
    Keeps s (ringPut s r die base log wr bytes).1 := by
  have h := writeRange_keeps s (keystoneOf r die) (base + bytes.length * (wr % 2 ^ log)) bytes
  unfold ringPut
  split
  · next e => rw [e] at h; exact h
  · next e => rw [e] at h; exact h

theorem tracePut_keeps (s : State) (b kind quarter mask icount pc other : Nat) :
    Keeps s (tracePut s b kind quarter mask icount pc other) := by
  unfold tracePut
  simp only
  split
  · exact .refl s
  · split
    · next e => exact Keeps.of_pair e (ringPut_keeps ..)
    · next e => exact (Keeps.of_pair e (ringPut_keeps ..)).trans ((Keeps.setDebug ..).trans (debugField_keeps ..))

theorem traceJoins_keeps (s : State) (b : Nat) (placed : List Nat) : Keeps s (traceJoins s b placed) := by
  unfold traceJoins
  simp only
  split
  · exact .refl s
  · refine Keeps.foldl _ (fun s _ => Keeps.foldl _ (fun s _ => Keeps.foldl _ (fun s _ => ?_) _ s) _ s) _ _
    split
    · exact tracePut_keeps ..
    · exact .refl _

theorem traceMoves_keeps (s0 s : State) (b : Nat) (mems : List Nat) : Keeps s (traceMoves s0 s b mems) := by
  unfold traceMoves
  simp only
  split
  · exact .refl s
  · refine Keeps.trans ?_ (traceJoins_keeps ..)
    split
    · exact .refl s
    · exact Keeps.foldl _ (fun _ _ => tracePut_keeps ..) _ _

theorem free_keeps (s : State) : Keeps s s.free.2 := (Reads.withChoice ..).toKeeps
theorem freeNs_keeps (s : State) (b : Bool) : Keeps s (freeNs s b).1 := by
  unfold freeNs
  split
  · exact free_keeps s
  · exact .refl s

theorem samplePut_keeps (s : State) (r die core kind pc blk : Nat) (q : Req) : Keeps s (samplePut s r die core kind pc blk q) := by
  unfold samplePut
  simp only
  have h0 := freeNs_keeps s true
  have h1 := fun (l : List Bool) (a : State × List Nat) => Keeps.foldl_fst (fun (acc : State × List Nat) st =>
    ((freeNs acc.1 st).1, acc.2 ++ [(freeNs acc.1 st).2])) (fun a st => freeNs_keeps a.1 st) l a
  split
  · next e => exact (h0.trans (h1 _ ((freeNs s true).1, []))).trans (Keeps.of_pair e (ringPut_keeps ..))
  · next e =>
    exact ((h0.trans (h1 _ ((freeNs s true).1, []))).trans (Keeps.of_pair e (ringPut_keeps ..))).trans
      ((Keeps.setDebug ..).trans (debugField_keeps ..))

theorem sampleReqs_keeps (s : State) (r die core pc blk : Nat) (kind : Option Nat) (qs : List Req) :
    Keeps s (sampleReqs s r die core pc blk kind qs) := by
  unfold sampleReqs
  refine Keeps.foldl _ ?_ _ _
  intro s q
  have h : Keeps s (sampleNext s r core).1 := .setDebug ..
  simp only
  split
  · exact h.trans (samplePut_keeps ..)
  · exact h

/-- What follows an issue changes no block, grid, region or module register; at most a course end is put on the agenda. -/
theorem afterIssue_keeps (s0 s : State) (b : Nat) (mems : List Nat) :
    ∃ u, Keeps s u ∧ (afterIssue s0 s b mems = u ∨ afterIssue s0 s b mems = { u with agenda := u.agenda ++ [.courseEnd b] }) := by
  have key : ∀ (v : State) (c : Prop) [Decidable c], Keeps s v → ∃ u, Keeps s u ∧
      ((if c then { v with agenda := v.agenda ++ [Task.courseEnd b] } else v) = u ∨
       (if c then { v with agenda := v.agenda ++ [Task.courseEnd b] } else v) = { u with agenda := u.agenda ++ [.courseEnd b] }) := by
    intro v c _ h
    by_cases hc : c
    · exact ⟨v, h, .inr (if_pos hc)⟩
    · exact ⟨v, h, .inl (if_neg hc)⟩
  unfold afterIssue
  apply key
  refine (traceMoves_keeps s0 s b mems).trans ?_
  split
  · exact sampleReqs_keeps ..
  · exact .refl _

@[simp] theorem raisedAfter_nil (s : State) (b : Nat) : raisedAfter s b [] = [] := rfl

theorem afterIssue_blocks (s0 s : State) (b : Nat) (mems : List Nat) : (afterIssue s0 s b mems).blocks = s.blocks := by
  obtain ⟨u, hu, h | h⟩ := afterIssue_keeps s0 s b mems <;> rw [h] <;> exact hu.blocks

theorem afterIssue_member (s0 s : State) (b : Nat) (mems : List Nat) (c i : Nat) :
    (afterIssue s0 s b mems).member c i = s.member c i := by
  unfold State.member State.block
  rw [afterIssue_blocks]

/-- Where no debug descriptor applies to the block, nothing follows an issue. -/
theorem afterIssue_plain (s0 s : State) (b : Nat) (mems : List Nat) (h : (s0.block b).dbg = false)
    (hc : (s.block b).course = none) : afterIssue s0 s b mems = s := by
  have d : ∀ n, s0.debugOn (s0.block b) n = false := by intro n; simp [State.debugOn, h]
  have t : traceMoves s0 s b mems = s := by simp [traceMoves, d]
  have c : courseDone s b = false := by simp [courseDone, hc]
  simp [afterIssue, d, t, courseCheck, c]

theorem enterTable_reads (s : State) (b i : Nat) : Reads s (enterTable s b i) := by
  unfold enterTable
  simp only
  split
  · exact .setCore ..
  · split <;> exact .setCore ..

theorem leaveTables_reads (s : State) (b : Nat) (out : Nat → Bool) : Reads s (leaveTables s b out) := by
  unfold leaveTables
  exact .setCore ..

theorem Reads.foldl {α : Type} (f : State → α → State) (hf : ∀ s a, Reads s (f s a)) (l : List α) (s : State) :
    Reads s (l.foldl f s) := by
  induction l generalizing s with
  | nil => exact .refl s
  | cons a r ih => exact (hf s a).trans (ih (f s a))

/-- Threads change their entries: only the issue tables change (15 R263). -/
theorem reseat_reads (s : State) (b : Nat) (mems : List Nat) : Reads s (reseat s b mems) := by
  unfold reseat
  refine (leaveTables_reads ..).trans (Reads.foldl _ ?_ _ _)
  intro s i
  split
  · exact enterTable_reads ..
  · exact .refl s

/-- Two states that differ in issue tables and pending lists only (15 R263). -/
structure Tables (s t : State) : Prop where
  rest : t = { s with cores := t.cores }
  core : ∀ c, t.core c = { s.core c with tables := (t.core c).tables, pending := (t.core c).pending }

theorem Tables.refl (s : State) : Tables s s := ⟨rfl, fun _ => rfl⟩
theorem Tables.trans {s t u : State} (h : Tables s t) (g : Tables t u) : Tables s u :=
  ⟨by have := g.rest; rw [h.rest] at this; exact this, fun c => by have := g.core c; rw [h.core c] at this; exact this⟩

theorem Tables.setCore (s : State) (c : Nat) (C : CoreSt) (h : C = { s.core c with tables := C.tables, pending := C.pending }) :
    Tables s (s.setCore c C) := by
  refine ⟨rfl, fun d => ?_⟩
  rw [State.setCore_core]
  by_cases hd : d = c
  · rw [if_pos hd, hd]; exact h
  · rw [if_neg hd]

theorem Tables.foldl {α : Type} (f : State → α → State) (hf : ∀ s a, Tables s (f s a)) (l : List α) (s : State) :
    Tables s (l.foldl f s) := by
  induction l generalizing s with
  | nil => exact .refl s
  | cons a r ih => exact (hf s a).trans (ih (f s a))

theorem enterTable_tables (s : State) (b i : Nat) : Tables s (enterTable s b i) := by
  unfold enterTable
  simp only
  split
  · exact .setCore _ _ _ rfl
  · split <;> exact .setCore _ _ _ rfl

theorem reseat_tables (s : State) (b : Nat) (mems : List Nat) : Tables s (reseat s b mems) := by
  unfold reseat
  have hl : Tables s (leaveTables s b (fun i => mems.contains i)) := by
    unfold leaveTables; exact .setCore _ _ _ rfl
  refine hl.trans (Tables.foldl _ ?_ _ _)
  intro s i
  split
  · exact enterTable_tables ..
  · exact .refl s

theorem Reads.block {s t : State} (h : Reads s t) (b : Nat) : t.block b = s.block b := h.toKeeps.block b
theorem Reads.member {s t : State} (h : Reads s t) (b i : Nat) : t.member b i = s.member b i := by
  unfold State.member; rw [h.block]

/-- An issue is performed only when one is selected. -/
theorem withIssue_some (s : State) (k : Issue → State → State) (is : Issue) (h : s.cur = some is) :
    withIssue s k = .next (afterIssue s (k is { s with cur := none, issues := s.issues + 1, reqs := [] }) is.blk is.mems) := by
  simp [withIssue, h]
theorem withIssue_none (s : State) (k : Issue → State → State) (h : s.cur = none) : withIssue s k = .fault .noIssue := by
  simp [withIssue, h]

/-- A member after a lane instruction whose results are `o` (02 R24, R31, R32; 03 R49). -/
def laneAfter (x : Ext) (lat : Option Nat) (handler : Bool) (m : Member) (o : LaneOut) : Member :=
  { m with sibs := applyOuts lat o.sibs m.sibs, spin := if o.spin then 65 else m.spin }.retire handler x.stall
    (o.next.getD (nextPc m.pc x.len))

/-- A member whose guard is false: it retires with no result (02 R24). -/
def skipAfter (x : Ext) (handler : Bool) (m : Member) : Member := m.retire handler x.stall (nextPc m.pc x.len)

/-- What a lane instruction of member `i` reads when the issue starts. -/
def laneIn (s : State) (is : Issue) (i : Nat) : LaneIn :=
  { s := { s with cur := none, issues := s.issues + 1, reqs := [] }, is := is, B := s.block is.blk, i := i,
    m := s.member is.blk i }

/-- Nothing keeps member `i` of an issue from executing a lane instruction: its reads meet no invisible write under
ctl.stallchk, no STEP is set, the instruction faults on no operand, and no cause event of it acts. -/
structure LaneReady (x : Ext) (reads : List (Bool × Opnd)) (f : LaneIn → LaneOut) (s : State) (is : Issue) (i : Nat) :
    Prop where
  step : (s.member is.blk i).step = false
  guardSeen : undersized (s.member is.blk i) (guardRegs x) = false
  seen : (s.member is.blk i).guard x = true → undersized (s.member is.blk i) (readRegs reads) = false
  noFault : (s.member is.blk i).guard x = true → (f (laneIn s is i)).flt = none
  quiet : (s.member is.blk i).guard x = true → ∀ e, (f (laneIn s is i)).ni = some e → niAction (s.member is.blk i) e.code = 0

/-- Two states that differ in one block's members, uniform registers and course only. -/
structure OneBlock (b : Nat) (s t : State) : Prop where
  rest : t = { s with blocks := t.blocks }
  others : ∀ c, c ≠ b → t.block c = s.block c
  block : t.block b = { s.block b with members := (t.block b).members, k := (t.block b).k, course := (t.block b).course }

theorem OneBlock.refl (b : Nat) (s : State) : OneBlock b s s := ⟨rfl, fun _ _ => rfl, rfl⟩

theorem OneBlock.trans {b : Nat} {s t u : State} (h : OneBlock b s t) (g : OneBlock b t u) : OneBlock b s u := by
  refine ⟨?_, fun c hc => (g.others c hc).trans (h.others c hc), ?_⟩
  · have := g.rest; rw [h.rest] at this; exact this
  · have := g.block; rw [h.block] at this; exact this

theorem OneBlock.setBlock (b : Nat) (s : State) (B : Block)
    (h : B = { s.block b with members := B.members, k := B.k, course := B.course }) : OneBlock b s (s.setBlock b B) := by
  refine ⟨rfl, ?_, ?_⟩
  · intro c hc; simp [hc]
  · simpa using h

/-- Course entries change a block's course only, and a block without a course keeps none (20 R363). -/
theorem courseLog_course (B : Block) (es : Course → List LogEntry) : ∃ c, courseLog B es = { B with course := c } ∧
    (B.course = none → c = none) := by
  unfold courseLog
  split
  · next h => exact ⟨none, by rw [← h], fun _ => rfl⟩
  · next c h =>
    split
    · exact ⟨B.course, rfl, id⟩
    · exact ⟨_, rfl, fun g => by rw [g] at h; cases h⟩

theorem logUni_course (B : Block) (i : Nat) (m : Member) (reads : List (Bool × Opnd)) :
    ∃ c, logUni B i m reads = { B with course := c } ∧ (B.course = none → c = none) := courseLog_course ..

theorem logOuts_course (B : Block) (i : Nat) (os : List SibOut) :
    ∃ c, logOuts B i os = { B with course := c } ∧ (B.course = none → c = none) := courseLog_course ..

theorem logWrites_course (B : Block) (i : Nat) (outs : List (List Out)) :
    ∃ c, logWrites B i outs = { B with course := c } ∧ (B.course = none → c = none) := courseLog_course ..

theorem courseWrote_course (B : Block) (d : Nat) : ∃ c, courseWrote B d = { B with course := c } ∧
    (B.course = none → c = none) := ⟨_, rfl, fun g => by simp [g]⟩

theorem courseRetire_course (B : Block) (i : Nat) (m : Member) : ∃ c, courseRetire B i m = { B with course := c } ∧
    (B.course = none → c = none) := ⟨_, rfl, fun g => by simp [g]⟩

theorem Acc.instability_off (a : Acc) (b i : Nat) (x : Ext) (major : Nat) (m : Member) (e : NiEvent)
    (h : niAction m e.code = 0) : a.instability b i x major m e = a := by
  simp [Acc.instability, h]

/-- Retiring one member without STEP: its own record changes and nothing else but the course. -/
theorem Acc.retire_spec (a : Acc) (b i : Nat) (x : Ext) (major : Nat) (m : Member) (pc : Nat) (hs : m.step = false) :
    (a.retire b i x major m pc).precise = a.precise ∧ (a.retire b i x major m pc).after = a.after ∧
    OneBlock b a.s (a.retire b i x major m pc).s ∧
    ((a.retire b i x major m pc).s.block b).k = (a.s.block b).k ∧
    (∀ j, (a.retire b i x major m pc).s.member b j =
      if j = i then m.retire (a.s.block b).handler.isSome x.stall pc else a.s.member b j) ∧
    ((a.s.block b).course = none → ((a.retire b i x major m pc).s.block b).course = none) := by
  unfold Acc.retire
  obtain ⟨c, hc, hn⟩ := courseRetire_course ((a.s.block b).setMember i (m.retire (a.s.block b).handler.isSome x.stall pc)) i
    (m.retire (a.s.block b).handler.isSome x.stall pc)
  refine ⟨rfl, by simp [hs], ?_, ?_, ?_, ?_⟩
  · exact .setBlock _ _ _ (by simp only [hc]; rfl)
  · simp only [hc, State.setBlock_block, if_true]; rfl
  · intro j
    simp only [hc, State.member, State.setBlock_block, if_true]
    exact Block.setMember_member ..
  · intro g
    simp only [hc, State.setBlock_block, if_true]
    exact hn g

/-- What the block registers become when member `i` executes: a MOVK write of its issue (04 R83). -/
def uniAfter (k : SMap W32) : Option (Nat × W32) → SMap W32
  | some (n, v) => SMap.set 0 k n v
  | none => k

theorem laneBlock_course (B : Block) (i : Nat) (m : Member) (reads : List (Bool × Opnd)) (o : LaneOut) :
    ∃ c, laneBlock B i m reads o = { B with course := c, k := uniAfter B.k o.uni } ∧ (B.course = none → c = none) := by
  obtain ⟨c1, e1, n1⟩ := logUni_course B i m reads
  obtain ⟨c2, e2, n2⟩ := logOuts_course { B with course := c1 } i o.sibs
  unfold laneBlock
  rw [e1, e2]
  cases o.uni with
  | none => exact ⟨c2, rfl, fun h => n2 (n1 h)⟩
  | some nv => exact ⟨_, rfl, fun h => by simp [n2 (n1 h)]⟩

/-- One member of a lane instruction that nothing keeps from executing. -/
theorem laneStep_spec (x : Ext) (major : Nat) (lat : Option Nat) (reads : List (Bool × Opnd)) (f : LaneIn → LaneOut)
    (s : State) (is : Issue) (a : Acc) (i : Nat) (s1 : State)
    (hs1 : s1 = { s with cur := none, issues := s.issues + 1, reqs := [] })
    (hm : a.s.member is.blk i = s.member is.blk i) (hh : (a.s.block is.blk).handler = (s.block is.blk).handler)
    (hr : LaneReady x reads f s is i) :
    let a' := laneStep x major lat reads f is.blk is s1 a i
    let g := (s.member is.blk i).guard x
    let o := f (laneIn s is i)
    a'.precise = a.precise ∧ a'.after = a.after ∧ OneBlock is.blk a.s a'.s ∧
    (a'.s.block is.blk).k = (if g then uniAfter (a.s.block is.blk).k o.uni else (a.s.block is.blk).k) ∧
    (∀ j, a'.s.member is.blk j =
      if j = i then (if g then laneAfter x lat (s.block is.blk).handler.isSome (s.member is.blk i) o
        else skipAfter x (s.block is.blk).handler.isSome (s.member is.blk i)) else a.s.member is.blk j) ∧
    ((a.s.block is.blk).course = none → (a'.s.block is.blk).course = none) := by
  intro a' g o
  have hm' : (a.s.block is.blk).member i = s.member is.blk i := hm
  have hin : ({ s := s1, is := is, B := s1.block is.blk, i := i, m := s.member is.blk i } : LaneIn) = laneIn s is i := by
    subst hs1; rfl
  have hu := hr.guardSeen
  cases hg : (s.member is.blk i).guard x with
  | false =>
    have ha : a' = a.retire is.blk i x major (s.member is.blk i) (nextPc (s.member is.blk i).pc x.len) := by
      show laneStep x major lat reads f is.blk is s1 a i = _
      unfold laneStep
      simp only [hm', hu, hg, Bool.not_false, if_true]
      rfl
    have h := Acc.retire_spec a is.blk i x major (s.member is.blk i) (nextPc (s.member is.blk i).pc x.len) hr.step
    rw [ha]
    obtain ⟨h1, h2, h3, h4, h5, h6⟩ := h
    refine ⟨h1, h2, h3, ?_, ?_, h6⟩
    · simp [g, hg, h4]
    · intro j; rw [h5, hh]; simp [g, hg, skipAfter]
  | true =>
    have hf : o.flt = none := hr.noFault hg
    obtain ⟨c3, e3, n3⟩ := laneBlock_course (a.s.block is.blk) i (s.member is.blk i) reads o
    let B3 : Block := { a.s.block is.blk with course := c3, k := uniAfter (a.s.block is.blk).k o.uni }
    let m0 := s.member is.blk i
    let m3 : Member := { m0 with sibs := applyOuts lat o.sibs m0.sibs, spin := if o.spin then 65 else m0.spin }
    let a3 : Acc := { a with s := a.s.setBlock is.blk B3 }
    have ha : a' = a3.retire is.blk i x major m3 (o.next.getD (nextPc m0.pc x.len)) := by
      show laneStep x major lat reads f is.blk is s1 a i = _
      unfold laneStep
      simp only [hm', hu, hg, hr.seen hg, hin, Bool.not_true, if_false, Bool.false_eq_true]
      have hf' : (f (laneIn s is i)).flt = none := hf
      simp only [hf']
      have e3' : laneBlock (a.s.block is.blk) i (s.member is.blk i) reads (f (laneIn s is i)) = B3 := e3
      rw [e3']
      split
      · next e he => exact Acc.instability_off _ _ _ _ _ _ _ (hr.quiet hg e he)
      · rfl
    have h := Acc.retire_spec a3 is.blk i x major m3 (o.next.getD (nextPc m0.pc x.len)) hr.step
    rw [← ha] at h
    obtain ⟨h1, h2, h3, h4, h5, h6⟩ := h
    have hb : a3.s.block is.blk = B3 := by simp [a3]
    refine ⟨h1, h2, ?_, ?_, ?_, ?_⟩
    · exact (OneBlock.setBlock is.blk a.s B3 rfl).trans h3
    · rw [h4, hb]; simp [g, hg, B3]
    · intro j
      rw [h5, hb]
      have hB3 : B3.handler = (s.block is.blk).handler := hh
      rw [hB3]
      by_cases hj : j = i
      · simp only [hj, if_true, g, hg]; rfl
      · simp only [hj, if_false]
        show (a3.s.block is.blk).member j = _
        rw [hb]; rfl
    · intro hc
      apply h6
      rw [hb]
      exact n3 hc

/-- A member after a lane instruction of its issue, by its guard (02 R24). -/
def laneMember (x : Ext) (lat : Option Nat) (f : LaneIn → LaneOut) (s : State) (is : Issue) (i : Nat) : Member :=
  let m := s.member is.blk i
  let h := (s.block is.blk).handler.isSome
  if m.guard x then laneAfter x lat h m (f (laneIn s is i)) else skipAfter x h m

/-- What the members `l` of an issue do to a running result. -/
theorem laneSteps_spec (x : Ext) (major : Nat) (lat : Option Nat) (reads : List (Bool × Opnd)) (f : LaneIn → LaneOut)
    (s : State) (is : Issue) (s1 : State) (hs1 : s1 = { s with cur := none, issues := s.issues + 1, reqs := [] })
    (l : List Nat) (hn : l.Nodup) (hr : ∀ i ∈ l, LaneReady x reads f s is i) (a : Acc)
    (hm : ∀ i ∈ l, a.s.member is.blk i = s.member is.blk i) (hh : (a.s.block is.blk).handler = (s.block is.blk).handler) :
    let a' := l.foldl (laneStep x major lat reads f is.blk is s1) a
    a'.precise = a.precise ∧ a'.after = a.after ∧ OneBlock is.blk a.s a'.s ∧
    (a'.s.block is.blk).k = l.foldl (fun k i =>
      if (s.member is.blk i).guard x then uniAfter k (f (laneIn s is i)).uni else k) (a.s.block is.blk).k ∧
    (∀ j, a'.s.member is.blk j = if j ∈ l then laneMember x lat f s is j else a.s.member is.blk j) ∧
    ((a.s.block is.blk).course = none → (a'.s.block is.blk).course = none) := by
  induction l generalizing a with
  | nil => exact ⟨rfl, rfl, .refl _ _, rfl, fun j => by simp, id⟩
  | cons i r ih =>
    intro a'
    have hi := laneStep_spec x major lat reads f s is a i s1 hs1 (hm i (List.mem_cons_self ..)) hh (hr i (List.mem_cons_self ..))
    obtain ⟨p1, p2, p3, p4, p5, p6⟩ := hi
    have hnr := List.nodup_cons.mp hn
    have hh' : ((laneStep x major lat reads f is.blk is s1 a i).s.block is.blk).handler = (s.block is.blk).handler := by
      rw [p3.block]; exact hh
    have hm' : ∀ j ∈ r, (laneStep x major lat reads f is.blk is s1 a i).s.member is.blk j = s.member is.blk j := by
      intro j hj
      have hne : j ≠ i := fun h => hnr.1 (h ▸ hj)
      rw [p5 j, if_neg hne]; exact hm j (List.mem_cons_of_mem _ hj)
    obtain ⟨q1, q2, q3, q4, q5, q6⟩ := ih hnr.2 (fun j hj => hr j (List.mem_cons_of_mem _ hj)) _ hm' hh'
    refine ⟨q1.trans p1, q2.trans p2, p3.trans q3, ?_, ?_, fun h => q6 (p6 h)⟩
    · rw [List.foldl_cons, ← p4]; exact q4
    · intro j
      have e : a'.s.member is.blk j = _ := q5 j
      rw [e]
      by_cases hj : j ∈ r
      · simp [hj]
      · rw [if_neg hj, p5 j]
        by_cases hji : j = i
        · subst hji; simp [laneMember]
        · simp [hj, hji]

/-- A lane instruction of an issue whose members nothing keeps from executing (04 R73): what each member becomes, what the block
keeps, and, where no debug descriptor applies, that memory and the dies keep what they hold. -/
structure LaneDone (x : Ext) (lat : Option Nat) (f : LaneIn → LaneOut) (s : State) (is : Issue) (t : State) : Prop
    extends IssueFrame is.blk s t where
  members : ∀ i ∈ is.mems, t.member is.blk i = laneMember x lat f s is i
  rest : ∀ j, j ∉ is.mems → t.member is.blk j = s.member is.blk j
  block : t.block is.blk = { s.block is.blk with
    members := (t.block is.blk).members, k := (t.block is.blk).k, course := (t.block is.blk).course }
  uniform : (t.block is.blk).k = is.mems.foldl (fun k i =>
    if (s.member is.blk i).guard x then uniAfter k (f (laneIn s is i)).uni else k) (s.block is.blk).k
  quiet : (s.block is.blk).dbg = false → (s.block is.blk).course = none →
    t.mem = s.mem ∧ t.agenda = s.agenda ∧ t.debugs = s.debugs

theorem laneRun_spec (x : Ext) (major : Nat) (lat : Option Nat) (reads : List (Bool × Opnd)) (f : LaneIn → LaneOut)
    (s : State) (is : Issue) (hc : s.cur = some is) (hn : is.mems.Nodup) (hr : ∀ i ∈ is.mems, LaneReady x reads f s is i) :
    ∃ t, laneRun x major lat reads f s = .next t ∧ LaneDone x lat f s is t := by
  let s1 : State := { s with cur := none, issues := s.issues + 1, reqs := [] }
  let a := is.mems.foldl (laneStep x major lat reads f is.blk is s1) (Acc.start s1)
  obtain ⟨p1, p2, p3, p4, p5, p6⟩ := laneSteps_spec x major lat reads f s is s1 rfl is.mems hn hr (Acc.start s1)
    (fun _ _ => rfl) rfl
  have hp : a.precise = none := p1
  have ha : a.after = [] := p2
  have hf : a.finish is.blk is.mems = reseat a.s is.blk is.mems := by
    unfold Acc.finish; simp [hp, raisedAfter, Acc.ordered, ha]
  have hR := reseat_reads a.s is.blk is.mems
  let u := reseat a.s is.blk is.mems
  let t := afterIssue s u is.blk is.mems
  have ht : laneRun x major lat reads f s = .next t := by
    unfold laneRun
    rw [withIssue_some _ _ is hc]
    show Host.Outcome.next (afterIssue s (a.finish is.blk is.mems) is.blk is.mems) = _
    rw [hf]
  have hub : ∀ c, u.block c = a.s.block c := hR.block
  have htb : ∀ c, t.block c = a.s.block c := by
    intro c; unfold State.block; rw [afterIssue_blocks]; exact hub c
  have htm : ∀ j, t.member is.blk j = a.s.member is.blk j := by
    intro j; unfold State.member; rw [htb]
  have h3 : OneBlock is.blk s1 a.s := p3
  have hrest := h3.rest
  obtain ⟨v, hv, hv'⟩ := afterIssue_keeps s u is.blk is.mems
  have hK := hR.toKeeps.trans hv
  have frame : IssueFrame is.blk s t := by
    constructor
    case others => intro c hcb; rw [htb, h3.others c hcb]; rfl
    all_goals
      have hs : ∀ {α : Type} (g : State → α), (∀ c l, g { c with agenda := l } = g c) → g t = g v := by
        intro α g hg
        rcases hv' with h | h <;> rw [show t = _ from h]
        exact hg _ _
      first
        | exact (hs _ fun _ _ => rfl).trans (by simp only [hK.grids, hK.regions, hK.ports, hK.sends, hK.recvs, hK.outs, hK.wire]; rw [hrest])
        | exact (hs _ fun _ _ => rfl).trans (by simp only [hK.atab, hK.host, hK.reft, hK.asyncs]; rw [hrest])
  refine ⟨t, ht, ⟨frame, ?_, ?_, ?_, ?_, ?_⟩⟩
  · intro i hi; rw [htm, p5 i, if_pos hi]
  · intro j hj; rw [htm, p5 j, if_neg hj]; rfl
  · rw [htb]; exact h3.block
  · rw [htb]; exact p4
  · intro hd hcs
    have hcu : (u.block is.blk).course = none := by rw [hub]; exact p6 hcs
    have e : t = u := afterIssue_plain s u is.blk is.mems hd hcu
    rw [e]
    refine ⟨?_, ?_, ?_⟩
    · rw [hR.mem, hrest]
    · rw [hR.agenda, hrest]
    · rw [hR.debugs, hrest]

/-- A lane instruction in the terms of statements: what its function `f` answers for each member with a true guard decides the
results, next PCs and uniform writes. -/
theorem laneRun_retires_uni (ni : Bool) (x : Ext) (major : Nat) (lat : Option Nat) (reads : List (Bool × Opnd))
    (f : LaneIn → LaneOut) (s : State) (is : Issue) (res : Nat → List SibOut) (pcs : Nat → Nat) (hi : Issued s is)
    (hr : ∀ j ∈ is.mems, Ready ni x (readRegs reads) s is j)
    (hf : ∀ j ∈ is.mems, (s.member is.blk j).guard x = true →
      (f (laneIn s is j)).sibs = res j ∧ (f (laneIn s is j)).flt = none ∧
      (f (laneIn s is j)).spin = false ∧ (f (laneIn s is j)).next.getD (nextPc (s.member is.blk j).pc x.len) = pcs j ∧
      ∀ e, (f (laneIn s is j)).ni = some e → ni = true ∧ (s.member is.blk j).sibs.length = 3 ∧ e.code < 4) :
    ∃ t, laneRun x major lat reads f s = .next t ∧ Retires x lat s is t res pcs
      (is.mems.foldl (fun k i => if (s.member is.blk i).guard x then uniAfter k (f (laneIn s is i)).uni else k)
        (s.block is.blk).k) := by
  obtain ⟨t, ht, h⟩ := laneRun_spec x major lat reads f s is hi.cur hi.nodup (fun j hj =>
    { step := (hr j hj).step
      guardSeen := (hr j hj).guardSeen
      seen := (hr j hj).seen
      noFault := fun hg => (hf j hj hg).2.1
      quiet := fun hg e he => by
        obtain ⟨h1, h2, h3⟩ := (hf j hj hg).2.2.2.2 e he
        exact (hr j hj).quiet h1 h2 e.code h3 })
  refine ⟨t, ht, { h.toIssueFrame with done := ?_, skipped := ?_, rest := h.rest, block := ?_, memory := ?_ }⟩
  · intro j hj hg
    obtain ⟨e1, e2, e4, e5, e6⟩ := hf j hj hg
    rw [h.members j hj]
    simp only [laneMember, hg, if_true, laneAfter, e1, e4, e5]
    simp [Member.retire, retired, Member.recordIcount, (hr j hj).fresh]
  · intro j hj hg
    rw [h.members j hj]
    simp only [laneMember, hg, Bool.false_eq_true, if_false, skipAfter]
    simp [Member.retire, retired, Member.recordIcount, (hr j hj).fresh, applyOuts]
  · rw [← h.uniform]; exact h.block
  · intro hd hc a
    rw [(h.quiet hd hc).1]

/-- The same for an instruction that writes no uniform register. -/
theorem laneRun_retires (ni : Bool) (x : Ext) (major : Nat) (lat : Option Nat) (reads : List (Bool × Opnd)) (f : LaneIn → LaneOut)
    (s : State) (is : Issue) (res : Nat → List SibOut) (pcs : Nat → Nat) (hi : Issued s is)
    (hr : ∀ j ∈ is.mems, Ready ni x (readRegs reads) s is j)
    (hf : ∀ j ∈ is.mems, (s.member is.blk j).guard x = true →
      (f (laneIn s is j)).sibs = res j ∧ (f (laneIn s is j)).flt = none ∧ (f (laneIn s is j)).uni = none ∧
      (f (laneIn s is j)).spin = false ∧ (f (laneIn s is j)).next.getD (nextPc (s.member is.blk j).pc x.len) = pcs j ∧
      ∀ e, (f (laneIn s is j)).ni = some e → ni = true ∧ (s.member is.blk j).sibs.length = 3 ∧ e.code < 4) :
    ∃ t, laneRun x major lat reads f s = .next t ∧ Retires x lat s is t res pcs (s.block is.blk).k := by
  have hk : ∀ (l : List Nat) (k : SMap W32), (∀ j ∈ l, j ∈ is.mems) → l.foldl (fun k i =>
      if (s.member is.blk i).guard x then uniAfter k (f (laneIn s is i)).uni else k) k = k := by
    intro l
    induction l with
    | nil => intro k _; rfl
    | cons j r ih =>
      intro k hl
      have hj := hl j (List.mem_cons_self ..)
      rw [List.foldl_cons]
      by_cases hg : (s.member is.blk j).guard x
      · rw [if_pos hg, (hf j hj hg).2.2.1]
        exact ih _ (fun i hi => hl i (List.mem_cons_of_mem _ hi))
      · rw [if_neg hg]
        exact ih _ (fun i hi => hl i (List.mem_cons_of_mem _ hi))
  have h := laneRun_retires_uni ni x major lat reads f s is res pcs hi hr (fun j hj hg =>
    let ⟨h1, h2, _, h4, h5, h6⟩ := hf j hj hg
    ⟨h1, h2, h4, h5, h6⟩)
  rw [hk is.mems _ (fun _ h => h)] at h
  exact h

theorem applyOuts_map (lat : Option Nat) (g : Regs → SibOut) (rs : List Regs) :
    applyOuts lat (rs.map g) rs = rs.map (fun r => (g r).apply lat r) := by
  induction rs with
  | nil => rfl
  | cons r t ih => simp [applyOuts, ih]

theorem zipWith_maps {α β γ δ : Type} (g : β → γ → δ) (a : α → β) (b : α → γ) (l : List α) :
    List.zipWith g (l.map a) (l.map b) = l.map (fun r => g (a r) (b r)) := by
  induction l with
  | nil => rfl
  | cons x r ih => simp [ih]

theorem zip_maps {α β γ : Type} (a : α → β) (b : α → γ) (l : List α) :
    List.zip (l.map a) (l.map b) = l.map (fun r => (a r, b r)) := zipWith_maps Prod.mk a b l

end Sys2Proof.Machine
end

