-- ==== Sys2Proof/Laws/Memory.lean ====
section
/-!
SUPPORT. A memory, engine or drained instruction that one member executes: when its access is done, the member retires with the
access's results, and nothing else changes but the issue tables.
-/
namespace Sys2Proof.Machine

open Safety

theorem steerEvent_triad (n : Nat) (l : List (List Nat)) (hl : ∀ xs ∈ l, xs.length = n) (e : NiEvent)
    (h : steerEvent l = some e) : n = 3 := by
  induction l with
  | nil => cases h
  | cons xs r ih =>
    unfold steerEvent at h
    split at h
    · next g =>
      rw [← hl xs (List.mem_cons_self ..)]
      simp only [Bool.and_eq_true, beq_iff_eq] at g
      exact g.1
    · exact ih (fun ys hy => hl ys (List.mem_cons_of_mem _ hy)) h

theorem steerEvent_code (l : List (List Nat)) (e : NiEvent) (h : steerEvent l = some e) : e.code = niSteer := by
  induction l with
  | nil => cases h
  | cons xs r ih =>
    unfold steerEvent at h
    split at h
    · cases h; rfl
    · exact ih h

/-- What the access left lets member `i`, of `n` threads, retire without a cause. -/
structure Settled (ops : MemOps) (n : Nat) (u : State) (b i : Nat) : Prop where
  cap : (u.member b i).cap = none
  step : (u.member b i).step = false
  course : (u.block b).course = none
  quiet : ops.steer = [] ∨ (n = 3 → niAction (u.member b i) niSteer = 0)

theorem Reads.settled {s u : State} {ni : Bool} {x : Ext} {regs : List Nat} {is : Issue} {i : Nat} {ops : MemOps}
    (h : Keeps (started s) u) (hs : Single ni x regs s is i) (hn : ops.steer = [] ∨ ni = true) : Settled ops (s.member is.blk i).sibs.length u is.blk i := by
  have hb : u.block is.blk = s.block is.blk := h.block is.blk
  have hm : u.member is.blk i = s.member is.blk i := by unfold State.member; rw [hb]
  exact
    { cap := by rw [hm]; exact hs.ready.fresh
      step := by rw [hm]; exact hs.ready.step
      course := by rw [hb]; exact hs.course
      quiet := hn.imp id (fun h => by rw [hm]; exact fun g => hs.ready.quiet h g niSteer (by decide)) }

theorem rest_two (u a r : State) (h1 : a = { u with blocks := a.blocks }) (h2 : r = { a with cores := r.cores }) :
    r = { u with blocks := r.blocks, cores := r.cores } := by
  cases u; cases a; cases r
  simp only [State.mk.injEq] at h1 h2 ⊢
  simp_all

/-- Retirement of the one member whose access is done, and the end of its issue. -/
theorem complete_one (x : Ext) (major : Nat) (logged : Bool) (dest : Member → Nat → Nat → List Out) (s u : State) (is : Issue)
    (i : Nat) (ops : MemOps) (vs : List Nat) (ev : Option NiEvent) (hd : (s.block is.blk).dbg = false)
    (hu : Settled ops (s.member is.blk i).sibs.length u is.blk i) (he : ∀ e, ev = some e → niAction (u.member is.blk i) e.code = 0) :
    Completes x u (afterIssue s ((memComplete x major logged dest is.blk { s := u, precise := none, after := [] } (i, vs, ev)).finish
      is.blk is.mems) is.blk is.mems) is.blk i (fun k => dest (u.member is.blk i) k (vs.getD k 0)) := by
  let m := u.member is.blk i
  let outs := m.sibs.zipIdx.map (fun rk => dest m rk.2 (vs.getD rk.2 0))
  let B := if logged then logWrites (u.block is.blk) i outs else u.block is.blk
  have hB : ∃ c, B = { u.block is.blk with course := c } ∧ c = none := by
    cases logged with
    | false => exact ⟨(u.block is.blk).course, rfl, hu.course⟩
    | true =>
      obtain ⟨c, h1, h2⟩ := logWrites_course (u.block is.blk) i outs
      exact ⟨c, h1, h2 hu.course⟩
  obtain ⟨c, hBc, hcn⟩ := hB
  have hBu : B = u.block is.blk := by
    rw [hBc, hcn, ← hu.course]
  let sibs := m.sibs.zipIdx.map (fun rk => rk.1.writeAll (outs.getD rk.2 []))
  let a1 : Acc := { s := u.setBlock is.blk B, precise := none, after := [] }
  let a2 := a1.retire is.blk i x major { m with sibs := sibs } (nextPc m.pc x.len)
  have e2 : memComplete x major logged dest is.blk { s := u, precise := none, after := [] } (i, vs, ev) = a2 := by
    cases ev with
    | none => rfl
    | some e => exact Acc.instability_off a2 is.blk i x major m e (he e rfl)
  obtain ⟨q1, q2, q3, q4, q5, q6⟩ := Acc.retire_spec a1 is.blk i x major { m with sibs := sibs } (nextPc m.pc x.len) hu.step
  have hp : a2.precise = none := q1
  have ha : a2.after = [] := q2
  have hf : a2.finish is.blk is.mems = reseat a2.s is.blk is.mems := by
    unfold Acc.finish; simp [hp, Acc.ordered, ha]
  have hb1 : a1.s.block is.blk = u.block is.blk := by simp [a1, hBu]
  have hR := reseat_reads a2.s is.blk is.mems
  have hcb : ((reseat a2.s is.blk is.mems).block is.blk).course = none := by
    rw [hR.block]; exact q6 (by rw [hb1]; exact hu.course)
  rw [e2, hf, afterIssue_plain s _ is.blk is.mems hd hcb]
  have hO : OneBlock is.blk u a2.s := (OneBlock.setBlock is.blk u B (by rw [hBu])).trans q3
  have hmem : ∀ j, a2.s.member is.blk j = if j = i then
      ({ m with sibs := sibs } : Member).retire (u.block is.blk).handler.isSome x.stall (nextPc m.pc x.len)
      else u.member is.blk j := by
    intro j
    have := q5 j
    rw [hb1] at this
    rw [this]
    by_cases h : j = i
    · rw [if_pos h, if_pos h]
    · rw [if_neg h, if_neg h]; show (a1.s.block is.blk).member j = _; rw [hb1]; rfl
  have houts : ∀ k, k < m.sibs.length → outs.getD k [] = dest m k (vs.getD k 0) := by
    intro k hk
    have h1 : outs[k]? = some (dest m k (vs.getD k 0)) := by
      simp only [outs, List.getElem?_map, List.getElem?_zipIdx]
      rw [List.getElem?_eq_getElem hk]; simp
    rw [List.getD_eq_getElem?_getD, h1, Option.getD_some]
  have hsibs : sibs = m.sibs.zipIdx.map (fun rk => rk.1.writeAll (dest m rk.2 (vs.getD rk.2 0))) := by
    apply List.map_congr_left
    intro rk hrk
    have := List.snd_lt_of_mem_zipIdx hrk
    rw [houts rk.2 (by simpa using this)]
  constructor
  · rw [hR.member, hmem, if_pos rfl]
    have hcm : m.cap = none := hu.cap
    simp only [Member.retire, Member.recordIcount, hsibs, hcm]
    rfl
  · intro j hj; rw [hR.member, hmem, if_neg hj]
  · intro c hc; rw [hR.block]; exact hO.others c hc
  · have hk : (a2.s.block is.blk).k = (u.block is.blk).k := by rw [q4, hb1]
    have hcc : (a2.s.block is.blk).course = (u.block is.blk).course := by
      rw [hu.course]; exact q6 (by rw [hb1]; exact hu.course)
    rw [hR.block]
    have := hO.block
    rw [hk, hcc] at this
    exact this
  · exact rest_two u a2.s _ hO.rest (reseat_tables a2.s is.blk is.mems).rest
  · intro c
    have h1 := (reseat_tables a2.s is.blk is.mems).core c
    have h2 : a2.s.core c = u.core c := by unfold State.core; rw [hO.rest]
    rw [h2] at h1
    exact h1

/-- What follows one member's step in a memory instruction whose access waits, faults or is not ready. -/
theorem memStep_other (ni : Bool) (x : Ext) (major : Nat) (ops : MemOps) (body : MemIn → State → State × MemRes) (s : State)
    (is : Issue) (i : Nat) (u : State) (res : MemRes) (hs : Single ni x (readRegs ops.reads ++ ops.more) s is i)
    (hb : body (memIn s is i x ops.reads) (started s) = (u, res)) :
    memStep x major ops body is.blk { a := Acc.start (started s), done := [], faults := [], waits := [], stuck := false } i =
      match res with
      | .done vs =>
        { a := { s := u, precise := none, after := [] }
          done := [(i, vs, steerEvent (ops.steer.map (fun k => (memIn s is i x ops.reads).vals.map (fun v => v.getD k 0))))]
          faults := [], waits := [], stuck := false }
      | .fault f => { a := { s := u, precise := none, after := [] }, done := [], faults := [(i, f)], waits := [], stuck := false }
      | .wait k => { a := { s := u, precise := none, after := [] }, done := [], faults := [], waits := [(i, k)], stuck := false }
      | .notReady => { a := { s := u, precise := none, after := [] }, done := [], faults := [], waits := [], stuck := true } := by
  have hm : ((started s).block is.blk).member i = s.member is.blk i := rfl
  have hblk : (started s).block is.blk = s.block is.blk := rfl
  have hf := hs.ready.fresh
  have hcs : ((started s).block is.blk).course = none := hs.course
  have hcap : captureSrcs ((started s).block is.blk) (s.member is.blk i) ops.reads =
      (s.member is.blk i).sibs.map (fun r => ops.reads.map (fun w => BitVec.ofNat 64 (opRead (s.block is.blk) r w.1 w.2))) := by
    unfold captureSrcs; rw [hf, hblk]
  have hv : (captureSrcs ((started s).block is.blk) (s.member is.blk i) ops.reads).map (fun v => v.map BitVec.toNat) =
      (memIn s is i x ops.reads).vals := by
    rw [hcap]; simp [memIn, List.map_map, Function.comp_def]
  have hin : (⟨is.blk, i, s.member is.blk i, x, (memIn s is i x ops.reads).vals, true⟩ : MemIn) = memIn s is i x ops.reads :=
    rfl
  unfold memStep
  simp only [Acc.start, hm, hf, Option.isSome_none, Bool.not_false, Bool.true_and, hs.ready.guardSeen, hs.guard, Bool.not_true,
    Bool.false_eq_true, if_false, hs.ready.seen hs.guard, hv, Option.bind_none, List.isEmpty_nil, Bool.and_self, hcs,
    Option.isNone_none, Bool.or_false, if_true, hin, hb, List.nil_append]
  cases res <;> rfl

/-- The state and the event of a member whose access is done. -/
theorem memStep_done (ni : Bool) (x : Ext) (major : Nat) (ops : MemOps) (body : MemIn → State → State × MemRes) (s : State)
    (is : Issue) (i : Nat) (u : State) (vs : List Nat) (hs : Single ni x (readRegs ops.reads ++ ops.more) s is i)
    (hb : body (memIn s is i x ops.reads) (started s) = (u, .done vs)) :
    memStep x major ops body is.blk { a := Acc.start (started s), done := [], faults := [], waits := [], stuck := false } i =
      { a := { s := u, precise := none, after := [] }
        done := [(i, vs, steerEvent (ops.steer.map (fun k => (memIn s is i x ops.reads).vals.map (fun v => v.getD k 0))))]
        faults := [], waits := [], stuck := false } :=
  memStep_other ni x major ops body s is i u (.done vs) hs hb

theorem memRun_completes (ni : Bool) (x : Ext) (major : Nat) (ops : MemOps) (logged : Bool)
    (dest : Member → Nat → Nat → List Out) (body : MemIn → State → State × MemRes) (s : State) (is : Issue) (i : Nat) (u : State)
    (vs : List Nat) (hs : Single ni x (readRegs ops.reads ++ ops.more) s is i)
    (hb : body (memIn s is i x ops.reads) (started s) = (u, .done vs)) (hu : Settled ops (s.member is.blk i).sibs.length u is.blk i) :
    ∃ t, memRun x major ops logged dest body s = .next t ∧
      Completes x u t is.blk i (fun k => dest (u.member is.blk i) k (vs.getD k 0)) := by
  refine ⟨_, ?_, complete_one x major logged dest s u is i ops vs
    (steerEvent (ops.steer.map (fun k => (memIn s is i x ops.reads).vals.map (fun v => v.getD k 0)))) hs.dbg hu ?_⟩
  · unfold memRun
    rw [withIssue_some _ _ is hs.cur]
    unfold memIssue
    rw [hs.mems]
    have := memStep_done ni x major ops body s is i u vs hs hb
    unfold started at this
    simp only [List.foldl_cons, List.foldl_nil, this, Bool.false_eq_true, if_false, MemAcc.finish]
  · intro e he
    rcases hu.quiet with h | h
    · rw [h] at he; cases he
    · rw [steerEvent_code _ e he]
      refine h (steerEvent_triad _ _ ?_ e he)
      intro xs hx
      obtain ⟨k, -, rfl⟩ := List.mem_map.1 hx
      simp [memIn]

theorem onceRun_completes (ni : Bool) (x : Ext) (major : Nat) (ops : MemOps) (logged : Bool)
    (dest : Member → Nat → Nat → List Out) (also : Nat → List Nat → State → Nat → State)
    (body : MemIn → State → State × MemRes) (s : State) (is : Issue) (i : Nat) (u : State)
    (vs : List Nat) (hs : Single ni x (readRegs ops.reads ++ ops.more) s is i)
    (hb : body (memIn s is i x ops.reads) (started s) = (u, .done vs)) (hu : Settled ops (s.member is.blk i).sibs.length u is.blk i) :
    ∃ t, onceRun x major ops logged dest body s also = .next t ∧
      Completes x u t is.blk i (fun k => dest (u.member is.blk i) k (vs.getD k 0)) := by
  obtain ⟨t, ht, h⟩ := memRun_completes ni x major ops logged dest body s is i u vs hs hb hu
  refine ⟨t, ?_, h⟩
  rw [← ht]
  unfold onceRun memRun
  rw [withIssue_some _ _ is hs.cur, withIssue_some _ _ is hs.cur]
  unfold memIssue
  rw [hs.mems]
  have e : ∀ s1, onceStep x major ops also body is.blk { a := Acc.start s1, done := [], faults := [], waits := [], stuck := false } i =
      memStep x major ops body is.blk { a := Acc.start s1, done := [], faults := [], waits := [], stuck := false } i := by
    intro s1; unfold onceStep; simp
  simp only [List.foldl_cons, List.foldl_nil, e]
  rfl

theorem drainRun_completes (ni : Bool) (x : Ext) (major : Nat) (once : Bool) (ops : MemOps) (logged : Bool)
    (dest : Member → Nat → Nat → List Out) (body : MemIn → State → State × MemRes) (s : State) (is : Issue) (i : Nat) (u : State)
    (vs : List Nat) (hs : Single ni x (readRegs ops.reads ++ ops.more) s is i)
    (hb : body (memIn s is i x ops.reads) (started s) = (u, .done vs)) (hu : Settled ops (s.member is.blk i).sibs.length u is.blk i) :
    ∃ t, drainRun x major once ops logged dest body s = .next t ∧
      Completes x u t is.blk i (fun k => dest (u.member is.blk i) k (vs.getD k 0)) := by
  obtain ⟨t, ht, h⟩ := memRun_completes ni x major ops logged dest body s is i u vs hs hb hu
  refine ⟨t, ?_, h⟩
  rw [← ht]
  unfold drainRun memRun
  rw [withIssue_some _ _ is hs.cur, withIssue_some _ _ is hs.cur]
  unfold memIssue
  rw [hs.mems]
  have e : ∀ s1, (if once then onceStep x major ops noMore else memStep x major ops) body is.blk
        { a := Acc.start s1, done := [], faults := [], waits := [], stuck := false } i =
      memStep x major ops body is.blk { a := Acc.start s1, done := [], faults := [], waits := [], stuck := false } i := by
    intro s1
    split
    · unfold onceStep; simp
    · rfl
  have := memStep_done ni x major ops body s is i u vs hs hb
  unfold started at this
  simp only [List.foldl_cons, List.foldl_nil, e, this, Bool.false_eq_true, if_false, MemAcc.finish, MemAcc.finishDrain]

theorem onceStep_start (x : Ext) (major : Nat) (ops : MemOps)
    (also : Nat → List Nat → State → Nat → State) (body : MemIn → State → State × MemRes) (b i : Nat) (s : State) :
    onceStep x major ops also body b { a := Acc.start s, done := [], faults := [], waits := [], stuck := false } i =
      memStep x major ops body b { a := Acc.start s, done := [], faults := [], waits := [], stuck := false } i := by
  unfold onceStep; simp

/-- A single member's memory instruction that is not ready leaves everything but the issue tables (15 R264). -/
theorem memRun_stuck (ni : Bool) (x : Ext) (major : Nat) (ops : MemOps) (logged : Bool) (dest : Member → Nat → Nat → List Out)
    (body : MemIn → State → State × MemRes) (s : State) (is : Issue) (i : Nat) (u : State)
    (hs : Single ni x (readRegs ops.reads ++ ops.more) s is i)
    (hb : body (memIn s is i x ops.reads) (started s) = (u, .notReady)) :
    memRun x major ops logged dest body s = .next (reseat (started s) is.blk [i]) := by
  unfold memRun
  rw [withIssue_some _ _ is hs.cur]
  unfold memIssue
  rw [hs.mems]
  have := memStep_other ni x major ops body s is i u _ hs hb
  unfold started at this
  simp only [List.foldl_cons, List.foldl_nil, this, if_true]
  congr 1
  refine afterIssue_plain _ _ _ _ hs.dbg ?_
  rw [(reseat_reads ..).block]
  exact hs.course

/-- A single member's memory instruction that comes to wait (15 R265). -/
theorem memRun_waits (ni : Bool) (x : Ext) (major : Nat) (ops : MemOps) (logged : Bool) (dest : Member → Nat → Nat → List Out)
    (body : MemIn → State → State × MemRes) (s : State) (is : Issue) (i : Nat) (u : State) (k : WaitKind) (ids : List Nat)
    (hk : (match k with | .remote _ r => r | _ => []) = ids)
    (hs : Single ni x (readRegs ops.reads ++ ops.more) s is i)
    (hb : body (memIn s is i x ops.reads) (started s) = (u, .wait k)) (hu : Keeps (started s) u) (hi : u.issues = s.issues + 1) :
    ∃ t, memRun x major ops logged dest body s = .next t ∧
      Waits u t is.blk i k (captured s is.blk (s.member is.blk i) x major ops.reads ids) := by
  have hub : u.block is.blk = s.block is.blk := hu.block is.blk
  have hum : u.member is.blk i = s.member is.blk i := by unfold State.member; rw [hub]
  have hcap : capture u is.blk i x major u.issues ops.reads none (some k) = u.setMember is.blk i
      { u.member is.blk i with wait := some k, cap := some (captured s is.blk (s.member is.blk i) x major ops.reads ids) } := by
    unfold capture
    have h1 : (u.block is.blk).member i = s.member is.blk i := hum
    have h2 : captureSrcs (u.block is.blk) (s.member is.blk i) ops.reads =
        (s.member is.blk i).sibs.map (fun r => ops.reads.map (fun w => BitVec.ofNat 64 (opRead (s.block is.blk) r w.1 w.2))) := by
      unfold captureSrcs; rw [hs.ready.fresh, hub]
    simp only [h1, hs.ready.fresh, h2, hi, hum]
    unfold captured
    rw [← hk]
    cases k <;> rfl
  let v := u.setMember is.blk i
      { u.member is.blk i with wait := some k, cap := some (captured s is.blk (s.member is.blk i) x major ops.reads ids) }
  have hR := reseat_reads v is.blk is.mems
  have hvb : v.block is.blk = (u.block is.blk).setMember i
      { u.member is.blk i with wait := some k, cap := some (captured s is.blk (s.member is.blk i) x major ops.reads ids) } := by
    simp [v, State.setMember]
  refine ⟨reseat v is.blk is.mems, ?_, ?_⟩
  · unfold memRun
    rw [withIssue_some _ _ is hs.cur]
    unfold memIssue
    rw [hs.mems]
    have := memStep_other ni x major ops body s is i u _ hs hb
    unfold started at this
    simp only [List.foldl_cons, List.foldl_nil, this, Bool.false_eq_true, if_false, MemAcc.finish, hcap, Acc.finish, Acc.ordered, raisedAfter_nil,
      List.filter_nil, List.append_nil]
    congr 1
    refine afterIssue_plain _ _ _ _ hs.dbg ?_
    rw [(reseat_reads ..).block, hvb]
    show (u.block is.blk).course = none
    rw [hub]
    exact hs.course
  · constructor
    · rw [hR.member]
      unfold State.member
      rw [hvb, Block.setMember_member, if_pos rfl]
      rfl
    · intro j hj
      rw [hR.member]
      unfold State.member
      rw [hvb, Block.setMember_member, if_neg hj]
    · intro c hc
      rw [hR.block]
      simp [v, State.setMember, hc]
    · rw [hR.block, hvb]; rfl
    · exact rest_two u v _ rfl (reseat_tables v is.blk is.mems).rest
    · intro c
      exact (reseat_tables v is.blk is.mems).core c

/-- A single member's memory instruction whose access faults takes its trap (12 R220; 19 R343, R344). -/
theorem memRun_traps (ni : Bool) (x : Ext) (major : Nat) (ops : MemOps) (logged : Bool) (dest : Member → Nat → Nat → List Out)
    (body : MemIn → State → State × MemRes) (s : State) (is : Issue) (i : Nat) (u : State) (f : Flt)
    (hs : Single ni x (readRegs ops.reads ++ ops.more) s is i)
    (hb : body (memIn s is i x ops.reads) (started s) = (u, .fault f)) (hu : Keeps (started s) u) (hi : u.issues = s.issues + 1) :
    memRun x major ops logged dest body s = .next (afterIssue s (takeTrap (reseat (u.setMember is.blk i
      { s.member is.blk i with
        wait := claimed (s.member is.blk i).wait, cap := some (captured s is.blk (s.member is.blk i) x major ops.reads []) })
      is.blk [i]) is.blk (memTrap (s.member is.blk i) i x major f)) is.blk [i]) := by
  have hub : u.block is.blk = s.block is.blk := hu.block is.blk
  have hum : u.member is.blk i = s.member is.blk i := by unfold State.member; rw [hub]
  have hcap : capture u is.blk i x major u.issues ops.reads none (claimed (u.member is.blk i).wait) = u.setMember is.blk i
      { s.member is.blk i with
        wait := claimed (s.member is.blk i).wait, cap := some (captured s is.blk (s.member is.blk i) x major ops.reads []) } := by
    unfold capture
    have h1 : (u.block is.blk).member i = s.member is.blk i := hum
    have h2 : captureSrcs (u.block is.blk) (s.member is.blk i) ops.reads =
        (s.member is.blk i).sibs.map (fun r => ops.reads.map (fun w => BitVec.ofNat 64 (opRead (s.block is.blk) r w.1 w.2))) := by
      unfold captureSrcs; rw [hs.ready.fresh, hub]
    simp only [h1, hs.ready.fresh, h2, hi, hum]
    unfold captured
    cases (s.member is.blk i).wait with
    | none => rfl
    | some k => cases k <;> rfl
  unfold memRun
  rw [withIssue_some _ _ is hs.cur]
  unfold memIssue
  rw [hs.mems]
  have := memStep_other ni x major ops body s is i u _ hs hb
  unfold started at this
  simp only [List.foldl_cons, List.foldl_nil, this, Bool.false_eq_true, if_false, MemAcc.finish, hcap, Acc.finish, Acc.ordered, raisedAfter_nil,
    List.filter_nil, List.append_nil, List.map_nil, List.map_cons, holdAll]
  congr 3
  have hmm : ∀ m : Member, ((u.setMember is.blk i m).block is.blk).member i = m := by
    intro m
    simp [State.setMember, Block.setMember_member]
  simp only [groupTrap, trapOf, memTrap, groupMask, hmm, List.filterMap_nil, List.foldl_cons, List.foldl_nil, List.nil_append,
    Nat.zero_or, List.append_nil]
  rfl

end Sys2Proof.Machine
end

