-- ==== Sys2Proof/Laws/Calm.lean ====
section
/-!
SUPPORT. Accesses that leave a member able to retire: they change neither its unfinished instruction, its STEP bit, its block's course
nor its instability actions; and the completion of the instruction that makes such an access.
-/
namespace Sys2Proof.Machine

open Safety

/-- What `u` keeps of member `i` of block `b` in `s`. -/
structure Calm (b i : Nat) (s u : State) : Prop where
  cap : (u.member b i).cap = (s.member b i).cap
  step : (u.member b i).step = (s.member b i).step
  course : (u.block b).course = (s.block b).course
  ni : ∀ c, niAction (u.member b i) c = niAction (s.member b i) c

theorem Calm.refl (b i : Nat) (s : State) : Calm b i s s := ⟨rfl, rfl, rfl, fun _ => rfl⟩
theorem Calm.trans {b i : Nat} {s t u : State} (h : Calm b i s t) (g : Calm b i t u) : Calm b i s u :=
  ⟨g.cap.trans h.cap, g.step.trans h.step, g.course.trans h.course, fun c => (g.ni c).trans (h.ni c)⟩

theorem Calm.of_blocks {b i : Nat} {s u : State} (h : u.blocks = s.blocks) : Calm b i s u := by
  have hb : u.block b = s.block b := by unfold State.block; rw [h]
  have hm : u.member b i = s.member b i := by unfold State.member; rw [hb]
  exact ⟨by rw [hm], by rw [hm], by rw [hb], fun c => by rw [hm]⟩

theorem Keeps.calm {s u : State} (h : Keeps s u) (b i : Nat) : Calm b i s u := .of_blocks h.blocks

/-- A change of a block that keeps its members and its course. -/
theorem Calm.setBlock (b i : Nat) (s : State) (h : Nat) (B : Block) (hm : B.members = (s.block h).members)
    (hc : B.course = (s.block h).course) : Calm b i s (s.setBlock h B) := by
  have key : ∀ j, (if b = h then B else s.block b).member j = (s.block b).member j := by
    intro j
    by_cases e : b = h
    · rw [if_pos e, e]; unfold Block.member; rw [hm]
    · rw [if_neg e]
  have hb : (s.setBlock h B).block b = if b = h then B else s.block b := State.setBlock_block ..
  refine ⟨?_, ?_, ?_, ?_⟩
  · unfold State.member; rw [hb, key]
  · unfold State.member; rw [hb, key]
  · rw [hb]; by_cases e : b = h
    · rw [if_pos e, hc, e]
    · rw [if_neg e]
  · intro c; unfold State.member; rw [hb, key]

/-- A change of a member that keeps what `Calm` names. -/
theorem Calm.setMember (b i : Nat) (s : State) (c j : Nat) (m : Member) (hc : m.cap = (s.member c j).cap)
    (hs : m.step = (s.member c j).step) (hn : ∀ k, niAction m k = niAction (s.member c j) k) : Calm b i s (s.setMember c j m) := by
  have hb : (s.setMember c j m).block b = if b = c then (s.block c).setMember j m else s.block b := by
    unfold State.setMember; exact State.setBlock_block ..
  have hm : (s.setMember c j m).member b i = if b = c ∧ i = j then m else s.member b i := by
    unfold State.member
    rw [hb]
    by_cases e : b = c
    · rw [if_pos e, Block.setMember_member]
      by_cases f : i = j
      · rw [if_pos f, if_pos ⟨e, f⟩]
      · rw [if_neg f, if_neg (fun h => f h.2), e]
    · rw [if_neg e, if_neg (fun h => e h.1)]
  refine ⟨?_, ?_, ?_, ?_⟩
  · rw [hm]; split
    · next h => rw [hc, h.1, h.2]
    · rfl
  · rw [hm]; split
    · next h => rw [hs, h.1, h.2]
    · rfl
  · rw [hb]; split
    · next h => rw [h]; rfl
    · rfl
  · intro k; rw [hm]; split
    · next h => rw [hn, h.1, h.2]
    · rfl

theorem Calm.foldl {α : Type} {b i : Nat} (f : State → α → State) (hf : ∀ s a, Calm b i s (f s a)) (l : List α) (s : State) :
    Calm b i s (l.foldl f s) := by
  induction l generalizing s with
  | nil => exact .refl ..
  | cons a r ih => exact (hf s a).trans (ih (f s a))

theorem Calm.foldl_fst {α β : Type} {b i : Nat} (f : State × β → α → State × β) (hf : ∀ a x, Calm b i a.1 (f a x).1) (l : List α)
    (a : State × β) : Calm b i a.1 (l.foldl f a).1 := by
  induction l generalizing a with
  | nil => exact .refl ..
  | cons x r ih => exact (hf a x).trans (ih (f a x))

theorem Calm.of_pair {b i : Nat} {s t : State} {β : Type} {r : State × β} {x : β} (e : r = (t, x)) (h : Calm b i s r.1) :
    Calm b i s t := by rw [e] at h; exact h

/-- Lane-store writes change no control register. -/
theorem niAction_sibs (m : Member) (f : Regs × Nat → Regs) (hf : ∀ rk, (f rk).c = rk.1.c) (k : Nat) :
    niAction { m with sibs := m.sibs.zipIdx.map f } k = niAction m k := by
  unfold niAction Member.first
  cases h : m.sibs with
  | nil => rfl
  | cons r t =>
    simp only [List.zipIdx_cons, List.map_cons, List.headD_cons]
    unfold Regs.ctl
    rw [hf]

theorem niAction_map (m : Member) (f : Regs → Regs) (hf : ∀ r, (f r).c = r.c) (k : Nat) :
    niAction { m with sibs := m.sibs.map f } k = niAction m k := by
  unfold niAction Member.first
  cases h : m.sibs with
  | nil => rfl
  | cons r t =>
    simp only [List.map_cons, List.headD_cons]
    unfold Regs.ctl
    rw [hf]

theorem spadWrite_calm (b i : Nat) (s : State) (c off : Nat) (bs : List Byte) : Calm b i s (spadWrite s c off bs) := by
  unfold spadWrite; exact .setBlock _ _ _ _ _ rfl rfl
theorem setFull_calm (b i : Nat) (s : State) (c off : Nat) (v : Bool) : Calm b i s (setFull s c off v) := by
  unfold setFull; exact .setBlock _ _ _ _ _ rfl rfl
theorem setOwner_calm (b i : Nat) (s : State) (c n : Nat) (o : Owner) : Calm b i s (setOwner s c n o) := by
  unfold setOwner; exact .setBlock _ _ _ _ _ rfl rfl
theorem flushL1_keeps (s : State) (c : Nat) : Reads s (flushL1 s c) := .setCore ..
theorem dropAhead_calm (b i : Nat) (s : State) (c j : Nat) : Calm b i s (dropAhead s c j) := by
  unfold dropAhead
  simp only
  split
  · exact .setMember _ _ _ _ _ _ rfl rfl (fun _ => rfl)
  · exact .refl ..
theorem acquireEffect_calm (b i : Nat) (s : State) (c j : Nat) (o : MOrd) (sc : Scope) : Calm b i s (acquireEffect s c j o sc) := by
  unfold acquireEffect
  split
  · simp only
    split
    · exact (dropAhead_calm ..).trans ((flushL1_keeps ..).toKeeps.calm ..)
    · exact dropAhead_calm ..
  · exact .refl ..

theorem lsWrite_c (r : Regs) (off : Nat) (bs : List Byte) : (lsWrite r off bs).c = r.c := rfl

theorem digitStore_calm (b i : Nat) (s : State) (c j : Nat) (pl : Place1 × Option Page) (d : Nat) :
    Calm b i s (digitStore s c j pl d) := by
  unfold digitStore
  split
  · next off _ => exact .setMember _ _ _ _ _ _ rfl rfl (fun k => niAction_map (s.member c j)
      (fun r => lsWrite r off [BitVec.ofNat 8 d]) (fun _ => rfl) k)
  · exact spadWrite_calm ..
  · exact (storeKey_keeps ..).calm ..
  · exact .refl ..

theorem digitCheck_reads (s : State) (b : Nat) (m : Member) (va : Nat) (k : AccKind) : Reads s (digitCheck s b m va k).1 := by
  unfold digitCheck
  split
  · exact .refl s
  · have h := reach_reads s (threadOf (s.block b)) (by assumption) 1 k 1
    split
    · next e => rw [e] at h; exact h
    · next e => rw [e] at h; exact h
  · exact .refl s

theorem digitChecks_reads (s : State) (b : Nat) (m : Member) (l : List Nat) : Reads s (digitChecks s b m l).1 := by
  induction l generalizing s with
  | nil => exact .refl s
  | cons va r ih =>
    unfold digitChecks
    have h := digitCheck_reads s b m va .write
    split
    · next e => rw [e] at h; exact h
    · next s1 pl e =>
      rw [e] at h
      have g := ih s1
      split
      · next e2 => rw [e2] at g; exact h.trans g
      · next e2 => rw [e2] at g; exact h.trans g

theorem digitLoad_reads (s : State) (b : Nat) (m : Member) (pl : Place1 × Option Page) : Reads s (digitLoad s b m pl).1 := by
  unfold digitLoad
  split
  · exact .refl s
  · exact .refl s
  · exact loadKey_reads ..
  · exact .refl s

/-- A load changes no block. -/
theorem loadPlace_reads (s : State) (b : Nat) (m : Member) (t : Ty) (pl : Place1) : Reads s (loadPlace s b m t pl).1 := by
  unfold loadPlace
  simp only
  split
  · exact .refl s
  · exact .refl s
  · next va =>
    have h := reach_reads s (threadOf (s.block b)) va (tyBytes t) .read m.nsib
    split
    · next e => rw [e] at h; exact h
    · next s1 p e =>
      rw [e] at h
      have h : Reads s s1 := h
      split
      · refine h.trans ?_
        exact Reads.foldl_fst (fun (acc : State × List Nat) (k : Nat) =>
          ((loadKey acc.1 (threadOf (s.block b)) p (p.plane k) (tyBytes t)).1,
            acc.2 ++ [leNat (loadKey acc.1 (threadOf (s.block b)) p (p.plane k) (tyBytes t)).2]))
          (fun a k => loadKey_reads ..) _ (s1, [])
      · split
        · have g := digitCheck_reads s1 b m (va / 4 * 4) .read
          split
          · next e2 => rw [e2] at g; exact h.trans g
          · next s2 dp e2 =>
            rw [e2] at g
            exact (h.trans g).trans ((loadKey_reads ..).trans (digitLoad_reads ..))
        · exact h.trans (loadKey_reads ..)

theorem storePlace_calm (b i : Nat) (s : State) (c j : Nat) (t : Ty) (pl : Place1) (vs : List Nat) :
    Calm b i s (storePlace s c j t pl vs).1 := by
  unfold storePlace
  simp only
  split
  · next off => exact .setMember _ _ _ _ _ _ rfl rfl (fun k => niAction_sibs (s.member c j)
      (fun rk => lsWrite rk.1 off (leBytes (tyBytes t) (vs.getD rk.2 0))) (fun _ => rfl) k)
  · exact spadWrite_calm ..
  · next va =>
    have h := (reach_reads s (threadOf (s.block c)) va (tyBytes t) .write 3).toKeeps.calm b i
    split
    · next e => exact Calm.of_pair e h
    · next s1 p e =>
      have h : Calm b i s s1 := Calm.of_pair e h
      split
      · refine h.trans ?_
        generalize List.range 3 = l
        dsimp only
        exact Calm.foldl (fun (v : State) k => storeKey v (threadOf (s.block c)) p (p.plane k) (leBytes (tyBytes t) (vs.getD k (vs.headD 0))))
          (fun _ _ => (storeKey_keeps ..).calm ..) _ _
      · split
        · have g := (digitChecks_reads s1 c (s.member c j) (touchedWords va (tyBytes t))).toKeeps.calm b i
          split
          · next e2 => exact h.trans (Calm.of_pair e2 g)
          · next s2 dps e2 =>
            have g : Calm b i s1 s2 := Calm.of_pair e2 g
            dsimp only
            refine ((h.trans g).trans ((storeKey_keeps s2 (threadOf (s.block c)) p p.key (leBytes (tyBytes t) (tyStored t vs))).calm b i)).trans ?_
            exact Calm.foldl (fun s dp => digitStore s c j dp (digitByte t vs)) (fun _ _ => digitStore_calm ..) _ _
        · dsimp only
          exact h.trans ((storeKey_keeps ..).calm ..)

theorem reachAtomic_reads (s : State) (w : Who) (va n planes : Nat) : Reads s (reachAtomic s w va n planes).1 := by
  unfold reachAtomic
  have h := translate_reads s w va n .atomic
  split
  · next e => rw [e] at h; exact h
  · next s1 p e =>
    rw [e] at h
    have h : Reads s s1 := h
    split
    · exact h.trans (reach_reads ..)
    · exact h

theorem atomAt_calm (b i : Nat) (s : State) (w : Who) (p : Page) (k op : Nat) (t : Ty) (c d : Nat) :
    Calm b i s (atomAt s w p k op t c d).1 := by
  unfold atomAt; exact (atomicKey_keeps ..).calm b i

theorem atomPlace_calm (b i : Nat) (s : State) (c j op : Nat) (t : Ty) (pl : Place1) (cs ds : List Nat) :
    Calm b i s (atomPlace s c j op t pl cs ds).1 := by
  unfold atomPlace
  simp only
  split
  · next off => exact .setMember _ _ _ _ _ _ rfl rfl (fun k => niAction_sibs (s.member c j)
      (fun rk => lsWrite rk.1 off (leBytes (tyBytes t)
        (atomNew op t (((s.member c j).sibs.map (fun r => leNat (lsRead r off (tyBytes t)))).getD rk.2 0) (cs.getD rk.2 0) (ds.getD rk.2 0))))
      (fun _ => rfl) k)
  · exact spadWrite_calm ..
  · next va =>
    have h := (reachAtomic_reads s (threadOf (s.block c)) va (tyBytes t) 3).toKeeps.calm b i
    split
    · next e => exact Calm.of_pair e h
    · next s1 p e =>
      have h : Calm b i s s1 := Calm.of_pair e h
      split
      · refine h.trans (Calm.foldl_fst _ ?_ _ (s1, []))
        intro a k
        simp only
        split
        · exact atomAt_calm ..
        · dsimp only
          exact (atomicKey_keeps ..).calm b i
      · split
        · have g := (digitChecks_reads s1 c (s.member c j) (touchedWords va (tyBytes t))).toKeeps.calm b i
          split
          · next e2 => exact h.trans (Calm.of_pair e2 g)
          · next s2 dps e2 =>
            have g : Calm b i s1 s2 := Calm.of_pair e2 g
            dsimp only
            refine ((h.trans g).trans (atomAt_calm b i s2 (threadOf (s.block c)) p p.key op t (atomMedian t cs) (atomMedian t ds))).trans ?_
            exact Calm.foldl (fun s dp => digitStore s c j dp 0xFF) (fun _ _ => digitStore_calm ..) _ _
        · dsimp only
          exact h.trans (atomAt_calm b i s1 _ p p.key op t _ _)

theorem syncReach_reads (s : State) (w : Who) (va : Int) (k : AccKind) : Reads s (syncReach s w va k).1 := by
  unfold syncReach
  split
  · exact .refl s
  · next die off _ =>
    have h := checkTarget_reads s w 0 (syncKey die off) 8 va.toNat k
    have g := h.trans (countReq_reads (checkTarget s w 0 (syncKey die off) 8 va.toNat k).1 w
      (syncPage va.toNat (syncKey die off)) (syncKey die off) k.req)
    simp only
    split <;> exact g

/-- The results on their way may be named for the member's siblings alone. -/
theorem completes_congr {x : Ext} {u t : State} {b i : Nat} {outs outs' : Nat → List Out} (h : Completes x u t b i outs)
    (ho : ∀ k, k < (u.member b i).sibs.length → outs k = outs' k) : Completes x u t b i outs' := by
  have e : (u.member b i).sibs.zipIdx.map (fun rk => rk.1.writeAll (outs rk.2)) =
      (u.member b i).sibs.zipIdx.map (fun rk => rk.1.writeAll (outs' rk.2)) := by
    apply List.map_congr_left
    intro rk hrk
    have := List.snd_lt_of_mem_zipIdx hrk
    rw [ho rk.2 (by simpa using this)]
  exact { h with member := by rw [h.member, e] }

/-- A calm access whose instruction may raise STEER settles. -/
theorem Calm.settled {s u : State} {ni : Bool} {x : Ext} {regs : List Nat} {is : Issue} {i : Nat} {ops : MemOps}
    (h : Calm is.blk i (started s) u) (hs : Single ni x regs s is i) (hn : ops.steer = [] ∨ ni = true) :
    Settled ops (s.member is.blk i).sibs.length u is.blk i :=
  { cap := h.cap.trans hs.ready.fresh
    step := h.step.trans hs.ready.step
    course := h.course.trans hs.course
    quiet := hn.imp id (fun hn g => (h.ni niSteer).trans (hs.ready.quiet hn g niSteer (by decide))) }

/-- A memory instruction of one member whose access is done completes. -/
theorem memDone {ni : Bool} {x : Ext} {ins : Instr} {major : Nat} {ops : MemOps} {logged : Bool}
    {dest : Member → Nat → Nat → List Out} {body : MemIn → State → State × MemRes} {s : State} {is : Issue} {i : Nat} {u : State}
    {vs : List Nat} {outs : Nat → List Out} (he : exec ins s = memRun x major ops logged dest body s)
    (hs : Single ni x (readRegs ops.reads ++ ops.more) s is i)
    (hb : body (memIn s is i x ops.reads) (started s) = (u, .done vs)) (hc : Calm is.blk i (started s) u)
    (hn : ops.steer = [] ∨ ni = true)
    (ho : ∀ k, k < (u.member is.blk i).sibs.length → dest (u.member is.blk i) k (vs.getD k 0) = outs k) :
    ∃ t, exec ins s = .next t ∧ Completes x u t is.blk i outs := by
  obtain ⟨t, ht, h⟩ := memRun_completes ni x major ops logged dest body s is i u vs hs hb (hc.settled hs hn)
  exact ⟨t, he.trans ht, completes_congr h ho⟩

theorem onceDone {ni : Bool} {x : Ext} {ins : Instr} {major : Nat} {ops : MemOps} {logged : Bool}
    {dest : Member → Nat → Nat → List Out} {body : MemIn → State → State × MemRes} {s : State} {is : Issue} {i : Nat} {u : State}
    {vs : List Nat} {outs : Nat → List Out} {also : Nat → List Nat → State → Nat → State} (he : exec ins s = onceRun x major ops logged dest body s also)
    (hs : Single ni x (readRegs ops.reads ++ ops.more) s is i)
    (hb : body (memIn s is i x ops.reads) (started s) = (u, .done vs)) (hc : Calm is.blk i (started s) u)
    (hn : ops.steer = [] ∨ ni = true)
    (ho : ∀ k, k < (u.member is.blk i).sibs.length → dest (u.member is.blk i) k (vs.getD k 0) = outs k) :
    ∃ t, exec ins s = .next t ∧ Completes x u t is.blk i outs := by
  obtain ⟨t, ht, h⟩ := onceRun_completes ni x major ops logged dest also body s is i u vs hs hb (hc.settled hs hn)
  exact ⟨t, he.trans ht, completes_congr h ho⟩

theorem drainDone {ni : Bool} {x : Ext} {ins : Instr} {major : Nat} {once : Bool} {ops : MemOps} {logged : Bool}
    {dest : Member → Nat → Nat → List Out} {body : MemIn → State → State × MemRes} {s : State} {is : Issue} {i : Nat} {u : State}
    {vs : List Nat} {outs : Nat → List Out} (he : exec ins s = drainRun x major once ops logged dest body s)
    (hs : Single ni x (readRegs ops.reads ++ ops.more) s is i)
    (hb : body (memIn s is i x ops.reads) (started s) = (u, .done vs)) (hc : Calm is.blk i (started s) u)
    (hn : ops.steer = [] ∨ ni = true)
    (ho : ∀ k, k < (u.member is.blk i).sibs.length → dest (u.member is.blk i) k (vs.getD k 0) = outs k) :
    ∃ t, exec ins s = .next t ∧ Completes x u t is.blk i outs := by
  obtain ⟨t, ht, h⟩ := drainRun_completes ni x major once ops logged dest body s is i u vs hs hb (hc.settled hs hn)
  exact ⟨t, he.trans ht, completes_congr h ho⟩

end Sys2Proof.Machine
end

