-- ==== Sys2Proof/Laws/Claims.lean ====
section
/-!
SUPPORT. How the claims of Safety about lane instructions follow from what an instruction's function answers for one member.
-/
namespace Sys2Proof.Machine

open Safety

/-- A lane instruction whose results each sibling computes from its own registers and the block's. -/
theorem laneClaim {ni : Bool} {lat : Option Nat} {reads : List (Bool × Opnd)} {out : Block → Regs → SibOut} {i : Instr} {x : Ext}
    {major : Nat} {f : LaneIn → LaneOut} (he : ∀ s, exec i s = laneRun x major lat reads f s)
    (hs : ∀ l : LaneIn, (f l).sibs = l.m.sibs.map (out l.B)) (hf : ∀ l, (f l).flt = none) (hu : ∀ l, (f l).uni = none)
    (hn : ∀ l, (f l).next = none) (hp : ∀ l, (f l).spin = false)
    (hi : ∀ l e, (f l).ni = some e → ni = true ∧ l.m.sibs.length = 3 ∧ e.code < 4) : LaneClaim ni lat reads out i x := by
  intro s is h1 h2
  rw [he]
  exact laneRun_retires ni x major lat reads f s is _ _ h1 h2 (fun j _ _ =>
    ⟨hs _, hf _, hu _, hp _, by rw [hn]; rfl, fun e h => hi _ e h⟩)

/-- A lane instruction whose results depend on the whole member, its block or the issue. -/
theorem laneClaimM {ni : Bool} {lat : Option Nat} {reads : List (Bool × Opnd)} {outs : State → Issue → Nat → List SibOut}
    {i : Instr} {x : Ext} {major : Nat} {f : LaneIn → LaneOut} (he : ∀ s, exec i s = laneRun x major lat reads f s)
    (hs : ∀ s is j, (f (laneIn s is j)).sibs = outs s is j) (hf : ∀ l, (f l).flt = none) (hu : ∀ l, (f l).uni = none)
    (hn : ∀ l, (f l).next = none) (hp : ∀ l, (f l).spin = false)
    (hi : ∀ l e, (f l).ni = some e → ni = true ∧ l.m.sibs.length = 3 ∧ e.code < 4) : LaneClaimM ni lat reads outs i x := by
  intro s is h1 h2
  rw [he]
  exact laneRun_retires ni x major lat reads f s is _ _ h1 h2 (fun j _ _ =>
    ⟨hs _ _ _, hf _, hu _, hp _, by rw [hn]; rfl, fun e h => hi _ e h⟩)

theorem jumpOut_aligned (outs : List SibOut) (target : Nat) (ni : Option NiEvent) (h : target % 4 = 0) :
    jumpOut outs target ni = { LaneOut.of outs with next := some target, ni := ni } := by
  simp [jumpOut, h]

/-- A jump: a member goes to its target where the target is a multiple of 4. -/
theorem jumpClaim {ni : Bool} {lat : Option Nat} {reads : List (Bool × Opnd)} {out : State → Issue → Nat → SibOut}
    {target : State → Issue → Nat → Nat} {i : Instr} {x : Ext} {major : Nat} {outs : LaneIn → List SibOut} {tgt : LaneIn → Nat}
    {ev : LaneIn → Option NiEvent}
    (he : ∀ s, exec i s = laneRun x major lat reads (fun l => jumpOut (outs l) (tgt l) (ev l)) s)
    (ho : ∀ s is j, outs (laneIn s is j) = (s.member is.blk j).sibs.map (fun _ => out s is j))
    (ht : ∀ s is j, tgt (laneIn s is j) = target s is j)
    (hi : ∀ l e, ev l = some e → ni = true ∧ l.m.sibs.length = 3 ∧ e.code < 4) :
    JumpClaim ni lat reads out target i x := by
  intro s is h1 h2 h3
  rw [he]
  refine laneRun_retires ni x major lat reads _ s is _ _ h1 h2 (fun j hj hg => ?_)
  rw [jumpOut_aligned _ _ _ (by rw [ht]; exact h3 j hj hg), ho, ht]
  exact ⟨rfl, rfl, rfl, rfl, rfl, fun e h => hi _ e h⟩

/-- The STEER event of a source of an instruction arises in a triad only (03 R59). -/
theorem steerEvent_src (l : LaneIn) (w : Bool) (o : Opnd) (e : NiEvent) (h : steerEvent [l.src w o] = some e) :
    l.m.sibs.length = 3 ∧ e.code < 4 := by
  refine ⟨steerEvent_triad _ _ ?_ e h, by rw [steerEvent_code _ e h]; decide⟩
  intro xs hx
  simp only [List.mem_singleton] at hx
  subst hx
  simp [LaneIn.src, srcs]

end Sys2Proof.Machine
end

