-- ==== Sys2Proof/Laws/PerInstr.lean ====
section
/-!
SUPPORT. What holds of every instruction as syntax, one lemma for each row of the opcode table.
-/
namespace Sys2Proof.Laws.Length

/-- LEN of a well-formed instruction's base word tells how many words it has (02 R22). -/
def Statement (i : Instr) : Prop := i.wf = true → 4 * (encode i).length = lenOf ((encode i).headD 0)

theorem lenOf_encodeW0 (f : Form) (major stall d a b : Nat) : lenOf (encodeW0 f.code major stall d a b) = f.len := by
  have h : bitsAt (encodeW0 f.code major stall d a b) 0 2 = f.code := by
    have : f.code < 4 := by cases f <;> decide
    unfold bitsAt encodeW0
    omega
  unfold lenOf
  rw [h]
  cases f <;> rfl

theorem of_ext {i : Instr} {x : Ext} (h : i.ext? = some x) : Statement i := by
  intro _
  unfold encode
  rw [h]
  simp only
  unfold encodeExt
  have k := lenOf_encodeW0 x.form i.major x.stall x.d x.a x.b
  cases e : x.form <;> rw [e] at k <;> simpa [Form.len] using k.symm

theorem of_base {i : Instr} {x : Base} (h : i.ext? = none) (g : i.base? = some x) : Statement i := by
  intro _
  unfold encode
  rw [h, g]
  simpa [Form.len, Form.code] using (lenOf_encodeW0 .base i.major x.stall x.d x.a x.b).symm

theorem of_event {i : Instr} (h : i.ext? = none) (g : i.base? = none) : Statement i := by
  intro w
  unfold Instr.wf at w
  rw [h, g] at w
  exact absurd w Bool.false_ne_true

theorem iadd (x : Ext) : Statement (.iadd x) := of_ext rfl
theorem iaddBase (x : Base) : Statement (.iaddBase x) := of_base rfl rfl
theorem isub (x : Ext) : Statement (.isub x) := of_ext rfl
theorem isubBase (x : Base) : Statement (.isubBase x) := of_base rfl rfl
theorem imul (x : Ext) : Statement (.imul x) := of_ext rfl
theorem imulBase (x : Base) : Statement (.imulBase x) := of_base rfl rfl
theorem imulh (x : Ext) : Statement (.imulh x) := of_ext rfl
theorem imad (x : Ext) : Statement (.imad x) := of_ext rfl
theorem imadBase (x : Base) : Statement (.imadBase x) := of_base rfl rfl
theorem idiv (x : Ext) : Statement (.idiv x) := of_ext rfl
theorem idivBase (x : Base) : Statement (.idivBase x) := of_base rfl rfl
theorem irem (x : Ext) : Statement (.irem x) := of_ext rfl
theorem imin (x : Ext) : Statement (.imin x) := of_ext rfl
theorem iminBase (x : Base) : Statement (.iminBase x) := of_base rfl rfl
theorem imax (x : Ext) : Statement (.imax x) := of_ext rfl
theorem iabs (x : Ext) : Statement (.iabs x) := of_ext rfl
theorem iabsBase (x : Base) : Statement (.iabsBase x) := of_base rfl rfl
theorem ineg (x : Ext) : Statement (.ineg x) := of_ext rfl
theorem andL (x : Ext) : Statement (.andL x) := of_ext rfl
theorem andBase (x : Base) : Statement (.andBase x) := of_base rfl rfl
theorem orL (x : Ext) : Statement (.orL x) := of_ext rfl
theorem xorL (x : Ext) : Statement (.xorL x) := of_ext rfl
theorem andn (x : Ext) : Statement (.andn x) := of_ext rfl
theorem notL (x : Ext) : Statement (.notL x) := of_ext rfl
theorem shl (x : Ext) : Statement (.shl x) := of_ext rfl
theorem shlBase (x : Base) : Statement (.shlBase x) := of_base rfl rfl
theorem shr (x : Ext) : Statement (.shr x) := of_ext rfl
theorem sar (x : Ext) : Statement (.sar x) := of_ext rfl
theorem rot (x : Ext) : Statement (.rot x) := of_ext rfl
theorem bfx (x : Ext) : Statement (.bfx x) := of_ext rfl
theorem bfxBase (x : Base) : Statement (.bfxBase x) := of_base rfl rfl
theorem bfi (x : Ext) : Statement (.bfi x) := of_ext rfl
theorem popc (x : Ext) : Statement (.popc x) := of_ext rfl
theorem popcBase (x : Base) : Statement (.popcBase x) := of_base rfl rfl
theorem clz (x : Ext) : Statement (.clz x) := of_ext rfl
theorem brev (x : Ext) : Statement (.brev x) := of_ext rfl
theorem perm (x : Ext) : Statement (.perm x) := of_ext rfl
theorem permBase (x : Base) : Statement (.permBase x) := of_base rfl rfl
theorem icmp (x : Ext) : Statement (.icmp x) := of_ext rfl
theorem icmpBase (x : Base) : Statement (.icmpBase x) := of_base rfl rfl
theorem isel (x : Ext) : Statement (.isel x) := of_ext rfl
theorem iselBase (x : Base) : Statement (.iselBase x) := of_base rfl rfl
theorem plop (x : Ext) : Statement (.plop x) := of_ext rfl
theorem mov (x : Ext) : Statement (.mov x) := of_ext rfl
theorem movBase (x : Base) : Statement (.movBase x) := of_base rfl rfl
theorem movi (x : Ext) : Statement (.movi x) := of_ext rfl
theorem movk (x : Ext) : Statement (.movk x) := of_ext rfl
theorem movs (x : Ext) : Statement (.movs x) := of_ext rfl
theorem getc (x : Ext) : Statement (.getc x) := of_ext rfl
theorem setc (x : Ext) : Statement (.setc x) := of_ext rfl
theorem fadd (x : Ext) : Statement (.fadd x) := of_ext rfl
theorem faddBase (x : Base) : Statement (.faddBase x) := of_base rfl rfl
theorem fsub (x : Ext) : Statement (.fsub x) := of_ext rfl
theorem fmul (x : Ext) : Statement (.fmul x) := of_ext rfl
theorem fmulBase (x : Base) : Statement (.fmulBase x) := of_base rfl rfl
theorem ffma (x : Ext) : Statement (.ffma x) := of_ext rfl
theorem ffmaBase (x : Base) : Statement (.ffmaBase x) := of_base rfl rfl
theorem fmin (x : Ext) : Statement (.fmin x) := of_ext rfl
theorem fminBase (x : Base) : Statement (.fminBase x) := of_base rfl rfl
theorem fmax (x : Ext) : Statement (.fmax x) := of_ext rfl
theorem fdiv (x : Ext) : Statement (.fdiv x) := of_ext rfl
theorem fdivBase (x : Base) : Statement (.fdivBase x) := of_base rfl rfl
theorem fsqrt (x : Ext) : Statement (.fsqrt x) := of_ext rfl
theorem fsqrtBase (x : Base) : Statement (.fsqrtBase x) := of_base rfl rfl
theorem fcmp (x : Ext) : Statement (.fcmp x) := of_ext rfl
theorem fcmpBase (x : Base) : Statement (.fcmpBase x) := of_base rfl rfl
theorem fclass (x : Ext) : Statement (.fclass x) := of_ext rfl
theorem fcvt (x : Ext) : Statement (.fcvt x) := of_ext rfl
theorem fcvti (x : Ext) : Statement (.fcvti x) := of_ext rfl
theorem icvtf (x : Ext) : Statement (.icvtf x) := of_ext rfl
theorem dig (x : Ext) : Statement (.dig x) := of_ext rfl
theorem digBase (x : Base) : Statement (.digBase x) := of_base rfl rfl
theorem sibg (x : Ext) : Statement (.sibg x) := of_ext rfl
theorem dmean (x : Ext) : Statement (.dmean x) := of_ext rfl
theorem rand (x : Ext) : Statement (.rand x) := of_ext rfl
theorem randBase (x : Base) : Statement (.randBase x) := of_base rfl rfl
theorem frcp (x : Ext) : Statement (.frcp x) := of_ext rfl
theorem frcpBase (x : Base) : Statement (.frcpBase x) := of_base rfl rfl
theorem frsq (x : Ext) : Statement (.frsq x) := of_ext rfl
theorem fex2 (x : Ext) : Statement (.fex2 x) := of_ext rfl
theorem fex2Base (x : Base) : Statement (.fex2Base x) := of_base rfl rfl
theorem flg2 (x : Ext) : Statement (.flg2 x) := of_ext rfl
theorem fsin (x : Ext) : Statement (.fsin x) := of_ext rfl
theorem fsinBase (x : Base) : Statement (.fsinBase x) := of_base rfl rfl
theorem fcos (x : Ext) : Statement (.fcos x) := of_ext rfl
theorem bra (x : Ext) : Statement (.bra x) := of_ext rfl
theorem braBase (x : Base) : Statement (.braBase x) := of_base rfl rfl
theorem jmp (x : Ext) : Statement (.jmp x) := of_ext rfl
theorem call (x : Ext) : Statement (.call x) := of_ext rfl
theorem callBase (x : Base) : Statement (.callBase x) := of_base rfl rfl
theorem ret (x : Ext) : Statement (.ret x) := of_ext rfl
theorem exitT (x : Ext) : Statement (.exitT x) := of_ext rfl
theorem exitBase (x : Base) : Statement (.exitBase x) := of_base rfl rfl
theorem elect (x : Ext) : Statement (.elect x) := of_ext rfl
theorem electBase (x : Base) : Statement (.electBase x) := of_base rfl rfl
theorem vote (x : Ext) : Statement (.vote x) := of_ext rfl
theorem yield (x : Ext) : Statement (.yield x) := of_ext rfl
theorem yieldBase (x : Base) : Statement (.yieldBase x) := of_base rfl rfl
theorem waitc (x : Ext) : Statement (.waitc x) := of_ext rfl
theorem waitcWake (blk mem : Nat) : Statement (.waitcWake blk mem) := of_event rfl rfl
theorem nop (x : Ext) : Statement (.nop x) := of_ext rfl
theorem nopBase (x : Base) : Statement (.nopBase x) := of_base rfl rfl
theorem hint (x : Ext) : Statement (.hint x) := of_ext rfl
theorem spinHintExpiry (blk mem : Nat) : Statement (.spinHintExpiry blk mem) := of_event rfl rfl
theorem qcvt (x : Ext) : Statement (.qcvt x) := of_ext rfl
theorem qcvtBase (x : Base) : Statement (.qcvtBase x) := of_base rfl rfl
theorem dqcvt (x : Ext) : Statement (.dqcvt x) := of_ext rfl
theorem plpack (x : Ext) : Statement (.plpack x) := of_ext rfl
theorem shape (x : Ext) : Statement (.shape x) := of_ext rfl
theorem shapeBase (x : Base) : Statement (.shapeBase x) := of_base rfl rfl
theorem shget (x : Ext) : Statement (.shget x) := of_ext rfl
theorem matx (x : Ext) : Statement (.matx x) := of_ext rfl
theorem matxBase (x : Base) : Statement (.matxBase x) := of_base rfl rfl
theorem matxComplete (core idx : Nat) : Statement (.matxComplete core idx) := of_event rfl rfl
theorem mstat (x : Ext) : Statement (.mstat x) := of_ext rfl
theorem mreset (x : Ext) : Statement (.mreset x) := of_ext rfl
theorem matrixWatchdog (core : Nat) : Statement (.matrixWatchdog core) := of_event rfl rfl
theorem cfzero (x : Ext) : Statement (.cfzero x) := of_ext rfl
theorem cfzeroBase (x : Base) : Statement (.cfzeroBase x) := of_base rfl rfl
theorem cfzeroComplete (core idx : Nat) : Statement (.cfzeroComplete core idx) := of_event rfl rfl
theorem cfread (x : Ext) : Statement (.cfread x) := of_ext rfl
theorem fold (x : Ext) : Statement (.fold x) := of_ext rfl
theorem foldComplete (core idx : Nat) : Statement (.foldComplete core idx) := of_event rfl rfl
theorem foldTimeout (core idx : Nat) : Statement (.foldTimeout core idx) := of_event rfl rfl
theorem drain (x : Ext) : Statement (.drain x) := of_ext rfl
theorem drainComplete (core idx : Nat) : Statement (.drainComplete core idx) := of_event rfl rfl
theorem mq16 (x : Ext) : Statement (.mq16 x) := of_ext rfl
theorem mq16Base (x : Base) : Statement (.mq16Base x) := of_base rfl rfl
theorem mq32 (x : Ext) : Statement (.mq32 x) := of_ext rfl
theorem microStep (blk mem : Nat) : Statement (.microStep blk mem) := of_event rfl rfl
theorem selk (x : Ext) : Statement (.selk x) := of_ext rfl
theorem selkBase (x : Base) : Statement (.selkBase x) := of_base rfl rfl
theorem smax (x : Ext) : Statement (.smax x) := of_ext rfl
theorem samp (x : Ext) : Statement (.samp x) := of_ext rfl
theorem redb (x : Ext) : Statement (.redb x) := of_ext rfl
theorem selectionComplete (core : Nat) : Statement (.selectionComplete core) := of_event rfl rfl
theorem ld (x : Ext) : Statement (.ld x) := of_ext rfl
theorem ldBase (x : Base) : Statement (.ldBase x) := of_base rfl rfl
theorem st (x : Ext) : Statement (.st x) := of_ext rfl
theorem ldbuf (x : Ext) : Statement (.ldbuf x) := of_ext rfl
theorem prf (x : Ext) : Statement (.prf x) := of_ext rfl
theorem ldl (x : Ext) : Statement (.ldl x) := of_ext rfl
theorem ldlBase (x : Base) : Statement (.ldlBase x) := of_base rfl rfl
theorem stl (x : Ext) : Statement (.stl x) := of_ext rfl
theorem lds (x : Ext) : Statement (.lds x) := of_ext rfl
theorem ldsBase (x : Base) : Statement (.ldsBase x) := of_base rfl rfl
theorem sts (x : Ext) : Statement (.sts x) := of_ext rfl
theorem ldx (x : Ext) : Statement (.ldx x) := of_ext rfl
theorem ldf (x : Ext) : Statement (.ldf x) := of_ext rfl
theorem ldfBase (x : Base) : Statement (.ldfBase x) := of_base rfl rfl
theorem ste (x : Ext) : Statement (.ste x) := of_ext rfl
theorem fullEmptyTransition (blk mem : Nat) : Statement (.fullEmptyTransition blk mem) := of_event rfl rfl
theorem tagset (x : Ext) : Statement (.tagset x) := of_ext rfl
theorem tagclr (x : Ext) : Statement (.tagclr x) := of_ext rfl
theorem walkBind (x : Ext) : Statement (.walkBind x) := of_ext rfl
theorem walkBindBase (x : Base) : Statement (.walkBindBase x) := of_base rfl rfl
theorem walkNext (x : Ext) : Statement (.walkNext x) := of_ext rfl
theorem walkerRunAhead (blk mem w : Nat) : Statement (.walkerRunAhead blk mem w) := of_event rfl rfl
theorem atom (x : Ext) : Statement (.atom x) := of_ext rfl
theorem atomBase (x : Base) : Statement (.atomBase x) := of_base rfl rfl
theorem red (x : Ext) : Statement (.red x) := of_ext rfl
theorem fence (x : Ext) : Statement (.fence x) := of_ext rfl
theorem barArrive (x : Ext) : Statement (.barArrive x) := of_ext rfl
theorem barWait (x : Ext) : Statement (.barWait x) := of_ext rfl
theorem syncop (x : Ext) : Statement (.syncop x) := of_ext rfl
theorem xcopy (x : Ext) : Statement (.xcopy x) := of_ext rfl
theorem xcopyBase (x : Base) : Statement (.xcopyBase x) := of_base rfl rfl
theorem copyComplete (die idx : Nat) : Statement (.copyComplete die idx) := of_event rfl rfl
theorem ownGive (x : Ext) : Statement (.ownGive x) := of_ext rfl
theorem ownTake (x : Ext) : Statement (.ownTake x) := of_ext rfl
theorem twaitany (x : Ext) : Statement (.twaitany x) := of_ext rfl
theorem twaitanyBase (x : Base) : Statement (.twaitanyBase x) := of_base rfl rfl
theorem twaitall (x : Ext) : Statement (.twaitall x) := of_ext rfl
theorem tfirst (x : Ext) : Statement (.tfirst x) := of_ext rfl
theorem blockedThreadWake (blk mem : Nat) : Statement (.blockedThreadWake blk mem) := of_event rfl rfl
theorem queueNop (die eng q : Nat) : Statement (.queueNop die eng q) := of_event rfl rfl
theorem queueCopy (die eng q : Nat) : Statement (.queueCopy die eng q) := of_event rfl rfl
theorem queueQuantise (die eng q : Nat) : Statement (.queueQuantise die eng q) := of_event rfl rfl
theorem queueFill (die eng q : Nat) : Statement (.queueFill die eng q) := of_event rfl rfl
theorem queueSignal (die eng q : Nat) : Statement (.queueSignal die eng q) := of_event rfl rfl
theorem queueBadtype (die eng q : Nat) : Statement (.queueBadtype die eng q) := of_event rfl rfl
theorem queueHeaderFault (die eng q : Nat) : Statement (.queueHeaderFault die eng q) := of_event rfl rfl
theorem queueRegionEnded (die eng q : Nat) : Statement (.queueRegionEnded die eng q) := of_event rfl rfl
theorem queueResume (die eng q : Nat) : Statement (.queueResume die eng q) := of_event rfl rfl
theorem queueEnable (die eng q : Nat) (value : BitVec 64) : Statement (.queueEnable die eng q value) := of_event rfl rfl
theorem queueDisable (die eng q : Nat) (value : BitVec 64) : Statement (.queueDisable die eng q value) := of_event rfl rfl
theorem dlaunch (x : Ext) : Statement (.dlaunch x) := of_ext rfl
theorem enq (x : Ext) : Statement (.enq x) := of_ext rfl
theorem enqBase (x : Base) : Statement (.enqBase x) := of_base rfl rfl
theorem deq (x : Ext) : Statement (.deq x) := of_ext rfl
theorem issueCycle (core quarter : Nat) : Statement (.issueCycle core quarter) := of_event rfl rfl
theorem entryIdleTimeout (core quarter entry : Nat) : Statement (.entryIdleTimeout core quarter entry) := of_event rfl rfl
theorem variableLatencyComplete (blk mem sib reg : Nat) : Statement (.variableLatencyComplete blk mem sib reg) := of_event rfl rfl
theorem icacheFill (blk va : Nat) : Statement (.icacheFill blk va) := of_event rfl rfl
theorem l1LineExpiry (core line : Nat) : Statement (.l1LineExpiry core line) := of_event rfl rfl
theorem blockCreate (grid stage core spad : Nat) (places : List Place) : Statement (.blockCreate grid stage core spad places) := of_event rfl rfl
theorem sliceEnd (blk : Nat) : Statement (.sliceEnd blk) := of_event rfl rfl
theorem blockEvict (blk : Nat) : Statement (.blockEvict blk) := of_event rfl rfl
theorem graceExpiry (blk : Nat) : Statement (.graceExpiry blk) := of_event rfl rfl
theorem blockRestore (blk core spad : Nat) (places : List Place) : Statement (.blockRestore blk core spad places) := of_event rfl rfl
theorem streamerMove (blk core spad : Nat) (places : List Place) : Statement (.streamerMove blk core spad places) := of_event rfl rfl
theorem forwardingEntryExpiry (core entry : Nat) : Statement (.forwardingEntryExpiry core entry) := of_event rfl rfl
theorem stageReview (grid : Nat) : Statement (.stageReview grid) := of_event rfl rfl
theorem pipelineQuiesce (grid : Nat) : Statement (.pipelineQuiesce grid) := of_event rfl rfl
theorem gridComplete (grid : Nat) : Statement (.gridComplete grid) := of_event rfl rfl
theorem frequencyStepChange (die step : Nat) : Statement (.frequencyStepChange die step) := of_event rfl rfl
theorem relockDone (die : Nat) : Statement (.relockDone die) := of_event rfl rfl
theorem powerStateEnter (part : Part) (state : Nat) : Statement (.powerStateEnter part state) := of_event rfl rfl
theorem powerStateExit (part : Part) : Statement (.powerStateExit part) := of_event rfl rfl
theorem rld (x : Ext) : Statement (.rld x) := of_ext rfl
theorem rldBase (x : Base) : Statement (.rldBase x) := of_base rfl rfl
theorem rst (x : Ext) : Statement (.rst x) := of_ext rfl
theorem ratom (x : Ext) : Statement (.ratom x) := of_ext rfl
theorem remoteRequestReceive (src : Nat) : Statement (.remoteRequestReceive src) := of_event rfl rfl
theorem remoteReplyReceive (src : Nat) : Statement (.remoteReplyReceive src) := of_event rfl rfl
theorem coll (x : Ext) : Statement (.coll x) := of_ext rfl
theorem collBase (x : Base) : Statement (.collBase x) := of_base rfl rfl
theorem collComplete (die idx : Nat) (outcome : CollOutcome) : Statement (.collComplete die idx outcome) := of_event rfl rfl
theorem collTimeout (die idx : Nat) : Statement (.collTimeout die idx) := of_event rfl rfl
theorem callr (x : Ext) : Statement (.callr x) := of_ext rfl
theorem callh (x : Ext) : Statement (.callh x) := of_ext rfl
theorem invokeReceive (src : Nat) : Statement (.invokeReceive src) := of_event rfl rfl
theorem callhAtHome (src : Nat) : Statement (.callhAtHome src) := of_event rfl rfl
theorem waith (x : Ext) : Statement (.waith x) := of_ext rfl
theorem hstat (x : Ext) : Statement (.hstat x) := of_ext rfl
theorem drophBreak (x : Ext) : Statement (.drophBreak x) := of_ext rfl
theorem drophRelease (x : Ext) : Statement (.drophRelease x) := of_ext rfl
theorem flitReceive (port : Nat) (flit : List (BitVec 8)) : Statement (.flitReceive port flit) := of_event rfl rfl
theorem ackTimer (src tc : Nat) : Statement (.ackTimer src tc) := of_event rfl rfl
theorem keepaliveAck (src : Nat) : Statement (.keepaliveAck src) := of_event rfl rfl
theorem gapTimeout (src tc : Nat) : Statement (.gapTimeout src tc) := of_event rfl rfl
theorem laneLockLoss (port : Nat) : Statement (.laneLockLoss port) := of_event rfl rfl
theorem ackProgressTimeout (port : Nat) : Statement (.ackProgressTimeout port) := of_event rfl rfl
theorem castling (port : Nat) : Statement (.castling port) := of_event rfl rfl
theorem streamLost (dst tc : Nat) : Statement (.streamLost dst tc) := of_event rfl rfl
theorem replyStreamLost (target : Nat) : Statement (.replyStreamLost target) := of_event rfl rfl
theorem trap (x : Ext) : Statement (.trap x) := of_ext rfl
theorem trapBase (x : Base) : Statement (.trapBase x) := of_base rfl rfl
theorem bkpt (x : Ext) : Statement (.bkpt x) := of_ext rfl
theorem rett (x : Ext) : Statement (.rett x) := of_ext rfl
theorem frd (x : Ext) : Statement (.frd x) := of_ext rfl
theorem fwr (x : Ext) : Statement (.fwr x) := of_ext rfl
theorem grpctl (x : Ext) : Statement (.grpctl x) := of_ext rfl
theorem tlbi (x : Ext) : Statement (.tlbi x) := of_ext rfl
theorem handlerLimit (blk : Nat) : Statement (.handlerLimit blk) := of_event rfl rfl
theorem courseEnd (blk : Nat) : Statement (.courseEnd blk) := of_event rfl rfl
theorem stopRequest (region : Nat) : Statement (.stopRequest region) := of_event rfl rfl
theorem stopRelease (region : Nat) : Statement (.stopRelease region) := of_event rfl rfl
theorem registerRegion (paddr : Nat) : Statement (.registerRegion paddr) := of_event rfl rfl
theorem updateRegion (paddr : Nat) : Statement (.updateRegion paddr) := of_event rfl rfl
theorem endRegion (paddr : Nat) : Statement (.endRegion paddr) := of_event rfl rfl
theorem registerDebugDescriptor (paddr : Nat) : Statement (.registerDebugDescriptor paddr) := of_event rfl rfl
theorem updateDebugDescriptor (paddr : Nat) : Statement (.updateDebugDescriptor paddr) := of_event rfl rfl
theorem removeDebugDescriptor (paddr : Nat) : Statement (.removeDebugDescriptor paddr) := of_event rfl rfl
theorem setArena (paddr : Nat) : Statement (.setArena paddr) := of_event rfl rfl
theorem hostLaunch (value : BitVec 64) : Statement (.hostLaunch value) := of_event rfl rfl
theorem devidWrite (value : BitVec 64) : Statement (.devidWrite value) := of_event rfl rfl
theorem fencePart (value : BitVec 64) : Statement (.fencePart value) := of_event rfl rfl
theorem returnPart (value : BitVec 64) (selfTest : Bool) : Statement (.returnPart value selfTest) := of_event rfl rfl
theorem hostTlbInvalidate (die : Nat) (value : BitVec 64) : Statement (.hostTlbInvalidate die value) := of_event rfl rfl
theorem counterClear (die : Nat) : Statement (.counterClear die) := of_event rfl rfl
theorem counterFreeze (die : Nat) (freeze : Bool) : Statement (.counterFreeze die freeze) := of_event rfl rfl
theorem handleOverflowConfig (die : Nat) (count : Bool) (value : BitVec 64) : Statement (.handleOverflowConfig die count value) := of_event rfl rfl
theorem routeTableWrite (dst : Nat) (value : BitVec 64) : Statement (.routeTableWrite dst value) := of_event rfl rfl
theorem diefaultClear (die : Nat) (value : BitVec 64) : Statement (.diefaultClear die value) := of_event rfl rfl
theorem registerWrite (offset : Nat) (value : BitVec 64) : Statement (.registerWrite offset value) := of_event rfl rfl
theorem hostMemoryAccess (pa n : Nat) (write : Option (List (BitVec 8))) : Statement (.hostMemoryAccess pa n write) := of_event rfl rfl
theorem coldStart (env : StartEnv) : Statement (.coldStart env) := of_event rfl rfl
theorem warmStart (env : StartEnv) : Statement (.warmStart env) := of_event rfl rfl
theorem recoveryImage (image : List (BitVec 8)) : Statement (.recoveryImage image) := of_event rfl rfl
theorem attestationReport (nonce : List (BitVec 8)) : Statement (.attestationReport nonce) := of_event rfl rfl
theorem linkRetrain (port : Nat) : Statement (.linkRetrain port) := of_event rfl rfl
theorem switchFailure (ports : List Nat) : Statement (.switchFailure ports) := of_event rfl rfl
theorem accessTableUpdate (target entry : Nat) (value : BitVec 128) : Statement (.accessTableUpdate target entry value) := of_event rfl rfl

end Sys2Proof.Laws.Length
end

