-- ==== Sys2Proof/Tests/Slice0.lean ====
section
/-!
SUPPORT. Tests: words that the checks refuse, words written out from the spec's encodings, single steps on small states, and for every
statement with hypotheses a state and operands that meet them.
-/
namespace Sys2Proof.Tests

open Sys2Proof Machine Safety

set_option Elab.async false

/-- An extended word with the guard p7 and every other field 0. -/
def tx : Ext :=
  { form := .ext, minor := 0, guard := 7, neg := false, stall := 0, ty := .f32, rnd := .draw, ord := .plain, scope := .thread, mod := 0,
    d := 0, a := 0, b := 0, c := 0, imm := 0, lit := 0 }
/-- The same of TYPE s32, b32, n64. -/
def ts : Ext := { tx with ty := .s32 }
def tb : Ext := { tx with ty := .b32 }
def tn : Ext := { tx with ty := .n64 }

/-- A live solo member with the registers `v`, and a triad. -/
def mem1 (v : SMap W32) : Member := { Member.none with live := true, pc := 0x1000, sibs := [{ Regs.zero with v := v }] }
def mem3 (v : SMap W32) : Member := { mem1 v with sibs := List.replicate 3 { Regs.zero with v := v } }
/-- A running block of one member: grid 1, region 1, core 0, a partition of one 4 KiB unit, a lane store of 64 bytes and 8 tags. -/
def block1 (m : Member) : Block :=
  { Block.none with
    grid := 1, region := 1, triad := m.sibs.length == 3, tb := 1, members := [(0, m)], spadSize := 4096, lsSize := 64, tagN := 8
    state := .running }
def issue1 : Issue := { blk := 1, mems := [0], words := none }
/-- Block 1 is resident and its member is selected; its region lives. -/
def state1 (B : Block) : State :=
  { State.reset with
    cur := some issue1, blocks := [(1, B)], nextBlock := 2, grids := [(1, { Grid.none with region := 1, nblocks := 1, nextBlk := 1
                                                                                           complete := false })]
    nextGrid := 2, regions := [(1, { Region.none with live := true })] }
def s0 : State := state1 (block1 (mem1 []))

/-- What `Single` asks for, as a check. -/
def singleOk (ni : Bool) (x : Ext) (regs : List Nat) (s : State) (is : Issue) (i : Nat) : Bool :=
  let m := s.member is.blk i
  decide (s.cur = some is) && is.mems == [i] && m.guard x && m.cap.isNone && !m.step && !undersized m (guardRegs x) &&
  !undersized m regs && (!ni || m.sibs.length != 3 || (List.range 4).all (fun c => niAction m c == 0)) && !(s.block is.blk).dbg &&
  (s.block is.blk).course.isNone

theorem single {ni x regs s is i} (h : singleOk ni x regs s is i = true) : Single ni x regs s is i := by
  simp only [singleOk, Bool.and_eq_true, decide_eq_true_eq, beq_iff_eq, Bool.not_eq_true', Option.isNone_iff_eq_none, Bool.or_eq_true,
    List.all_eq_true, List.mem_range, bne_iff_ne] at h
  obtain ⟨⟨⟨⟨⟨⟨⟨⟨⟨h1, h2⟩, h3⟩, h4⟩, h5⟩, h6⟩, h7⟩, h8⟩, h9⟩, h10⟩ := h
  exact ⟨h1, h2, h3, ⟨h4, h5, h6, fun _ => h7, fun a b => by rcases h8 with (h | h) | h <;> simp_all⟩, h9, h10⟩

theorem singleAnd {ni x regs s is i} {P : Prop} (h : singleOk ni x regs s is i = true ∧ P) : Single ni x regs s is i ∧ P :=
  ⟨single h.1, h.2⟩

/-- An answer compared with a value, or with a fault. -/
def isV {ε α : Type} [DecidableEq α] (r : Except ε α) (v : α) : Bool := match r with | .ok w => decide (w = v) | .error _ => false
def isE {ε α : Type} [DecidableEq ε] (r : Except ε α) (e : ε) : Bool := match r with | .error f => decide (f = e) | .ok _ => false
theorem val {ε α : Type} [DecidableEq α] {r : Except ε α} {v : α} (h : isV r v = true) : r = .ok v := by
  cases r with
  | error e => cases h
  | ok w => exact congrArg _ (of_decide_eq_true h)
theorem err {ε α : Type} [DecidableEq ε] {r : Except ε α} {e : ε} (h : isE r e = true) : r = .error e := by
  cases r with
  | ok w => cases h
  | error f => exact congrArg _ (of_decide_eq_true h)
/-- A computation that answers a value, a fault, or nothing wrong. -/
theorem gives {α : Type} [DecidableEq α] {r : State × Except Flt α} {v : α} (h : isV r.2 v = true) : r = (r.1, .ok v) :=
  Prod.ext rfl (val h)
theorem fails {α : Type} {r : State × Except Flt α} {f : Flt} (h : isE r.2 f = true) : r = (r.1, .error f) := Prod.ext rfl (err h)
theorem fine {α : Type} {r : State × Option α} {f : Option α} (h : r.2 = f) : r = (r.1, f) := Prod.ext rfl h
theorem some_ok {α : Type} {r : State × Except Flt α} (h : r.2.isOk = true) : ∃ u v, r = (u, .ok v) := by
  obtain ⟨u, r⟩ := r
  cases r with
  | error e => cases h
  | ok v => exact ⟨u, v, rfl⟩
theorem some_sat {α : Type} {r : State × Except Flt α} (p : α → Bool)
    (h : (match r.2 with | .ok v => p v | .error _ => false) = true) : ∃ u v, r = (u, .ok v) ∧ p v = true := by
  obtain ⟨u, r⟩ := r
  cases r with
  | error e => cases h
  | ok v => exact ⟨u, v, rfl, h⟩



/-- Nothing keeps the member of `s0`, or the triad of `s3`, from executing any word. -/
def s3 : State := state1 (block1 (mem3 []))
theorem issued0 : Issued s0 issue1 := ⟨rfl, by decide⟩
theorem issued3 : Issued s3 issue1 := ⟨rfl, by decide⟩
theorem ready0 (ni : Bool) (x : Ext) (regs : List Nat) : ∀ j ∈ issue1.mems, Ready ni x regs s0 issue1 j := by
  intro j hj
  cases List.mem_singleton.mp hj
  exact ⟨rfl, rfl, rfl, fun _ => rfl, fun _ h => absurd h (by decide)⟩
theorem ready3 (ni : Bool) (x : Ext) (regs : List Nat) : ∀ j ∈ issue1.mems, Ready ni x regs s3 issue1 j := by
  intro j hj
  cases List.mem_singleton.mp hj
  refine ⟨rfl, rfl, rfl, fun _ => rfl, fun _ _ c hc => ?_⟩
  revert c
  decide

theorem witness_IntegerArithmetic : (Issued s0 issue1 ∧ ∀ j ∈ issue1.mems, Ready false ts (readRegs [(ts.ty.wide, opA ts),
    (ts.ty.wide, opB ts), (ts.ty.wide, opC ts)]) s0 issue1 j) ∧ Ty.s8.signed = true := ⟨⟨issued0, ready0 _ _ _⟩, rfl⟩
theorem witness_LogicAndShifts : Issued s0 issue1 ∧ ∀ j ∈ issue1.mems, Ready false tn (readRegs [(tn.ty.wide, opA tn),
    (false, opB tn)]) s0 issue1 j := ⟨issued0, ready0 _ _ _⟩
theorem witness_BitFields : Issued s0 issue1 ∧ ∀ j ∈ issue1.mems, Ready false tb (readRegs [(tb.ty.wide, opA tb),
    (tb.ty.wide, opB tb), (tb.ty.wide, opC tb)]) s0 issue1 j := ⟨issued0, ready0 _ _ _⟩
theorem witness_BitCounts : (Issued s0 issue1 ∧ ∀ j ∈ issue1.mems, Ready false tb (readRegs [(tb.ty.wide, opA tb)]) s0 issue1 j) ∧
    30 < clzOp 32 1 ∧ clzOp 32 1 < 32 := ⟨⟨issued0, ready0 _ _ _⟩, by decide +kernel, by decide +kernel⟩
theorem witness_Permute : Issued s3 issue1 ∧ ∀ j ∈ issue1.mems, Ready false tb (readRegs [(tb.ty.wide, opA tb), (tb.ty.wide, opB tb),
    (tb.ty.wide, opC tb)]) s3 issue1 j := ⟨issued3, ready3 _ _ _⟩
theorem witness_CompareAndSelect : (Issued s3 issue1 ∧ ∀ j ∈ issue1.mems, Ready true { ts with minor := 5 } (readRegs
    [(false, opA ts), (false, opB ts)]) s3 issue1 j) ∧ ({ ts with minor := 5 } : Ext).minor < 6 := ⟨⟨issued3, ready3 _ _ _⟩, by decide⟩
theorem witness_MovesAndControlRegisters : (Issued s0 issue1 ∧ ∀ j ∈ issue1.mems, Ready true tb (readRegs [(false, opA tb)]) s0 issue1 j) ∧
    ({ tn with a := 10 } : Ext).a ≤ 10 := ⟨⟨issued0, ready0 _ _ _⟩, by decide⟩
/-- The magnitude that the bits of a finite value stand for, and that they do. -/
def magOf (f : Fmt) (r : Nat) : Q := match fval f r with | .fin _ q => q | _ => ⟨0, 1⟩
theorem stands {f : Fmt} {neg : Bool} {r : Nat} (h : (decide (r < 2 ^ f.width) && decide (fval f r = .fin neg (magOf f r))) = true) :
    StandsFor f neg r (magOf f r) := by
  simp only [Bool.and_eq_true, decide_eq_true_eq] at h
  exact h
/-- A third, the tie above 1, and 2^128, whose neighbour away from zero is infinity. -/
theorem witness_FloatArithmetic : (Issued s3 issue1 ∧ ∀ j ∈ issue1.mems, Ready true tx (readRegs [(false, opA tx), (false, opB tx)])
    s3 issue1 j) ∧ (⟨0, 1⟩ : Q).n = 0 ∧ 0 < (⟨1, 1⟩ : Q).n ∧ 0 < (⟨1, 1⟩ : Q).d ∧
    (let lo := fun q : Q => (roundTo .f32 .rz false q).1
     let hi := fun q : Q => (roundTo .f32 .up false q).1
     let third : Q := ⟨1, 3⟩
     let tie : Q := ⟨2 ^ 24 + 1, 2 ^ 24⟩
     let big : Q := ⟨2 ^ 128, 1⟩
     (∃ a b, StandsFor .f32 false (lo third) a ∧ StandsFor .f32 false (hi third) b ∧
       third.n * (2 * a.d * b.d) ≠ (a.n * b.d + b.n * a.d) * third.d) ∧
     (∃ a b, StandsFor .f32 false (lo tie) a ∧ StandsFor .f32 false (hi tie) b ∧
       SameValue tie ⟨a.n * b.d + b.n * a.d, 2 * a.d * b.d⟩) ∧
     (∃ a, StandsFor .f32 false (lo big) a) ∧ hi big = signOf .f32 false + Fmt.infBits .f32) ∧
    (FV.nan true).isNan = true ∧ (FV.inf true).isNan = false :=
  ⟨⟨issued3, ready3 _ _ _⟩, rfl, by decide, by decide,
    ⟨⟨_, _, stands (by decide +kernel), stands (by decide +kernel), by decide +kernel⟩,
     ⟨_, _, stands (by decide +kernel), stands (by decide +kernel), show _ = _ from by decide +kernel⟩,
     ⟨_, stands (by decide +kernel)⟩, by decide +kernel⟩, rfl, rfl⟩
theorem witness_FloatCompare : (Issued s3 issue1 ∧ ∀ j ∈ issue1.mems, Ready true { tx with minor := 7 } (readRegs [(false, opA tx),
    (false, opB tx)]) s3 issue1 j) ∧ ({ tx with minor := 7 } : Ext).minor < 8 := ⟨⟨issued3, ready3 _ _ _⟩, by decide⟩
theorem witness_Conversions : (Issued s3 issue1 ∧ ∀ j ∈ issue1.mems, Ready false { tx with ty := .f16x2 } (readRegs [(false, opA tx),
    (false, opB tx)]) s3 issue1 j) ∧ Ty.f16x2.packed = true ∧ Ty.ofCode (tx.c % 16) = .f32 ∧ Ty.f64.packed = false :=
  ⟨⟨issued3, ready3 _ _ _⟩, rfl, rfl, rfl⟩
/-- 2^3, and the last power of two; a step of 1/3 at 53 bits between two dyadic numbers. -/
theorem witness_Transcendentals : (Issued s3 issue1 ∧ ∀ j ∈ issue1.mems, Ready false tx (readRegs [(false, opA tx)]) s3 issue1 j) ∧
    (let f := Fmt.f32
     f.emin - f.prec < 3 ∧ (3 : Int) ≤ f.emax ∧ (6 : Nat) = 3 * 2 ∧ (3 : Int) = (if false then -(3 : Int) else 3) ∧
     f.emin - f.prec < f.emax ∧ f.emax ≤ f.emax ∧ SameValue (dyadic 1 f.emax) (dyadic 1 f.emax)) ∧
    (⟨0, 1⟩ : Q).n = 0 ∧ 0 < (⟨1, 3⟩ : Q).n ∧ 0 < (⟨1, 3⟩ : Q).d ∧ Int.natAbs 5000 ≤ 5000 ∧
    (1 < 2 ^ 53 ∧ AtMost (dyadic 1 (-2)) ⟨1, 3⟩ ∧ AtMost ⟨1, 3⟩ (dyadic 1 (-1))) :=
  ⟨⟨issued3, ready3 _ _ _⟩, ⟨by decide, by decide, rfl, rfl, by decide, by decide, rfl⟩, rfl, by decide, by decide, by decide, by decide,
    show _ ≤ _ from by decide +kernel, show _ ≤ _ from by decide +kernel⟩
/-- DMEAN of +∞ with −∞, of a NaN, of one infinity, and of numbers; digits of equal and unequal values. -/
theorem witness_TriadAndRandom : (Issued s3 issue1 ∧ ∀ j ∈ issue1.mems, Ready false tx (readRegs [(false, opA tx)]) s3 issue1 j) ∧
    (let v := fun a b c => [fval .f32 a, fval .f32 b, fval .f32 c]
     let inf := 0x7F800000
     let p := fun vs : List FV => vs.contains (.inf false)
     let n := fun vs : List FV => vs.contains (.inf true)
     let nan := fun vs : List FV => vs.any FV.isNan
     (p (v inf 0xFF800000 0) = true ∧ n (v inf 0xFF800000 0) = true) ∧
     (nan (v 0x7FC00000 0 0) = true ∧ (p (v 0x7FC00000 0 0) && n (v 0x7FC00000 0 0)) = false) ∧
     (nan (v inf 0 0) = false ∧ (p (v inf 0 0) != n (v inf 0 0)) = true) ∧
     (nan (v 0 0 0) = false ∧ p (v 0 0 0) = false ∧ n (v 0 0 0) = false) ∧
     let one := 0x3F800000
     let two := 0x40000000
     let alike := fun vs : List FV => fvEq (vs.getD 0 (.nan false)) (vs.getD 1 (.nan false)) && fvEq (vs.getD 1 (.nan false)) (vs.getD 2 (.nan false))
     let sum := fun vs : List FV => (vs.map FV.sq).foldr SQ.add ⟨false, ⟨0, 1⟩⟩
     alike (v one one one) = true ∧ (alike (v inf one one) = false ∧ (v inf one one).any FV.isInf = true) ∧
     (alike (v one one two) = false ∧ (v one one two).any (fun u => u.isNan || u.isInf) = false ∧
       (∀ u ∈ v one one two, SQ.le (fval .f32 one).sq u.sq = true ∧ SQ.le u.sq (fval .f32 two).sq = true) ∧
       (fval .f32 (roundTo .f32 .rne (sum (v one one two)).neg ⟨(sum (v one one two)).q.n, (sum (v one one two)).q.d * 3⟩).1).isNan = false) ∧
     0x3F800000 < 2 ^ Fmt.width .f32 ∧ 0 < (⟨3, 2⟩ : Q).n ∧ 0 < (⟨3, 2⟩ : Q).d) := ⟨⟨issued3, ready3 _ _ _⟩, by decide +kernel⟩
/-- A block with an infinity, one of zeros, and one whose greatest magnitude is 3; a grid point, and a quotient between two. -/
theorem witness_NarrowConversions : (Issued s3 issue1 ∧ ∀ j ∈ issue1.mems, Ready false tx (readRegs [(false, .lane 0), (false, .lane 7)])
    s3 issue1 j) ∧ [FV.inf true].any (fun v => v.isNan || v.isInf) = true ∧
    [FV.fin true ⟨0, 1⟩].all (fun v => !v.isNan && !v.isInf && v.sq.isZero) = true ∧
    (let xs := FV.fin true ⟨3, 1⟩ :: List.replicate 7 (.fin false ⟨1, 1⟩)
     xs.any (fun v => v.isNan || v.isInf) = false ∧ (∃ v ∈ xs, v.sq.q = ⟨3, 1⟩) ∧
       (∀ v ∈ xs, 0 < v.sq.q.d ∧ v.sq.q.n * 1 ≤ 3 * v.sq.q.d) ∧ 0 < (⟨3, 1⟩ : Q).n) ∧
    (let grid := fun v : Nat => v < 2 ∨ ∃ k, v = 2 * 2 ^ k ∨ v = 3 * 2 ^ k
     (0 : Nat) < 7 ∧ (grid 4 ∧ 2 * 2 = 4 * 1) ∧ grid 4 ∧ grid 6 ∧ 4 < 6 ∧ (∀ v, 4 < v → v < 6 → ¬ grid v) ∧ 4 * 2 < 2 * 5 ∧ 2 * 5 < 6 * 2) ∧
    (6 : Nat) < 7 ∧ (∀ c ∈ [15, 0, 7], c < 2 ^ nfCw 0) ∧ (4 : Nat) < nfPlanes 0 ∧ (255 : Nat) < 256 ∧ (0x3F800000 : Nat) < 2 ^ 32 ∧
      (0 : Nat) < 2 ^ 32 := by
  refine ⟨⟨issued3, ready3 _ _ _⟩, by decide, by decide, by decide, ⟨by decide, ⟨.inr ⟨1, .inl rfl⟩, rfl⟩, .inr ⟨1, .inl rfl⟩,
    .inr ⟨1, .inr rfl⟩, by decide, ?_, by decide⟩, by decide⟩
  rintro v h1 h2 (h | ⟨k, h⟩)
  · omega
  · match k with
    | 0 => omega
    | 1 => omega
    | k + 2 => have : 0 < 2 ^ k := Nat.two_pow_pos k
               rw [Nat.pow_add] at h
               omega
/-- A branch back over itself, a register target of 0 in the two forms of CALL. -/
theorem witness_Jumps : (Issued s0 issue1 ∧ ∀ j ∈ issue1.mems, Ready true tx (readRegs [(true, opA tx)]) s0 issue1 j) ∧
    wrapN (nextPc (s0.member 1 0).pc 12 + 4 * ({ tx with imm := 2 ^ 25 - 3 } : Ext).simm) 57 % 4 = 0 ∧
    medianBy (fun v => (v : Int)) ((s0.member 1 0).sibs.map (fun r => opRead (s0.block 1) r true (opA tx))) % 2 ^ 57 % 4 = 0 ∧
    tx.m0 = false ∧ ({ tx with mod := 1 } : Ext).m0 = true := ⟨⟨issued0, ready0 _ _ _⟩, by decide +kernel⟩
theorem witness_ElectAndVote : Issued s3 issue1 ∧ ∀ j ∈ issue1.mems, Ready false tx (readRegs [(false, .pred tx.a)]) s3 issue1 j :=
  ⟨issued3, ready3 _ _ _⟩
theorem witness_NopAdvancesOnly : (Issued s0 issue1 ∧ ∀ j ∈ issue1.mems, Ready false tx [] s0 issue1 j) ∧
    (Instr.nop { tx with guard := 3, neg := true, stall := 31 }).wf = true := ⟨⟨issued0, ready0 _ _ _⟩, by decide +kernel⟩
theorem witness_Hints : (Issued s0 issue1 ∧ ∀ j ∈ issue1.mems, Ready false { tx with minor := 0x20 } [] s0 issue1 j) ∧
    ({ tx with minor := 0x10 } : Ext).minor = 0x10 ∧ ({ tx with minor := 0x20 } : Ext).minor = 0x20 ∧ (1023 : Nat) ≠ 0x10 ∧ (1023 : Nat) ≠ 0x20 :=
  ⟨⟨issued0, ready0 _ _ _⟩, by decide⟩


/-- `state1` with the first GiB of region 1 translated to device memory of die 0, as pages that bypass the L1, PLAIN (`rep` 0) or TRIPLET
(`rep` 1), and the access tables open to the region's threads, engines and Keystone. -/
def mapped (rep : Nat) (B : Block) : State :=
  let leaf : TlbEntry := { region := 1, va := 0, size := 2 ^ 30, leaf := BitVec.ofNat 64 (0x426F + rep * 2 ^ 12) }
  let open_ := fun (r k : Nat) => BitVec.ofNat 128 (r + k * 2 ^ 28 + 0xF * 2 ^ 32 + 0xFFFF_FFFF * 2 ^ 96)
  { state1 B with
    dies := [(0, { DieSt.reset with tlb2 := [leaf] })]
    atab := [(0, open_ 1 0), (1, open_ 1 1), (2, open_ 1 2), (3, open_ 0 4), (4096, open_ 1 0)] }
/-- A record of 16 elements at 0x1000 that reads zeros out of bounds, in buffer register 1; the same under ADDR bounds in 2. -/
def blockR (m : Member) : Block :=
  { block1 m with buf := [(1, mkRecord 0x1000 0 16 1 1 0 0 0 0 0), (2, mkRecord 0x1000 0 16 1 0 0 0 0 0 0)] }
def sM : State := mapped 0 (blockR (mem1 []))
def sM3 : State := mapped 1 (blockR (mem3 []))
/-- The same with DIGEST pages, the digit bytes at 0 and above or outside every window. -/
def sD (c : SMap W32) : State := mapped 2 (blockR { mem1 [] with sibs := [{ Regs.zero with c := c }] })
/-- A word at 0x1000 is checked on a page of each REP, for a store and an atomic. -/
def checked (s : State) (k : AccKind) : State × Except Flt Page :=
  if k = .atomic then reachAtomic s (threadOf (s.block 1)) 0x1000 4 3 else reach s (threadOf (s.block 1)) 0x1000 4 k 3
def reached (s : State) (k : AccKind) (rep : Nat) : Prop :=
  ∃ v p, checked s k = (v, .ok p) ∧ (p.rep = rep ∧ 4 ≤ p.size) ∧
    (rep = 2 → ∃ w dps, digitChecks v 1 (s.member 1 0) (touchedWords 0x1000 4) = (w, .ok dps))
theorem reached_of {s : State} {k : AccKind} {rep : Nat} (h : (match checked s k with
    | (v, .ok p) => decide (p.rep = rep ∧ 4 ≤ p.size) && (rep != 2 || (digitChecks v 1 (s.member 1 0) (touchedWords 0x1000 4)).2.isOk)
    | _ => false) = true) : reached s k rep := by
  unfold reached
  split at h
  · next v p e =>
    simp only [Bool.and_eq_true, decide_eq_true_eq, Bool.or_eq_true, bne_iff_ne] at h
    exact ⟨v, p, e, h.1, fun hr => some_ok (h.2.resolve_left (fun g => g hr))⟩
  · cases h

/-- An immediate index or offset. -/
def ti (x : Ext) (n : Nat) : Ext := { x with mod := 1, imm := n }

/-- The last word of the lane store and of the partition. -/
theorem witness_WindowAccesses :
    (∃ off : Nat, Single true (ti ts 60) (readRegs (windowReads (ti ts 60) true)) s0 issue1 0 ∧
      windowOffset (ti ts 60) (memIn s0 issue1 0 (ti ts 60) (windowReads (ti ts 60) true)) = off ∧
      off + tyBytes .s32 ≤ (s0.block 1).lsSize ∧ off % tyBytes .s32 = 0) ∧
    ∃ off : Nat, Single true (ti ts 4092) (readRegs (windowReads (ti ts 4092) false)) s3 issue1 0 ∧
      windowOffset (ti ts 4092) (memIn s3 issue1 0 (ti ts 4092) (windowReads (ti ts 4092) false)) = off ∧
      off + tyBytes .s32 ≤ spadSizeOf s3 1 ∧ off % tyBytes .s32 = 0 :=
  ⟨⟨60, single (by decide), by decide +kernel⟩, 4092, single (by decide), by decide +kernel⟩

def recordAt (s : State) (x : Ext) (store : Bool) : Except Flt (Option Place1) :=
  let l := memIn s issue1 0 x (recordReads x store)
  recordPlace s 1 ((s.block 1).buffer x.b) (indexOf x l) (coord1 x l) (tyBytes x.ty)
/-- The last element and the one after it, for a load and a store; a page of each REP and a digit byte outside every window; a prefetch out
of bounds; a record at address 0. -/
theorem witness_RecordAccesses :
    let x15 := { ti ts 15 with b := 1 }
    let x16 := { ti ts 16 with b := 1 }
    let y16 := { ti ts 16 with b := 2 }
    (Single true x16 (readRegs (recordReads x16 true)) sM issue1 0 ∧ recordAt sM x16 true = .ok none) ∧
    (recordAt sM x15 false = .ok (some (.page 0x103C)) ∧
      ∃ u vs, loadPlace (acquireEffect (started sM) 1 0 .plain .thread) 1 (sM.member 1 0) .s32 (.page 0x103C) = (u, .ok vs)) ∧
    (recordAt sM3 x15 true = .ok (some (.page 0x103C)) ∧ ∃ u, storePlace (started sM3) 1 0 .s32 (.page 0x103C) [1, 2, 3] = (u, none)) ∧
    (reached sM .write 0 ∧ reached sM3 .write 1 ∧ reached (sD []) .write 2 ∧ ∃ v p, reach (sD [(7, 0x01FF_FFFF)])
      (threadOf ((sD [(7, 0x01FF_FFFF)]).block 1)) 0x1000 4 .write 3 = (v, .ok p) ∧
      p.rep = 2 ∧ ∃ w f, digitChecks v 1 ((sD [(7, 0x01FF_FFFF)]).member 1 0) (touchedWords 0x1000 4) = (w, .error f)) ∧
    recordAt sM y16 false = .error (fltOf .bounds 0) ∧
    Single true tx (readRegs [(true, opA tx), noRead, noRead, noRead]) sM issue1 0 ∧
      placeVa sM 1 (addressOfPair tx (memIn sM issue1 0 tx [(true, opA tx), noRead, noRead, noRead])) 32 = .ok (.page 0) ∧
      ∃ u bs, bytesAtPlace (started sM) 1 (sM.member 1 0) 32 (.page 0) = (u, .ok bs) ∧ recordOk (BitVec.ofNat 256 (leNat bs)) = true :=
  ⟨⟨single (by decide), val (by decide +kernel)⟩, ⟨val (by decide +kernel), some_ok (by decide +kernel)⟩,
    ⟨val (by decide +kernel), _, fine (by decide +kernel)⟩,
    ⟨reached_of (by decide +kernel), reached_of (by decide +kernel), reached_of (by decide +kernel), _, _,
      gives (v := { va := 0x1000, key := 0x1000, size := 2 ^ 30, vault := false, cache := 1, rep := 2, atom := 0, place := 4 }) (by decide +kernel),
      rfl, _, fltOf .addrRange (0x01FF_FFFF * 2 ^ 32 + 0x400), fails (by decide +kernel)⟩,
    err (by decide +kernel), single (by decide), val (by decide +kernel), _, List.replicate 32 0, gives (by decide +kernel), by decide +kernel⟩

/-- A store of three values to a PLAIN page and to a TRIPLET page, and the load after it. -/
theorem witness_StoreThenLoad :
    let page := fun rep => { va := 0x1000, key := 0x1000, size := 2 ^ 30, vault := false, cache := 1, rep := rep, atom := 0, place := 4 : Page }
    let ok := fun (s : State) (rep : Nat) => ∃ u s1 u1, reach s (threadOf (s.block 1)) 0x1000 4 .write 3 = (s1, .ok (page rep)) ∧
      storePlace s 1 0 .s32 (.page 0x1000) [1, 2, 3] = (u, none) ∧
      reach u (threadOf (s.block 1)) 0x1000 4 .read (s.member 1 0).nsib = (u1, .ok (page rep)) ∧ (page rep).cached = false
    ok sM 0 ∧ ok sM3 1 ∧ (sM3.member 1 0).nsib = 3 :=
  ⟨⟨_, _, _, gives (by decide +kernel), fine (by decide +kernel), gives (by decide +kernel), by decide⟩,
   ⟨_, _, _, gives (by decide +kernel), fine (by decide +kernel), gives (by decide +kernel), by decide⟩, rfl⟩

/-- A word of a DIGEST page with its digit byte, for a solo thread and a triad; a zero, a value with all and with fewer digits, and a NaN. -/
theorem witness_StoreThenLoad_digest :
    let page := { va := 0x1000, key := 0x1000, size := 2 ^ 30, vault := false, cache := 1, rep := 2, atom := 0, place := 4 : Page }
    let T := mapped 2 (blockR (mem3 []))
    let read := fun (s : State) => reach s (threadOf (s.block 1)) 0x1000 (tyBytes .f32) .read (s.member 1 0).nsib
    (∃ u, read (sD []) = (u, .ok page)) ∧ ((sD []).member 1 0).nsib ≠ 3 ∧ page.cached = false ∧
    (∃ u, read T = (u, .ok page) ∧ ∃ w dp, digitCheck u 1 (T.member 1 0) (0x1000 / 4 * 4) .read = (w, .ok dp)) ∧ (T.member 1 0).nsib = 3 ∧
    (match fval .f32 0, fval .f32 0x3F80_0000 with
      | .fin _ z, .fin _ q => z.zero && !q.zero
      | _, _ => false) = true ∧ Fmt.prec .f32 ≤ 24 ∧ 23 < Fmt.prec .f32 ∧ (fval .f32 0x7FC0_0000).isNan = true :=
  ⟨⟨_, gives (by decide +kernel)⟩, by decide, rfl, ⟨_, gives (by decide +kernel), some_ok (by decide +kernel)⟩, rfl, by decide +kernel⟩


/-- A full last word, an empty one, and a run of 1024 words. -/
theorem witness_FullEmptyWords :
    let full := state1 { block1 (mem1 []) with full := [(1023, true)] }
    let x := ti tb 4092
    let r := windowReads x true
    let count := { tb with mod := 2, b := 1 }
    let many := state1 (block1 (mem1 [(1, 1024)]))
    let rc := [indexReads count, (false, Opnd.lane count.b), noRead, noRead]
    (Single true x (readRegs r) full issue1 0 ∧ windowOffset x (memIn full issue1 0 x r) = 4092 ∧ 4092 + 4 ≤ spadSizeOf full 1 ∧
      fullBit full 1 4092 = true) ∧
    (Single true x (readRegs r) s0 issue1 0 ∧ windowOffset x (memIn s0 issue1 0 x r) = 4092 ∧ fullBit s0 1 4092 = false) ∧
    Single true count (readRegs rc) many issue1 0 ∧ windowOffset count (memIn many issue1 0 count rc) = 0 ∧
      medianBy (fun v => (v : Int)) ((memIn many issue1 0 count rc).src 1) = 1024 ∧ 4 * 1024 ≤ spadSizeOf many 1 :=
  ⟨singleAnd (by decide +kernel), singleAnd (by decide +kernel), single (by decide), by decide +kernel⟩

/-- A walker of one element: unbound, past its element, at it with the element fetched ahead and not, and a descriptor whose dimensions have
p0 to p3. -/
def walker1 : Walker :=
  { Walker.none with bound := true, record := mkRecord 0x1000 0 16 1 1 0 0 0 0 0, ty := .s32, dims := [{ count := 1, s0 := 1, s1 := 0, pred := 0 }] }
def stateW (w : Walker) : State := mapped 0 (block1 { mem1 [] with walkers := [(0, w)] })
theorem witness_Walkers :
    let A := [(false, opA ts), noRead, noRead, noRead]
    let sp := state1 { block1 (mem1 []) with spad := [(48, 0x88), (49, 6)] }
    (Single true ts (readRegs A) sp issue1 0 ∧ medianBy (fun v => (v : Int)) ((memIn sp issue1 0 ts A).src 0) = 0 ∧
      0 + 64 ≤ spadSizeOf sp 1 ∧ descOk (spadRead sp 1 0 64) = true) ∧
    (Single false ts [] s0 issue1 0 ∧ ((s0.member 1 0).walker 0).bound = false) ∧
    (let w := { walker1 with next := 1 }
     Single false ts [] (stateW w) issue1 0 ∧ ((stateW w).member 1 0).walker 0 = w ∧ w.total ≤ w.next) ∧
    (let w := { walker1 with ahead := [some [5]] }
     Single false ts [] (stateW w) issue1 0 ∧ ((stateW w).member 1 0).walker 0 = w ∧ w.next < w.total) ∧
    (Single false ts [] (stateW walker1) issue1 0 ∧ ((stateW walker1).member 1 0).walker 0 = walker1 ∧ walker1.ty = ts.ty ∧
      ∃ u vs, walkElement (started (stateW walker1)) 1 ((stateW walker1).member 1 0) walker1 walker1.next = (u, .ok vs)) :=
  ⟨singleAnd (by decide +kernel), singleAnd (by decide +kernel), singleAnd (by decide +kernel),
    singleAnd (by decide +kernel), single (by decide), by decide +kernel, by decide +kernel, some_ok (by decide +kernel)⟩

/-- Out of bounds under ZERO, and the last element; a page of each REP, for a triad and a solo thread. -/
theorem witness_Atomics :
    let x := fun n => { ti ts n with b := 1, minor := 7 }
    let place := fun n => recordPlace sM 1 ((sM.block 1).buffer 1) (indexOf (x n) (memIn sM issue1 0 (x n) (atomReads (x n)))) 0 4
    (Single true (x 16) (readRegs (atomReads (x 16))) sM issue1 0 ∧ place 16 = .ok none) ∧
    (Single true (x 15) (readRegs (atomReads (x 15))) sM issue1 0 ∧ place 15 = .ok (some (.page 0x103C)) ∧
      ∃ u vs, atomPlace (acquireEffect (started sM) 1 0 .plain .thread) 1 0 7 .s32 (.page 0x103C) [0] [0] = (u, .ok vs)) ∧
    (reached sM .atomic 0 ∧ (reached sM3 .atomic 1 ∧ (sM3.member 1 0).nsib = 3) ∧
      (reached (mapped 1 (blockR (mem1 []))) .atomic 1 ∧ ((mapped 1 (blockR (mem1 []))).member 1 0).nsib = 1) ∧ reached (sD []) .atomic 2) :=
  ⟨⟨single (by decide), val (by decide +kernel)⟩, ⟨single (by decide), val (by decide +kernel), some_ok (by decide +kernel)⟩,
    reached_of (by decide +kernel), ⟨reached_of (by decide +kernel), rfl⟩, ⟨reached_of (by decide +kernel), rfl⟩, reached_of (by decide +kernel)⟩

/-- The sync word at offset 0 of die 0 holds `w`, and v0 and v1 its address. -/
def stateS (w : Nat) (v : SMap W32) : State :=
  { mapped 0 (block1 (mem1 ([(0, 0), (1, 0x01F0_0000)] ++ v))) with mem := Memory.write [] (syncKey 0 0) (leBytes 8 w) }
theorem witness_Synchronisation :
    let w := mkBarrier 1 0 0xFFFF
    let s := stateS w []
    let r := syncReads tx noRead noRead
    let rw := syncReads tx (false, .lane tx.c) noRead
    let init := { tx with b := 7 }
    let z := stateS 5 []
    Single false tx [] s issue1 0 ∧
    (Single true tx (readRegs r) s issue1 0 ∧ (∃ u, syncReach (started s) (threadOf (s.block 1)) (addressOfPair tx
      (memIn s issue1 0 tx r)) .atomic = (u, .ok (syncKey 0 0, w))) ∧ isBarrier w = true ∧ barArrived w < barExpect w) ∧
    (Single true tx (readRegs rw) s issue1 0 ∧ (∃ u, syncReach (started s) (threadOf (s.block 1)) (addressOfPair tx
      (memIn s issue1 0 tx rw)) .read = (u, .ok (syncKey 0 0, w))) ∧
      barPhase w ≠ medianBy (fun v => (v : Int)) ((memIn s issue1 0 tx rw).src 2) % 2 ^ 16) ∧
    (Single true tx (readRegs (syncReads tx (true, .lane 0) noRead)) z issue1 0 ∧ (∃ u, syncReach (acquireEffect (started z) 1 0 .plain .thread)
      (threadOf (z.block 1)) (addressOfPair tx (memIn z issue1 0 tx (syncReads tx (true, .lane 0) noRead))) (syncKind 0) =
        (u, .ok (syncKey 0 0, 5))) ∧ tx.b % 8 ≠ 7) ∧
    let y := { init with c := 2 }
    let s2 := stateS 5 [(2, 1)]
    let r2 := syncReads y (true, .lane 2) noRead
    Single true y (readRegs r2) s2 issue1 0 ∧ (∃ u, syncReach (acquireEffect (started s2) 1 0 .plain .thread) (threadOf (s2.block 1))
      (addressOfPair y (memIn s2 issue1 0 y r2)) (syncKind 7) = (u, .ok (syncKey 0 0, 5))) ∧
      medianBy (fun v => (v : Int)) ((memIn s2 issue1 0 y r2).src 2) % 2 ^ 16 ≠ 0 :=
  ⟨single (by decide), ⟨single (by decide), ⟨_, gives (by decide +kernel)⟩, by decide +kernel⟩,
    ⟨single (by decide), ⟨_, gives (by decide +kernel)⟩, by decide +kernel⟩,
    ⟨single (by decide), ⟨_, gives (by decide +kernel)⟩, by decide⟩, single (by decide), ⟨_, gives (by decide +kernel)⟩, by decide +kernel⟩

/-- The last tag, set and clear; no tag; the only slot in each owner. -/
def stateT (set : Bool) (o : Owner) : State := state1 { block1 (mem1 []) with tags := [(7, set)], own := [(0, o)] }
theorem witness_TagsAndOwnerBits :
    let x := ti tx 7
    let one := 2 ^ (x.imm % 64)
    (
      Single true x (readRegs (tagReads x)) (stateT true .threads) issue1 0 ∧ one < 2 ^ ((stateT true .threads).block 1).tagN ∧
      ∀ n ∈ (List.range 64).filter (fun n => bitN one n), tagSet ((stateT true .threads).block 1) n = true) ∧
    (Single true tx (readRegs (tagReads tx)) s0 issue1 0 ∧
      (List.range 64).filter (fun n => bitN (medianBy (fun v => (v : Int)) ((memIn s0 issue1 0 tx (tagReads tx)).src 0)) n) = []) ∧
    (Single true x (readRegs (tagReads x)) (stateT false .threads) issue1 0 ∧
      ((List.range 64).filter (fun n => bitN one n)).find? (tagSet ((stateT false .threads).block 1)) = none) ∧
    let y := ti tx 0
    (Single true y (readRegs (slotReads y)) s0 issue1 0 ∧ 4096 * (y.imm % 128) < spadSizeOf s0 1 ∧
      ownerOf (s0.block (spadHome s0 1)) 0 = .threads) ∧
    Single true y (readRegs (slotReads y)) (stateT false .given) issue1 0 ∧ 4096 * (y.imm % 128) < spadSizeOf (stateT false .given) 1 ∧
      ownerOf ((stateT false .given).block (spadHome (stateT false .given) 1)) 0 = .given :=
  ⟨singleAnd (by decide +kernel), singleAnd (by decide +kernel), singleAnd (by decide +kernel),
    singleAnd (by decide +kernel), single (by decide), by decide +kernel⟩


/-- The code line at the member's PC holds NOP, then a word of no row, then a 12-byte word that leaves the line at its end. -/
def stateC (pc : Nat) : State :=
  let line : CodeLine := { region := 1, code := 0, va := 0x1000, bytes := leBytes 64 (0x07E0 + 0xFFFF_FFC0 * 2 ^ 32 + 1 * 2 ^ 480) }
  { state1 (block1 { mem1 [] with pc := pc }) with cores := [(0, { CoreSt.reset with icache := [line] })] }
theorem witness_DecodeOfEncode : (Instr.nop { tx with stall := 31 }).wf = true := by decide +kernel
theorem witness_EncodeOfDecode : decode [0xE0, 0x07, 0x00, 0x00] = .ok (.nopBase { d := 0, a := 0, b := 0, stall := 0 }) := val (by decide +kernel)
theorem witness_StepRunsDecoded : ∃ u bs, (stateC 0x1000).cur = some issue1 ∧ fetchBytes (stateC 0x1000) issue1 = (u, .ok bs) ∧
    lenOf (wordAt bs 0) ≤ bs.length ∧
    decode (bs.take (lenOf (wordAt bs 0))) = .ok (.nopBase { d := 0, a := 0, b := 0, stall := 0 }) :=
  ⟨_, leBytes 64 (0x07E0 + 0xFFFF_FFC0 * 2 ^ 32 + 1 * 2 ^ 480), rfl, gives (by decide +kernel), by decide +kernel, val (by decide +kernel)⟩
/-- No translation, a word that crosses its line, a word of no row. -/
theorem witness_FetchAndDecodeTraps :
    (s0.cur = some issue1 ∧ ∃ u f, fetchBytes s0 issue1 = (u, .error f)) ∧
    (∃ u bs, fetchBytes (stateC 0x103C) issue1 = (u, .ok bs) ∧ bs.length < lenOf (wordAt bs 0)) ∧
    ∃ u bs, fetchBytes (stateC 0x1004) issue1 = (u, .ok bs) ∧ lenOf (wordAt bs 0) ≤ bs.length ∧
      ∀ i, decode (bs.take (lenOf (wordAt bs 0))) ≠ .ok i := by
  have h : decode ((leBytes 60 (0xFFFF_FFC0 + 1 * 2 ^ 448)).take 4) = .error .unassigned := err (by decide +kernel)
  exact ⟨⟨rfl, _, { cause := .translationFault, fcode := 1, addr := 0x1000 }, fails (by decide +kernel)⟩,
    ⟨_, [1, 0, 0, 0], gives (by decide +kernel), by decide +kernel⟩,
    _, leBytes 60 (0xFFFF_FFC0 + 1 * 2 ^ 448), gives (by decide +kernel), by decide +kernel, fun i h' => by
      rw [show lenOf _ = 4 from by decide +kernel, h] at h'
      cases h'⟩
theorem witness_MemoryStaysCanonical : memOk s0 ∧ ∃ t, step s0 = .next t := ⟨show Memory.wf s0.mem = true from rfl, _, rfl⟩

/-- A guard that is false: p0 reads false in `s0`. -/
theorem witness_GuardFalseOnlyRetires : let x := { ts with guard := 0 }
    (Instr.iadd x).ext? = some x ∧ (∀ f ∈ [Instr.rett, .frd, .fwr, .grpctl, .tlbi, .mreset], Instr.iadd x ≠ f x) ∧ s0.cur = some issue1 ∧
    issue1.mems = [0] ∧ (s0.member 1 0).guard x = false ∧ (s0.member 1 0).cap = none ∧ (s0.member 1 0).step = false ∧
    undersized (s0.member 1 0) (guardRegs x) = false ∧ (s0.block 1).dbg = false ∧ (s0.block 1).course = none ∧
    (s0.member 1 0).live = true := by decide +kernel

/-- One of two live threads exits; the last one does. -/
def sTwo : State := state1 { block1 (mem1 []) with tb := 2, members := [(0, mem1 []), (1, { mem1 [] with lane := 1, slot := 1 })] }
theorem witness_ThreadExit :
    (Single false tx [] sTwo issue1 0 ∧ (sTwo.block 1).state = .running ∧ (sTwo.member 1 1).live = true ∧
      ∃ kv ∈ (sTwo.block 1).members, kv.1 = 1 ∧ kv.2.live = true) ∧
    Single false tx [] s0 issue1 0 ∧ (s0.block 1).state = .running ∧ (∀ kv ∈ (s0.block 1).members, kv.1 = 0 ∨ kv.2.live = false) ∧
      (∃ kv ∈ (s0.block 1).members, kv.1 = 0) ∧ (s0.block 1).handler = none :=
  ⟨singleAnd (by decide +kernel), single (by decide), by decide +kernel⟩


theorem witness_BlockingPoints :
    let ended := state1 { block1 (mem1 []) with sliceEnded := true }
    let late := state1 (block1 (mem1 [(0, 1)]))
    let full := state1 { block1 (mem1 []) with full := [(1023, true)] }
    let A := [(true, opA tx)]
    let x := ti tb 4092
    (Single false tx [] ended issue1 0 ∧ (ended.member 1 0).wait = none ∧ (ended.block 1).sliceEnded = true ∧
      Single false tx [] s0 issue1 0 ∧ (s0.member 1 0).wait = none ∧ (s0.block 1).sliceEnded = false) ∧
    (Single false tx (readRegs A) late issue1 0 ∧ late.reft.toNat < ((memIn late issue1 0 tx A).src 0).foldl max 0 ∧
      Single false tx (readRegs A) s0 issue1 0 ∧ ((memIn s0 issue1 0 tx A).src 0).foldl max 0 ≤ s0.reft.toNat) ∧
    (Single false x (readRegs (windowReads x false)) s0 issue1 0 ∧ windowOffset x (memIn s0 issue1 0 x (windowReads x false)) = 4092 ∧
      fullBit s0 1 4092 = false ∧ Single false x (readRegs (windowReads x true)) full issue1 0 ∧
      windowOffset x (memIn full issue1 0 x (windowReads x true)) = 4092 ∧ 4092 + 4 ≤ spadSizeOf full 1 ∧ fullBit full 1 4092 = true) ∧
    (let s := stateS (mkBarrier 2 1 0) []
     let y := { tx with c := 2 }
     let r := syncReads y (false, .lane y.c) noRead
     Single false y (readRegs r) s issue1 0 ∧ (∃ u, syncReach (started s) (threadOf (s.block 1)) (addressOfPair y (memIn s issue1 0 y r))
       .read = (u, .ok (syncKey 0 0, mkBarrier 2 1 0))) ∧ isBarrier (mkBarrier 2 1 0) = true ∧
       barArrived (mkBarrier 2 1 0) < barExpect (mkBarrier 2 1 0) ∧
       barPhase (mkBarrier 2 1 0) = medianBy unsignedV ((memIn s issue1 0 y r).src 2) % 2 ^ 16) ∧
    (let y := ti tx 7
     let s := stateT false .threads
     Single false y (readRegs (tagReads y)) s issue1 0 ∧ tagMask y (memIn s issue1 0 y (tagReads y)) < 2 ^ (s.block 1).tagN ∧
       maskTags (tagMask y (memIn s issue1 0 y (tagReads y))) ≠ [] ∧
       ∀ n ∈ maskTags (tagMask y (memIn s issue1 0 y (tagReads y))), tagSet (s.block 1) n = false) ∧
    let y := ti tx 0
    let s := stateT false (.claimed 3)
    Single false y (readRegs (slotReads y)) s issue1 0 ∧ 4096 * slotOf y (memIn s issue1 0 y (slotReads y)) < spadSizeOf s 1 ∧
      ownerOf (s.block (spadHome s 1)) (slotOf y (memIn s issue1 0 y (slotReads y))) = .claimed 3 :=
  ⟨⟨single (by decide), by decide, by decide, single (by decide), by decide⟩,
    ⟨single (by decide), by decide +kernel, single (by decide), by decide +kernel⟩,
    ⟨single (by decide), by decide +kernel, by decide +kernel, single (by decide), by decide +kernel⟩,
    ⟨single (by decide), ⟨_, gives (by decide +kernel)⟩, by decide +kernel⟩, singleAnd (by decide +kernel),
    single (by decide), by decide +kernel⟩

/-- A member that waits as `k` in the issue of number 1. -/
def cap1 : Captured :=
  { seq := 1, x := tx, major := 46, words := [], srcs := [[0, 0, 0, 0]], result := none, faultReply := none, requests := [], nextPc := 0x1004
    icount := 0 }
def stateK (k : WaitKind) (B : Block) : State := state1 { B with members := [(0, { mem1 [] with wait := some k, cap := some cap1 })] }
theorem witness_WakeEvents :
    let due := fun (s : State) (k : WaitKind) => (s.member 1 0).wait = some k ∧ (s.member 1 0).cap = some cap1 ∧ (s.block 1).state = .running
    let B := block1 (mem1 [])
    let full := stateK (.ldf 0) { B with full := [(0, true)] }
    let tags := stateK (.tags false 1) { B with tags := [(0, true)] }
    (due (stateK (.waitc 0) B) (.waitc 0) ∧ 0 ≤ (stateK (.waitc 0) B).reft.toNat) ∧ (due full (.ldf 0) ∧ fullBit full 1 0 = true) ∧
    (due (stateK (.ste 0 0) B) (.ste 0 0) ∧ fullBit (stateK (.ste 0 0) B) 1 0 = false) ∧
    (due tags (.tags false 1) ∧ wakeReady tags 1 (.tags false 1) = true) ∧ (s0.member 1 0).wait = none ∧
    ((stateK (.ldf 0) B).member 1 0).wait = some (.ldf 0) ∧ fullBit (stateK (.ldf 0) B) 1 0 = false ∧
    (let s := stateW walker1
     let k := (s.member 1 0).walker 0
     (s.block 1).state = .running ∧ (s.member 1 0).live = true ∧ k.bound = true ∧ k.ahead.length < 16 ∧ k.next + k.ahead.length < k.total) ∧
    16 ≤ (((stateW { walker1 with ahead := List.replicate 16 none }).member 1 0).walker 0).ahead.length ∧
    (isV (syncPlace 0x01F0_0000_0000_0000) (0, 0) = true ∧ (s0.member 1 0).spin ≠ 1) := by decide +kernel

/-- A member that waits in RLD for one reply, with its value and without. -/
theorem witness_WakeEvents_remote :
    let c := fun r => { cap1 with requests := [5], result := r }
    let s := fun r => state1 { block1 (mem1 []) with members := [(0, { mem1 [] with wait := some (.remote true [5]), cap := some (c r) })] }
    ∀ r ∈ [none, some [7]], (∃ kv ∈ ((s r).block 1).members, kv.2.cap = some (c r) ∧ (5 : Nat) ∈ (c r).requests) ∧
      (∀ kv ∈ ((s r).block 1).members, ∀ d, kv.2.cap = some d → d.seq = 1) ∧ replayMembers ((s r).block 1) 1 = [0] := by
  intro c s r hr
  refine ⟨?_, ?_, ?_⟩
  · revert r; decide +kernel
  · simp only [List.mem_cons, List.not_mem_nil, or_false] at hr
    rcases hr with rfl | rfl <;> (intro kv hk d hd; cases List.mem_singleton.mp hk; cases hd; rfl)
  · revert r; decide +kernel

theorem witness_PreciseTraps :
    let x16 := { ti ts 16 with b := 2 }
    let x0 := { ti ts 0 with b := 1 }
    let sUn := state1 (blockR (mem1 []))
    let w := fun (n : Nat) => ti ts n
    let at' := fun (x : Ext) => windowOffset x (memIn s0 issue1 0 x (windowReads x true))
    (Single false x16 (readRegs (recordReads x16 false)) sM issue1 0 ∧ recordAt sM x16 false = .error (fltOf .bounds 0)) ∧
    (Single false x0 (readRegs (recordReads x0 true)) sUn issue1 0 ∧ recordAt sUn x0 true = .ok (some (.page 0x1000)) ∧
      ∃ u f, storePlace (started sUn) 1 0 .s32 (.page 0x1000) ((memIn sUn issue1 0 x0 (recordReads x0 true)).src 3) = (u, some f)) ∧
    (Single false (w 64) (readRegs (windowReads (w 64) true)) s0 issue1 0 ∧ ¬ (0 ≤ at' (w 64) ∧ at' (w 64) + 4 ≤ (s0.block 1).lsSize)) ∧
    (Single false (w 58) (readRegs (windowReads (w 58) true)) s0 issue1 0 ∧ at' (w 58) + 4 ≤ (s0.block 1).lsSize ∧ at' (w 58) % 4 ≠ 0) ∧
    (Single false (w 4096) (readRegs (windowReads (w 4096) true)) s0 issue1 0 ∧
      ¬ (0 ≤ at' (w 4096) ∧ at' (w 4096) + 4 ≤ spadSizeOf s0 1)) ∧
    (Single false (w 1) (readRegs (windowReads (w 1) true)) s0 issue1 0 ∧ 0 ≤ at' (w 1) ∧ at' (w 1) + 4 ≤ spadSizeOf s0 1 ∧ at' (w 1) % 4 ≠ 0) ∧
    (let s := stateS 5 []
     let r := syncReads tx noRead noRead
     Single false tx (readRegs r) s issue1 0 ∧ (∃ u, syncReach (started s) (threadOf (s.block 1)) (addressOfPair tx (memIn s issue1 0 tx r))
       .atomic = (u, .ok (syncKey 0 0, 5))) ∧ isBarrier 5 = false) ∧
    (Single false tn [] (stateW walker1) issue1 0 ∧ (((stateW walker1).member 1 0).walker 0).bound = true ∧
      (((stateW walker1).member 1 0).walker 0).ty ≠ tn.ty) ∧
    (Single false (ti tx 8) (readRegs (tagReads (ti tx 8))) s0 issue1 0 ∧
      2 ^ (s0.block 1).tagN ≤ tagMask (ti tx 8) (memIn s0 issue1 0 (ti tx 8) (tagReads (ti tx 8)))) ∧
    (let s := stateT false .given
     Single false (ti tx 0) (readRegs (slotReads (ti tx 0))) s issue1 0 ∧
       4096 * slotOf (ti tx 0) (memIn s issue1 0 (ti tx 0) (slotReads (ti tx 0))) < spadSizeOf s 1 ∧
       ownerOf (s.block (spadHome s 1)) (slotOf (ti tx 0) (memIn s issue1 0 (ti tx 0) (slotReads (ti tx 0)))) ≠ .threads) ∧
    (let s := state1 (block1 (mem1 [(0, 2)]))
     Single false tx (readRegs [(true, opA tx)]) s issue1 0 ∧
       medianBy unsignedV (srcs (s.block 1) (s.member 1 0) true (opA tx)) % 2 ^ 57 % 4 ≠ 0) ∧
    let p : PendWrite := { reg := 0, val := 5, rem := 2, half := 0 }
    let s := state1 (block1 { mem1 [] with sibs := [{ Regs.zero with c := [(11, 1)], pend := [p] }] })
    s.cur = some issue1 ∧ issue1.mems = [0] ∧ (s.member 1 0).guard ts = true ∧
      undersized (s.member 1 0) (readRegs [(ts.ty.wide, opA ts), (ts.ty.wide, opB ts)]) = true := by
  refine ⟨⟨single (by decide), err (by decide +kernel)⟩, ⟨single (by decide), val (by decide +kernel), _,
    { cause := .translationFault, fcode := 1, addr := 0x1000 }, fine (by decide +kernel)⟩, singleAnd (by decide +kernel),
    singleAnd (by decide +kernel), singleAnd (by decide +kernel), singleAnd (by decide +kernel),
    ⟨single (by decide), ⟨_, gives (by decide +kernel)⟩, by decide +kernel⟩, singleAnd (by decide +kernel),
    singleAnd (by decide +kernel), singleAnd (by decide +kernel), singleAnd (by decide +kernel),
    by decide +kernel⟩

/-- Three different offsets under COUNT, LOG and TRAP of the STEER cause. -/
theorem witness_InstabilityActions :
    let s := fun (a : Nat) => state1 (block1 { mem1 [] with sibs := [0, 1, 2].map (fun k =>
      { Regs.zero with v := [(0, BitVec.ofNat 32 (4 * k))], c := [(1, BitVec.ofNat 32 (64 * a))] }) })
    let r := windowReads ts false
    ∀ a ∈ [1, 2, 3], Single false ts (readRegs r) (s a) issue1 0 ∧ windowOffset ts (memIn (s a) issue1 0 ts r) = 4 ∧
      4 + tyBytes ts.ty ≤ spadSizeOf (s a) 1 ∧ 4 % tyBytes ts.ty = 0 ∧ ((s a).member 1 0).sibs.length = 3 ∧
      ¬ allEqual ((memIn (s a) issue1 0 ts r).src 0) ∧ ((s a).member 1 0).live = true ∧ ((s a).block 1).state = .running ∧
      niAction ((s a).member 1 0) 3 = a := by
  intro s r a ha
  refine ⟨single ?_, ?_⟩
  · revert a; decide +kernel
  · revert a; decide +kernel

/-- Three siblings with 1.0 in v0 and v1, −1.0, −1.0 and a neighbour in v1, 1, 2, 3 in v2 and 1.0, −1.0, 5.0 in v3, under each action of
the other three causes: 1.0 + v1 keeps fewer than the 10 digits that its operands have, 2 < v2 differs among them, and v3 has no digit. -/
def stateNI (a : Nat) : State :=
  state1 (block1 { mem1 [] with sibs := [(0xBF80_0000, 1, 0x3F80_0000), (0xBF80_0000, 2, 0xBF80_0000), (0xBF80_0001, 3, 0x40A0_0000)].map (fun v =>
    { Regs.zero with
      v := [(0, 0x3F80_0000), (1, BitVec.ofNat 32 v.1), (2, BitVec.ofNat 32 v.2.1), (3, BitVec.ofNat 32 v.2.2), (4, 2)]
      c := [(1, BitVec.ofNat 32 (a * 21)), (2, 10)] }) })
theorem witness_InstabilityActions_causes : ∀ a ∈ [0, 1, 2, 3],
    let s := stateNI a
    let m := s.member 1 0
    let B := s.block 1
    let digs := fun o => digCount .f32 (m.sibs.map (fun r => opRead B r false o))
    let res := m.sibs.map (fun r => (fadd .f32 ⟨.rne, false⟩ (fval .f32 (opRead B r false (.lane 0))) (fval .f32 (opRead B r false (.lane 1)))).1)
    let x := { tx with rnd := .rne, b := 1 }
    let y := { ts with minor := 2, a := 4, b := 2 }
    (Single false x (readRegs [(false, opA x), (false, opB x)]) s issue1 0 ∧ Single false y (readRegs [(false, opA y), (false, opB y)]) s issue1 0 ∧
      Single false { tx with a := 3 } (readRegs [(false, .lane 3)]) s issue1 0) ∧
    m.sibs.length = 3 ∧ m.live = true ∧ B.state = .running ∧ (∀ c, c < 3 → niAction m c = a) ∧
    digCount .f32 res < 10 ∧ 10 ≤ digs (.lane 0) ∧ 10 ≤ digs (.lane 1) ∧ digs (.lane 3) = 0 ∧
    (m.sibs.map (fun r => icmpOp y.minor (ival .s32 (opRead B r false (opA y))) (ival .s32 (opRead B r false (opB y)))) = [false, false, true]) := by
  intro a ha
  refine ⟨⟨single ?_, single ?_, single ?_⟩, ?_⟩ <;> (revert a; decide +kernel)

/-- A region without a log ring, and one whose ring of 16 records has room. -/
theorem witness_InstabilityActions_log :
    let R := { sM.region 1 with logBase := 0x5000, logN := 4 }
    let s := { sM with regions := [(1, R)] }
    (sM.region (effOwner sM.regions 9 sM.regions.length 1)).logBase = 0 ∧ s.region (effOwner s.regions 9 s.regions.length 1) = R ∧
    (R.logWr + 2 ^ 32 - Memory.nat s.mem (R.paddr + 64) 4) % 2 ^ 32 ≠ 2 ^ R.logN ∧
    ∃ u, writeRange s (keystoneOf 1 0) (R.logBase + 32 * (R.logWr % 2 ^ R.logN)) (leBytes 32 0) = (u, none) :=
  ⟨by decide +kernel, by decide +kernel, by decide +kernel, _, fine (by decide +kernel)⟩

theorem witness_SoftwareTraps : Single false tx [] s0 issue1 0 ∧ (s0.member 1 0).live = true ∧ (s0.block 1).state = .running :=
  ⟨single (by decide), by decide⟩


/-- Region 1 delivers every cause to a handler at 0x2000 and has one frame at 2^20. -/
def handled (s : State) : State :=
  { s with regions := [(1, { Region.none with live := true, ovr := 2 ^ 10 - 1, handler := 0x2000, hmask := 0x0FFF_FFFE, frameBase := 2 ^ 20
                                              frameSize := 2 ^ 20, nframe := 1 })] }
def trap1 (c : Cause) : Trap :=
  { cause := c, fcode := 0xFFFF_FFFF, addr := 2 ^ 64 - 1, pc := 2 ^ 57 - 4, icount := 0, words := List.replicate 20 0, micro := 0xFF, tag := 0
    quarter := 3, lanes := 2 ^ 48 - 1, done := 0, mems := [0] }
theorem witness_TakingATrap :
    (let s := handled sM
     let B := s.block 1
     let stopped := stopBlock s 1
     let who := keystoneOf B.region (coreDie B.core)
     let u := (checkRange { stopped with choice := stopped.choice + 128 * B.nthread } who (2 ^ 20) 4096 .write).1
     (B.handler = none ∧ delivered s B.region .software = true ∧ frameSize B ≤ 2 ^ 20 ∧ pickFrame stopped B.region = some 0 ∧
       (frameBytes stopped 1 (trap1 .software) 2).length = 4096 ∧ 1 ≠ s.nextBlock) ∧
       checkRange { stopped with choice := stopped.choice + 128 * B.nthread } who (2 ^ 20) 4096 .write = (u, none) ∧
       (∃ w, writeRange u who (2 ^ 20) (frameBytes stopped 1 (trap1 .software) 2) = (w, none))) ∧
    ((s0.block 1).handler = none ∧ delivered s0 (s0.block 1).region .bounds = false ∧ delivered s0 (s0.block 1).region .breakpoint = false ∧
      delivered s0 (s0.block 1).region .regrant = false) ∧
    (let s := s0.setBlock 2 { Block.none with handler := some { block := some 1, frame := 2 ^ 20, frameIdx := 0, cause := .bounds, addr := 0, started := 0 } }
     ∃ hd, (s.block 2).handler = some hd ∧ hd.block = some 1 ∧ Cause.bounds ∉ [Cause.regrant, .breakpoint, .queueError, .step]) :=
  ⟨⟨by decide +kernel, fine (by decide +kernel), _, fine (by decide +kernel)⟩, by decide +kernel, _, rfl, rfl, by decide⟩

theorem witness_FrameLayout : 2 ∈ [0, 2, 8] ∧
    (let t := trap1 .software
     t.fcode < 2 ^ 32 ∧ t.pc < 2 ^ 57 ∧ t.addr < 2 ^ 64 ∧ t.lanes < 2 ^ 48 ∧ t.done < 2 ^ 48 ∧ t.words.length ≤ 20 ∧ t.quarter < 4) ∧
    (s0.block 1).triad = false ∧ (s0.member 1 0).sibs = [Regs.zero] ∧ (s0.member 1 0).cap = none ∧
    (fun n : Nat => n == 127) 127 = true ∧ (fun n : Nat => n == 127) 126 = false := by decide +kernel


/-- Block 1 is the handler of block 2, whose frame of zeros lies at 2^20; v0, v1, v2 hold `v`, and HLIMIT is `limit`. -/
def hd1 : Handler := { block := some 2, frame := 2 ^ 20, frameIdx := 0, cause := .software, addr := 0, started := 0 }
def stateH (v : SMap W32) (limit : Nat) : State :=
  let s := handled (mapped 0 { block1 (mem1 v) with handler := some hd1 })
  { s with
    blocks := s.blocks ++ [(2, { block1 (mem1 []) with state := .handled 0 1 })], nextBlock := 3
    regions := [(1, { s.region 1 with frames := [0], hlimit := limit })], reft := 1000 }
theorem privRead_misaligned {s b hd a} (h : handlerOf s b = some hd) (h' : a % 8 ≠ 0) :
    privRead s b a = (s, .error (fltOf .misalignedAddr a)) := by simp [privRead, h, h']
theorem witness_HandlerInstructions :
    let s := stateH [] 1
    let bad := stateH [(0, 4)] 0
    let A := [(false, Opnd.lane tx.a)]
    let P := [(true, Opnd.lane tx.a), (false, Opnd.lane tx.b)]
    let F := [(false, Opnd.lane tx.a), (true, Opnd.lane tx.b)]
    let sel := stateH [(0, 1), (2, 0xF0)] 0
    let xs := { tx with b := 2 }
    let Ps := [(true, Opnd.lane xs.a), (false, Opnd.lane xs.b)]
    (s0.cur = some issue1 ∧ (s0.block 1).handler = none) ∧ ((s.block 1).handler = some hd1 ∧ (s.member 1 0).sibs.length = 1) ∧
    (Single false tx (readRegs A) s issue1 0 ∧ ∃ u v, privRead (started s) 1 (privAddr tx (memIn s issue1 0 tx F)) = (u, .ok v)) ∧
    (Single false tx (readRegs A) bad issue1 0 ∧
      privAddr tx (memIn bad issue1 0 tx F) = 4 ∧
      privRead (started bad) 1 4 = (started bad, .error (fltOf .misalignedAddr 4))) ∧
    (Single false tx (readRegs F) s issue1 0 ∧ privAddr tx (memIn s issue1 0 tx F) = 0 ∧ (diePageRead s 0 0).isSome = true) ∧
    (Single false xs (readRegs Ps) sel issue1 0 ∧
      ((sel.block 2).members.filter (fun kv => grpSelects kv.2 (((memIn sel issue1 0 xs Ps).src 0).headD 0)
        (((memIn sel issue1 0 xs Ps).src 1).headD 0))).length = 1 ∧
      ∃ u, grpEdit (keystoneOf 1 0) (2 ^ 20) 0 [0] (started sel) = (u, none)) ∧
    Single false tx (readRegs P) s issue1 0 ∧
    (Single false tx [] s issue1 0 ∧ (matReset (started s) 0).member 1 0 = s.member 1 0 ∧ ((matReset (started s) 0).block 1).course = none) ∧
    (∃ u frame, readRange (started s) (keystoneOf 1 0) (2 ^ 20) (2048 + 2048 * (s.block 2).nthread + 2368 * ((replaySeqs (s.block 2)).take 256).length) =
      (u, .ok frame) ∧ framePcOk (s.block 2) frame = true) ∧
    (s.block 1).state ≠ .ended ∧ (s.eff 4 1).hlimit ≠ 0 ∧ hd1.started + 1000 * (s.eff 4 1).hlimit ≤ s.reft.toNat ∧ (bad.eff 4 1).hlimit = 0 :=
  ⟨by decide, by decide, ⟨single (by decide), some_ok (by decide +kernel)⟩,
    ⟨single (by decide), by decide +kernel, privRead_misaligned (a := 4) (hd := hd1) (by decide) (by decide)⟩,
    singleAnd (by decide +kernel), ⟨single (by decide), by decide +kernel, _, fine (by decide +kernel)⟩, single (by decide),
    singleAnd (by decide +kernel), some_sat (framePcOk _) (by decide +kernel), by decide +kernel⟩

/-- A request of 16 × 16 × 32 with a budget of 4 registers over 128 threads; a changed shape; a tag and a slot free and busy. -/
def matop (k : MatKind) (tag slot : Nat) : MatOp := { MatOp.base s0 k 1 0 tag tx 50 with slot := slot }
def stateQ (k : MatKind) (n : Nat) (B : Block) : State :=
  { state1 B with cores := [(0, { CoreSt.reset with matq := List.replicate n (matop k 7 3) })] }
theorem witness_ShapesAndStatuses :
    let changed := state1 { block1 (mem1 []) with shChanged := 1 }
    let x := { tx with a := 7 }
    let c := { tx with imm := 3 }
    let reads := [(false, Opnd.lane c.a), noRead, noRead, noRead]
    let req : W64 := BitVec.ofNat 64 (16 + 16 * 2 ^ 16 + 32 * 2 ^ 32 + 4 * 2 ^ 48)
    let b := block1 (mem1 [])
    Single true tx (readRegs (shapeReads tx)) s0 issue1 0 ∧
    (Single false tx [] s0 issue1 0 ∧ bitN (s0.block 1).shChanged (tx.a % 8) = false) ∧
    (Single false tx [] changed issue1 0 ∧ bitN (changed.block 1).shChanged (tx.a % 8) = true) ∧
    (Single false x [] s0 issue1 0 ∧ x.a % 64 < (s0.block 1).tagN ∧ tagBusy s0 1 (x.a % 64) = false) ∧
    (Single false x [] (stateQ .matx 1 b) issue1 0 ∧ tagBusy (stateQ .matx 1 b) 1 (x.a % 64) = true) ∧
    (Single false c (readRegs reads) s0 issue1 0 ∧ ∀ o ∈ (s0.core 0).matq, o.slot ≠ c.imm % 4) ∧
    (Single false c (readRegs reads) (stateQ .matx 1 b) issue1 0 ∧ ∃ o ∈ ((stateQ .matx 1 b).core 0).matq, o.slot = c.imm % 4) ∧
    shapeGrant req 128 192 = (16, 16, 32, 2, 0) :=
  ⟨single (by decide), ⟨single (by decide), by decide⟩, ⟨single (by decide), by decide⟩, singleAnd (by decide +kernel),
    singleAnd (by decide +kernel), singleAnd (by decide +kernel), singleAnd (by decide +kernel),
    by decide +kernel⟩

/-- A queue with 15 operations and one with 16; a tag that the block does not have, and a shape register granted anew. -/
theorem witness_MatrixAcceptance :
    let x := { tx with d := 7, mod := 1, a := 0 }
    let W := [(false, opA x), noRead, (false, Opnd.pred x.c), noRead]
    let s := fun n => stateQ .matx n (block1 (mem1 []))
    (Single true x (readRegs W) (s 15) issue1 0 ∧ x.d % 64 < ((s 15).block 1).tagN ∧ regrantFlt ((s 15).block 1) x.b = none ∧
      ((s 15).core 0).matq.length < 16) ∧
    (Single true { x with d := 8 } (readRegs W) (s 15) issue1 0 ∧ ((s 15).block 1).tagN ≤ ({ x with d := 8 } : Ext).d % 64) ∧
    (let t := stateQ .matx 15 { block1 (mem1 []) with shChanged := 1 }
     Single true x (readRegs W) t issue1 0 ∧ x.d % 64 < (t.block 1).tagN ∧ bitN (t.block 1).shChanged (x.b % 8) = true) ∧
    Single true x (readRegs W) (s 16) issue1 0 ∧ regrantFlt ((s 16).block 1) x.b = none ∧ 16 ≤ ((s 16).core 0).matq.length :=
  ⟨singleAnd (by decide +kernel), singleAnd (by decide +kernel), singleAnd (by decide +kernel), single (by decide), by decide +kernel⟩


/-- A MATX of F4 operands on a granted shape of 8 × 8 × 8 over one thread, and a FOLD of one source from an empty log. -/
def shape8 : ShapeReg :=
  let req : W64 := BitVec.ofNat 64 (8 + 8 * 2 ^ 16 + 8 * 2 ^ 32 + 64 * 2 ^ 48)
  { req := req, grant := grantWord req 1 192 }
def matx8 : MatOp :=
  { matop .matx 7 0xFFFF with
    pbOk := true, pb := List.replicate 48 0, shape := shape8
    recA := mkRecord 0x01E0_0000_0000_0000 0 0 0 0 1 0 0 0 0x3F80_0000, recB := mkRecord 0x01E0_0000_0000_1000 0 0 0 0 0 0 0 0 0x3F80_0000 }
def fold1 : MatOp := { matop .fold 7 3 with pbOk := true, pb := leBytes 48 (1 * 2 ^ 128) }
def drain1 : MatOp := { matop .drain 7 3 with recA := mkRecord 0x1000 0 1 1 0 0 4 0 0 0, cond := true, condTrue := true }
/-- Core 0 holds one operation and Coffer slot 3 as given. -/
def stateM (o : MatOp) (k : CofferSlot) : State :=
  { mapped 0 { block1 (mem1 []) with spadSize := 16384 } with cores := [(0, { CoreSt.reset with matq := [o], coffer := [(3, k)] })] }
def due0 (s : State) (k : MatKind) (o : MatOp) : Prop :=
  (s.core 0).matq[0]? = some o ∧ o.kind = k ∧ ∀ p ∈ (s.core 0).matq.take 0, p.conflicts o = false
theorem due {o : MatOp} {c : CofferSlot} : due0 (stateM o c) o.kind o := ⟨rfl, rfl, fun _ h => by cases h⟩
theorem witness_MatrixCompletion :
    let e := CofferSlot.empty
    let slot := fun st r fin => { e with state := st, region := r, finite := fin }
    (let s := stateQ .drain 2 (block1 (mem1 []))
     ∀ o, (s.core 0).matq[1]? = some o → ∃ p ∈ (s.core 0).matq.take 1, p.conflicts o = true) ∧
    (due0 (stateM matx8 e) .matx matx8 ∧ matx8.refused ((stateM matx8 e).block 1).spadSize = none ∧ matx8.slot = 0xFFFF ∧ matx8.strict = false) ∧
    (due0 (stateM (matop .matx 7 0xFFFF) e) .matx (matop .matx 7 0xFFFF) ∧ (matop .matx 7 0xFFFF).refused 16384 = some 1) ∧
    due0 (stateM (matop .cfzero 7 3) e) .cfzero (matop .cfzero 7 3) ∧
    (due0 (stateM (matop .fold 7 3) e) .fold (matop .fold 7 3) ∧
      ∃ u code k st, tryFold { stateM (matop .fold 7 3) e with reqs := [] } 0 (matop .fold 7 3) = (u, some (code, k, st))) ∧
    (due0 (stateM fold1 e) .fold fold1 ∧ (tryFold { stateM fold1 e with reqs := [] } 0 fold1).2 = none) ∧
    (due0 (stateM drain1 (slot 1 2 true)) .drain drain1 ∧ (slot 1 2 true).state ≠ 0 ∧ (slot 1 2 true).region ≠ 1) ∧
    (due0 (stateM drain1 (slot 2 1 true)) .drain drain1 ∧ (slot 2 1 true).foreign 1 = false ∧ (slot 2 1 true).state = 2) ∧
    (due0 (stateM drain1 (slot 1 1 false)) .drain drain1 ∧ (slot 1 1 false).foreign 1 = false ∧ drain1.cond = true ∧ (slot 1 1 false).finite = false) ∧
    (due0 (stateM drain1 (slot 1 1 true)) .drain drain1 ∧ drain1.condTrue = true ∧ (slot 1 1 true).finite = true ∧
      ∃ v n, drainWrite { dequeueMat (stateM drain1 (slot 1 1 true)) 0 0 with reqs := [] } drain1 (slot 1 1 true) = (v, n, none)) ∧
    ((∃ o ∈ ((stateM { drain1 with ran := 2 ^ 20 } e).core 0).matq, 2 ^ 20 ≤ o.ran) ∧
      ((stateM drain1 e).core 0).matq ≠ [] ∧ ∀ o ∈ ((stateM drain1 e).core 0).matq, o.ran < 2 ^ 20) ∧
    (drain1.kind ≠ .fold ∧ ((stateM fold1 e).core 0).matq.length = 1 ∧ (tryFold (stateM fold1 e) 0 fold1).2 = none) ∧
    ((stateM matx8 e).block matx8.blk).course = none ∧
    ((s0.member 1 0).wait = none) ∧ (9 : Nat) < 16 ∧ matx8.pbOk = true ∧ matx8.kind = .matx :=
  ⟨by decide +kernel, ⟨due, by decide +kernel, rfl, by decide +kernel⟩, ⟨due, by decide +kernel⟩, due,
    ⟨due, _, 1, _, _, Prod.ext rfl (by decide +kernel : _ = some (1, CofferSlot.empty, MatStat.zero))⟩, ⟨due, by decide +kernel⟩,
    ⟨due, by decide⟩, ⟨due, by decide⟩, ⟨due, by decide⟩,
    ⟨due, by decide, by decide, _, 0, Prod.ext rfl (by decide +kernel : _ = (0, none))⟩, by decide +kernel, by decide +kernel, rfl,
    by decide⟩

/-- The last of 64 elements, in the last register below v64; a promotion of the least image sum. -/
theorem witness_MatrixProduct :
    (let B := { block1 (mem1 []) with spadSize := 16384 }
     63 < (matx8.sums B).length ∧ 63 < matx8.mg * matx8.ng ∧ 0 < matx8.kg / 8 ∧ 0 < B.tb ∧ (B.member (63 % B.tb)).live = true ∧
      (B.member (63 % B.tb)).sibs.length = (if B.triad then 3 else 1) ∧ 0 < (if B.triad then 3 else 1) ∧
      matx8.abase + ((matx8.sums B).length - 1) / B.tb < 128) ∧
    fval .f32 0x3F80_0000 = .fin false ⟨8388608, 8388608⟩ := by decide +kernel

theorem witness_Expansions :
    let A := [(false, Opnd.lane tx.a), (false, .lane tx.b), noRead, noRead]
    let alone := fun (s : State) (k : Nat) (tmp : List Nat) => (s.block 1).state = .running ∧
      (s.member 1 0).wait = some (.mq k 0 4032 tmp) ∧ (s.member 1 0).cap = some cap1 ∧ replayMembers (s.block 1) cap1.seq = [0]
    let s := fun k => stateK (.mq k 0 4032 []) (block1 (mem1 []))
    Single true tx (readRegs A ++ mqRegs tx) s0 issue1 0 ∧ (alone (s 0) 0 [] ∧ 0 + 64 ≤ spadSizeOf (s 0) 1) ∧
    (alone (s 1) 1 [] ∧ 4032 % 4 = 0 ∧ 4032 + 16 * mqCols cap1.x ≤ spadSizeOf (s 1) 1) ∧ (alone (s 2) 2 [] ∧ alone (s 5) 5 []) ∧
    (alone (s 6) 6 [] ∧ ((s 6).block 1).dbg = false ∧ ((s 6).block 1).course = none ∧ ((s 6).member 1 0).step = false ∧
      niAction ((s 6).member 1 0) niSteer = 0) ∧ (s0.member 1 0).wait = none ∧
    (0 < (s0.member 1 0).sibs.length ∧ 0 < mqCols tx ∧ ∀ e, e < 4 * mqCols tx → ([] : List Nat).getD e 0 < 2 ^ 32) :=
  singleAnd (by decide +kernel)

/-- Two members that expand together at micro-step `k`, the second with its tile at `off`. -/
def stateGrp (off k : Nat) : State :=
  let m := fun (slot at' : Nat) => { mem1 [] with slot := slot, wait := some (.mq k at' 4032 []), cap := some cap1 }
  state1 { block1 (mem1 []) with tb := 2, members := [(0, m 0 0), (1, m 1 off)] }
theorem witness_Expansions_groups :
    let both := fun (s : State) (off k : Nat) => (s.block 1).state = .running ∧ replayMembers (s.block 1) 1 = [1, 0] ∧
      (s.member 1 0).wait = some (.mq k 0 4032 []) ∧ (s.member 1 1).wait = some (.mq k off 4032 []) ∧ (s.member 1 0).cap = some cap1
    (both (stateGrp 0 0) 0 0 ∧ 0 % 4 = 0 ∧ 0 + 64 ≤ spadSizeOf (stateGrp 0 0) 1) ∧
    (both (stateGrp 4096 0) 4096 0 ∧ spadSizeOf (stateGrp 4096 0) 1 < 4096 + 4) ∧
    (both (stateGrp 0 6) 0 6 ∧ ((stateGrp 0 6).block 1).dbg = false ∧ ((stateGrp 0 6).block 1).course = none ∧
      ∀ j ∈ [1, 0], ((stateGrp 0 6).member 1 j).step = false ∧ niAction ((stateGrp 0 6).member 1 j) niSteer = 0) := by decide +kernel

/-- A queue of seven selections, of eight and of one whose parameters were refused; elements in order. -/
def selop (ok : Bool) (tag : Nat) : SelOp :=
  { kind := .selk, ty := .f32, rnd := .draw, blk := 1, mem := 0, tag := tag, pbOff := 0, pbOk := ok, pb := [], recIn := 0, recOut := 0, recIdx := 0
    seed := 0, randseed := 0, digest := 0, tid := 0, icount := 0, counter := 0, pc := 0 }
theorem witness_Selection :
    let x := { tx with d := 7 }
    let A := [(false, opA x), noRead, noRead, noRead]
    let s := fun n => { s0 with cores := [(0, { CoreSt.reset with selq := List.replicate n (selop false 6) })] }
    (Single true x (readRegs A) (s 7) issue1 0 ∧ x.d % 64 < ((s 7).block 1).tagN ∧ ((s 7).core 0).selq.length < 8) ∧
    (Single true x (readRegs A) (s 8) issue1 0 ∧ 8 ≤ ((s 8).core 0).selq.length) ∧
    (((s 1).core 0).selq = [selop false 6] ∧ (selop false 6).ok = false ∧ ((s 1).core 0).matq = [] ∧ ((s 1).die 0).copyq = [] ∧
      (s 1).dies = [] ∧ 0 = ((s 1).block 1).core) ∧ ((s 0).core 0).selq = [] :=
  ⟨singleAnd (by decide +kernel), singleAnd (by decide +kernel), by decide +kernel, by decide +kernel⟩

/-- A SAMP through an index row of one f32 element at `inp`, with its result at 0x2000 and its index at `idx`; and a SELK of it. -/
def sampop (inp idx : Nat) : SelOp :=
  let row := fun a => mkRecord a 0 1 1 0 0 4 0 0 0
  { selop true 6 with kind := .samp, pb := leBytes 48 (2 ^ 15), recIn := row inp, recOut := row 0x2000, recIdx := row idx }
def selkop (out : Nat) : SelOp :=
  { sampop 0x1000 0x3000 with kind := .selk, pb := leBytes 48 (2 ^ 32), recOut := mkRecord out 0 1 1 0 0 4 0 0 0 }
/-- `sM` and `sM3` with 1.0 at 0x1000. -/
def stateSel (s : State) : State := { s with mem := Memory.write [] 0x1000 (leBytes 4 0x3F80_0000) }
/-- The read of row 0, of element 0, and what SAMP makes of it. -/
def rowOf (o : SelOp) : State × Except Flt (List SelElem) := selRow (stateSel sM) o (engineOf (sM.block 1) 0) false 0
def one : SelElem := SelElem.of .f32 0x3F80_0000 24
theorem witness_Selection_rows :
    let who := engineOf (sM.block 1) 0
    let far : Flt := { cause := .translationFault, fcode := 1, addr := 2 ^ 40 }
    (let s := { sM with cores := [(0, { CoreSt.reset with selq := [sampop 0x1000 0x3000] })] }
     (s.core 0).selq = [sampop 0x1000 0x3000] ∧ (sampop 0x1000 0x3000).ok = true ∧ (selkop 0x2000).ok = true) ∧
    (∃ u, rowOf (sampop (2 ^ 40) 0x3000) = (u, .error far)) ∧
    (∃ u, rowOf (sampop 0x1000 (2 ^ 40)) = (u, .ok [one]) ∧
      ∃ v, sampRow u (sampop 0x1000 (2 ^ 40)) who 0 0 [one] = (v, .error far)) ∧
    (∃ u, rowOf (selkop (2 ^ 40)) = (u, .ok [one]) ∧ ∃ w, (selkRow (selkop (2 ^ 40)) [one]).outs.foldl (fun (a : State × Option Flt) x =>
        if a.2.isSome then a else selWrite a.1 (selkop (2 ^ 40)) who 0 x) (u, none) = (w, some far)) ∧
    (∃ u, rowOf (selkop 0x2000) = (u, .ok [one]) ∧ ∃ w, (selkRow (selkop 0x2000) [one]).outs.foldl (fun (a : State × Option Flt) x =>
        if a.2.isSome then a else selWrite a.1 (selkop 0x2000) who 0 x) (u, none) = (w, none)) ∧
    ¬ (1 < recExt0 (selkop 0x2000).recOut ∧ 0 < recExt1 (selkop 0x2000).recOut) ∧
    (engineWindow (stateSel sM) (some 1) 0x1000 4 = .ok (.page 0x1000) ∧ who.core = none ∧
      (∃ v p, reach (stateSel sM) who 0x1000 4 .read 1 = (v, .ok p) ∧ (p.rep == 0) = true) ∧
      ∃ v p, reach (stateSel sM3) (engineOf (sM3.block 1) 0) 0x1000 4 .read 3 = (v, .ok p) ∧ (p.rep == 1) = true) ∧
    (let top := fun es : List SelElem => es.foldl (fun a e => fvMax a e.val) (FV.inf true)
     let of := fun bits => [SelElem.of .f32 bits 24]
     ((of 0x7FC0_0000).filter SelElem.nan).length ≠ 0 ∧ top (of 0x7F80_0000) = .inf false ∧
       (((of 0xFF80_0000).filter SelElem.nan).length = 0 ∧ top (of 0xFF80_0000) = .inf true) ∧
       ((of 0x3F80_0000).filter SelElem.nan).length = 0 ∧ (top (of 0x3F80_0000)).isInf = false) ∧
    (sampPos (sampop 0x1000 0x3000) 0 0 [0x3F80_0000] = some 0 ∧ sampPos (sampop 0x1000 0x3000) 0 0 [0, 0] = none ∧
      sampPos { sampop 0x1000 0x3000 with counter := 3 } 5 0 [1] = some 0 ∧ (selkop 0x2000).idxin = false ∧ (sampop 0x1000 0x3000).idxin = true) ∧
    (∃ u bs, engineRead (stateSel sM) who (some 1) (rowAddr (sampop 0x1000 0x3000).recIdx 0 0 4) 4 = (u, .ok bs)) ∧ (selop true 6).redOp < 5 :=
  ⟨by decide +kernel, ⟨_, fails (by decide +kernel)⟩, ⟨_, gives (by decide +kernel), _, Prod.ext rfl (err (by decide +kernel))⟩,
    ⟨_, gives (by decide +kernel), _, fine (by decide +kernel)⟩, ⟨_, gives (by decide +kernel), _, fine (by decide +kernel)⟩,
    by decide +kernel, ⟨val (by decide +kernel), rfl, some_sat (fun p : Page => p.rep == 0) (by decide +kernel),
      some_sat (fun p : Page => p.rep == 1) (by decide +kernel)⟩, by decide +kernel, by decide +kernel, some_ok (by decide +kernel), by decide⟩


/-- A copy of one f32 element from `src` to `dst`, and an operation with it. -/
def pbCopy (src dst : Nat) : List Byte :=
  leBytes 112 (src + dst * 2 ^ 64 + 129 * 2 ^ 128 + (1 + 2 ^ 32) * 2 ^ 256 + (1 + 2 ^ 16 + 2 ^ 32 + 2 ^ 48) * 2 ^ 320 + (1 + 2 ^ 32) * 2 ^ 704)
def copyop (src dst region : Nat) : CopyOp :=
  { id := 0, blk := 1, mem := 0, tag := 7, region := region, pbOff := 0, pbOk := true, pb := pbCopy src dst, engine := 7, digest := 0
    slots := [], ownerFail := false, denied := false, pc := 0 }
theorem witness_Copies :
    let x := { tx with d := 7 }
    let A := [(false, opA x), noRead, noRead, noRead]
    let s := fun n => { sM with dies := [(0, { sM.die 0 with copyq := List.replicate n (copyop 0x1000 0x2000 1) })] }
    let k := CopyDesc.of (pbCopy 0x1000 0x2000)
    let rs := fun src dst => let k := CopyDesc.of (pbCopy src dst); ([k.srcRanges, k.srcScaleRanges], [k.dstRanges, k.dstScaleRanges])
    (Single true x (readRegs A) (s 63) issue1 0 ∧ x.d % 64 < ((s 63).block 1).tagN ∧ ((s 63).die 0).copyq.length < 64) ∧
    (Single true x (readRegs A) (s 64) issue1 0 ∧ 64 ≤ ((s 64).die 0).copyq.length) ∧ (s0.block 1).tagN ≤ ({ tx with d := 8 } : Ext).d % 64 ∧
    (((s 1).die 0).copyq[0]? = some (copyop 0x1000 0x2000 1) ∧ ((s 0).die 0).copyq[0]? = none) ∧
    (k.ok = true ∧ (CopyDesc.of (leBytes 112 (2 ^ 151))).ok = false) ∧ (s0.region 2).live = false ∧ (s0.region 1).live = true ∧
    (∃ q ∈ (rs 0x1000 0x01F0_0000_0000_0000).2.headD [], inSync q = true) ∧
    ((∀ r ∈ (rs 0x1000 0x1003).1 ++ (rs 0x1000 0x1003).2, ∀ q ∈ r, inSync q = false) ∧
      ∃ r ∈ (rs 0x1000 0x1003).1, ∃ q ∈ (rs 0x1000 0x1003).2, overlaps (spanOf r) (spanOf q) = true) :=
  ⟨singleAnd (by decide +kernel), singleAnd (by decide +kernel), by decide +kernel⟩

/-- A copy of one element within the partition, read and beyond the extents; its operation is accepted with every owner bit given, and with one
of the threads. -/
theorem witness_Copies_moves :
    let src := 0x01E0_0000_0000_0000
    let op := fun (ext : Nat) => { copyop src (src + 256) 1 with
      pb := leBytes 112 (src + (src + 256) * 2 ^ 64 + 129 * 2 ^ 128 + (1 + 2 ^ 32) * 2 ^ 256 + (1 + 2 ^ 16 + 2 ^ 32 + 2 ^ 48) * 2 ^ 320 +
        (ext + 2 ^ 32) * 2 ^ 704) }
    (∀ ext ∈ [0, 1], let k := CopyDesc.of (op ext).pb
      k.ok = true ∧ k.conv = 0 ∧ k.dlay = 0 ∧ k.readsScales = false ∧ k.writesScales = false ∧ k.sw = 8 * 4 ∧ k.total = 1 ∧ k.transpose = false ∧
      overlaps (spanOf k.srcRanges) (spanOf k.dstRanges) = false ∧ coordsAt k.counts 0 = [0, 0, 0, 0, 0, 0] ∧ k.src = src ∧ k.dst = src + 256 ∧
      (k.sext0, k.sext1) = (ext, 1)) ∧
    ((op 1).pbOk = true ∧ (op 1).ownerFail = false ∧ (op 1).denied = false ∧ (sM.region 1).live = true ∧ (sM.block 1).spadSize = 4096 ∧
      (sM.block 1).state = .running) ∧
    (let x := { tx with d := 7 }
     let s := fun (own : Owner) => mapped 0 { block1 (mem1 []) with own := [(0, own)], spad := storeWrite [] 0 (op 1).pb }
     let u := fun own => acceptCopy (started (s own)) 1 0 7 0
     (∀ own ∈ [.threads, .given], singleOk true x (readRegs [(false, opA x), noRead, noRead, noRead]) (s own) issue1 0 = true ∧
       ((u own).die 0).copyq.map CopyOp.ownerFail = [own != .given]) ∧ ((u .given).die 0).copyq.map CopyOp.slots = [[0]]) := by decide +kernel

/-- Queue 0 of engine 0 in RUN: its control block lies at 0x8000, its ring at `ring` with a packet of TYPE `t`, its records at `cring`. -/
def stateU (ring t cring : Nat) : State :=
  let cb := leBytes 128 (ring * 2 ^ 64 + 0x11 * 2 ^ 128 + 1 * 2 ^ 144 + cring * 2 ^ 192 + 1 * 2 ^ 288)
  { sM with
    mem := Memory.write (Memory.write [] 0x8000 cb) 0x3000 [BitVec.ofNat 8 t]
    dies := [(0, { sM.die 0 with qtab := [(0, { valid := true, paddr := 0x8000 })] })] }
def serves0 (s : State) : Prop :=
  ((s.die 0).fencedCompute = false ∧ (s.die 0).fencedFull = false) ∧
  ((s.die 0).queue 0 0).valid = true ∧ qState s 0x8000 = 1 ∧ (s.region (qRegion s 0x8000)).live = true ∧
  (checkTarget s (queueWho (qRegion s 0x8000) 0) 0 0x8000 128 0x8000 .read).2 = none ∧
  (checkTarget s (queueWho (qRegion s 0x8000) 0) 0 0x8000 128 0x8000 .write).2 = none
theorem witness_UserQueues :
    let s := fun t => stateU 0x3000 t 0x4000
    let bad := stateU (2 ^ 40) 0 (2 ^ 40)
    ((s0.die 0).queue 0 0).valid = false ∧
    (∀ t ∈ [0, 1, 2, 3, 4, 5], serves0 (s t) ∧ ∃ u p, nextPacket (qCount { s t with reqs := [] } 0 0x8000 0) 0 0x8000 = (u, .ok p) ∧ fieldAt p 0 1 % 16 = t ∧
      fieldAt p 4 4 = qField (s t) 0x8000 4 4) ∧
    (serves0 bad ∧ ∃ u f, nextPacket (qCount { bad with reqs := [] } 0 0x8000 0) 0 0x8000 = (u, .error f)) ∧
    (∃ u, writeRange (s 0) (queueWho 1 0) (qField (s 0) 0x8000 24 8 + 32 * (qField (s 0) 0x8000 32 4 % 2 ^ qField (s 0) 0x8000 36 4))
      (completionRecord 0 0 (PacketEnd.plain 2)) = (u, none)) ∧
    (∃ u f, writeRange bad (queueWho 1 0) (qField bad 0x8000 24 8 + 32 * (qField bad 0x8000 32 4 % 2 ^ qField bad 0x8000 36 4))
      (completionRecord 0 0 (PacketEnd.plain 2)) = (u, some f)) ∧
    ((checkTarget s0 (queueWho 1 0) 0 0x8000 128 0x8000 .write).2.isSome = true ∧ (1 ≤ bitsAt (qField (s 0) 0x8000 16 2) 0 4 ∧
      1 ≤ qField (s 0) 0x8000 36 4 ∧ qField (s 0) 0x8000 36 4 ≤ 15)) ∧
    (let dead := { s 0 with regions := [] }
     qRegion dead 0x8000 = 1 ∧ (dead.region 1).live = false ∧ ((dead.die 0).queue 0 0).paddr = 0x8000) ∧
    packetOk 0 (List.replicate 64 0) = true ∧ packetOk 0 (List.replicate 64 1) = false ∧
    ((2 ^ 32 - 1 : Nat) < 2 ^ 32 ∧ (PacketEnd.plain 6).status < 2 ^ 8 ∧ (15 : Nat) < 16 ∧ (PacketEnd.plain 6).fcode < 2 ^ 32 ∧
      (PacketEnd.plain 6).bytes < 2 ^ 64 ∧ (PacketEnd.plain 6).faddr < 2 ^ 64) := by
  have pk : ∀ t ∈ [0, 1, 2, 3, 4, 5], isV (nextPacket (qCount { stateU 0x3000 t 0x4000 with reqs := [] } 0 0x8000 0) 0 0x8000).2
      (BitVec.ofNat 8 t :: List.replicate 63 0) = true ∧ fieldAt (BitVec.ofNat 8 t :: List.replicate 63 (0 : Byte)) 0 1 % 16 = t ∧
      fieldAt (BitVec.ofNat 8 t :: List.replicate 63 (0 : Byte)) 4 4 = qField (stateU 0x3000 t 0x4000) 0x8000 4 4 ∧
      serves0 (stateU 0x3000 t 0x4000) := by unfold serves0; decide +kernel
  exact ⟨by decide, fun t ht => ⟨(pk t ht).2.2.2, _, _, gives (pk t ht).1, (pk t ht).2.1, (pk t ht).2.2.1⟩,
    ⟨by unfold serves0; decide +kernel, _, { cause := .translationFault, fcode := 1, addr := 2 ^ 40 }, fails (by decide +kernel)⟩,
    ⟨_, fine (by decide +kernel)⟩, ⟨_, { cause := .translationFault, fcode := 1, addr := 2 ^ 40 }, fine (by decide +kernel)⟩,
    by decide +kernel⟩

/-- A launch record of one block of one thread, of region 1, and a stage graph of one source stage. -/
def rec1 : LaunchRec :=
  { LaunchRec.of [] with code := 0x2000, stamp := Config.classStamp, gx := 1, gy := 1, gz := 1, bx := 1, by_ := 1, bz := 1, region := 1 }
def recP : LaunchRec := { LaunchRec.of [] with stamp := Config.classStamp, stages := 0x8000, region := 1 }
def graph1 : List Byte :=
  leBytes 544 (1 + (1 + 1 * 2 ^ 64 + 1 * 2 ^ 80 + 1 * 2 ^ 96 + 1 * 2 ^ 128 + 0xFF * 2 ^ 144 + 1 * 2 ^ 192 - 1) * 2 ^ 256)
/-- `sM` with region 1 limited to `n` slots and as many cores, and the graph in memory. -/
def stateL (n : Nat) : State :=
  { sM with
    mem := Memory.write [] 0x8000 (graph1.take 64)
    regions := [(1, { Region.none with live := true, ovr := 2 ^ 10 - 1, slots := n, cores := n })] }
/-- A stage queue of two entries of 16 bytes, of which `pub` are published; block 1 is its producer and its consumer, stage 0. -/
def queue1 (pub : List Nat) : StageQueue :=
  { base := 0x4000, esize := 16, logN := 1, prod := 0, cons := 0, write := pub.length, claim := 0, published := pub }
def stage1 : Stage := { code := 0, threads := 1, minB := 1, maxB := 2, inq := 0, ctl := 0, nstart := 0, created := 1, want := 0, idle := [] }
def stateG (pub : List Nat) : State :=
  { sM with grids := [(1, { Grid.none with region := 1, complete := false, stages := [stage1], queues := [queue1 pub] })], reft := 10000 }
/-- A waiting thread whose queue is there. -/
theorem witness_WakeEvents_queue : ((stateG [0]).grid ((stateG [0]).block 1).grid).queues[0]? = some (queue1 [0]) := by decide +kernel

theorem witness_LaunchesAndPipelines_launch :
    let who := keystoneOf 1 0
    let far := { rec1 with args := 2 ^ 40, argLen := 8 }
    ({ rec1 with stamp := 0 }.stamp ≠ Config.classStamp) ∧ ({ rec1 with code := 1 }.ok = false) ∧
    (rec1.ok = true ∧ (State.reset.region 1).live = false) ∧
    (rec1.ok = true ∧ rec1.stages = 0 ∧ ((stateL 0).region 1).live = true ∧ ∃ v, checkRange (stateL 0) who rec1.args rec1.argLen .read = (v, none) ∧
      budgetOk v 1 (ctlGang rec1.ctl) (launchNeeds rec1 none) = false) ∧
    (far.ok = true ∧ ∃ v f, checkRange (stateL 1) who far.args far.argLen .read = (v, some f) ∧
      budgetOk v 1 (ctlGang far.ctl) (launchNeeds far none) = true) ∧
    (∃ v, checkRange (stateL 1) who rec1.args rec1.argLen .read = (v, none) ∧ budgetOk v 1 (ctlGang rec1.ctl) (launchNeeds rec1 none) = true) ∧
    (recP.ok = true ∧ recP.stages ≠ 0 ∧ ∃ u g, readRange (stateL 1) who recP.stages 544 = (u, .ok g) ∧
      (graphOk g (ctlTriad recP.ctl) && fieldAt g 1 1 == 0 && budgetOk (stateL 1) 1 (ctlGang recP.ctl) (launchNeeds recP (some g))) = true) :=
  ⟨by decide, by decide +kernel, by decide +kernel, ⟨by decide +kernel, rfl, by decide, _, fine (by decide +kernel), by decide +kernel⟩,
    ⟨by decide +kernel, _, { cause := .translationFault, fcode := 1, addr := 2 ^ 40 }, fine (by decide +kernel), by decide +kernel⟩,
    ⟨_, fine (by decide +kernel), by decide +kernel⟩, by decide +kernel, by decide,
    some_sat (fun g => graphOk g (ctlTriad recP.ctl) && fieldAt g 1 1 == 0 && budgetOk (stateL 1) 1 (ctlGang recP.ctl) (launchNeeds recP (some g)))
      (by decide +kernel)⟩
/-- A stage graph at 2^40 where nothing is mapped, at 0x9000 where there is none, one over budget, and one with arguments at 2^40. -/
theorem witness_LaunchesAndPipelines_graphs :
    let who := keystoneOf 1 0
    let far : Flt := { cause := .translationFault, fcode := 1, addr := 2 ^ 40 }
    let sound := fun r : LaunchRec => r.stamp = Config.classStamp ∧ r.ok = true ∧ r.stages ≠ 0
    let good := fun (s : State) (r : LaunchRec) (p : State → List Byte → Bool) => ∃ u g, readRange s who r.stages 544 = (u, .ok g) ∧
      (graphOk g (ctlTriad r.ctl) && fieldAt g 1 1 == 0 && p s g) = true
    let fits := fun (r : LaunchRec) (s : State) (g : List Byte) => budgetOk s 1 (ctlGang r.ctl) (launchNeeds r (some g))
    let P := { recP with args := 2 ^ 40, argLen := 8 }
    (((stateL 0).region 1).live = true ∧ ((stateL 1).region 1).live = true) ∧
    (sound { recP with stages := 2 ^ 40 } ∧ ∃ u, readRange (stateL 1) who (2 ^ 40) 544 = (u, .error far)) ∧
    (sound { recP with stages := 0x9000 } ∧ ∃ u g, readRange (stateL 1) who 0x9000 544 = (u, .ok g) ∧ (!graphOk g false) = true) ∧
    (sound recP ∧ good (stateL 0) recP (fun s g => !fits recP s g)) ∧ (sound P ∧ good (stateL 1) P (fits P)) ∧
    ∃ u, checkRange (stateL 1) who P.args P.argLen .read = (u, some far) :=
  ⟨by decide, ⟨by decide +kernel, _, fails (by decide +kernel)⟩,
    ⟨by decide +kernel, some_sat (fun g => !graphOk g false) (by decide +kernel)⟩,
    ⟨by decide +kernel, some_sat (fun g => graphOk g (ctlTriad recP.ctl) && fieldAt g 1 1 == 0 &&
      !budgetOk (stateL 0) 1 (ctlGang recP.ctl) (launchNeeds recP (some g))) (by decide +kernel)⟩,
    ⟨by decide +kernel, some_sat (fun g => graphOk g (ctlTriad recP.ctl) && fieldAt g 1 1 == 0 &&
      budgetOk (stateL 1) 1 (ctlGang recP.ctl) (launchNeeds recP (some g))) (by decide +kernel)⟩, _, fine (by decide +kernel)⟩


/-- A block that waits in DEQ on the empty queue of `stateG`, twice: two idle blocks of stage 0. -/
def stateI (minB : Nat) : State :=
  let B := { block1 { mem1 [] with wait := some (.deq 0 0 0), cap := some cap1 } with blk := 0 }
  let s := stateG []
  { s with
    blocks := [(1, B), (2, { B with blk := 1 })]
    grids := [(1, { s.grid 1 with stages := [{ stage1 with minB := minB, idle := [(1, 1), (2, 1)] }] })] }
/-- Records at 0x8000, at 2^40 where nothing is mapped, at 8, outside every window and in the sync window. -/
theorem witness_LaunchesAndPipelines_dlaunch :
    let A := [(true, opA tx), noRead, noRead, noRead]
    let L := fun v => mapped 0 (block1 (mem1 v))
    let at' := fun v => launchPlace (L v) 1 (addressOfPair tx (memIn (L v) issue1 0 tx A))
    let ready := fun v => Single true tx (readRegs A) (L v) issue1 0
    (ready [(0, 0x8000)] ∧ at' [(0, 0x8000)] = .ok (.page 0x8000) ∧
      ∃ u raw, captureRecord (started (L [(0, 0x8000)])) 1 ((L [(0, 0x8000)]).member 1 0) (.page 0x8000) = (u, some raw)) ∧
    (ready [(1, 2 ^ 8)] ∧ at' [(1, 2 ^ 8)] = .ok (.page (2 ^ 40)) ∧
      ∃ u, captureRecord (started (L [(1, 2 ^ 8)])) 1 ((L [(1, 2 ^ 8)]).member 1 0) (.page (2 ^ 40)) = (u, none)) ∧
    (ready [(0, 8)] ∧ at' [(0, 8)] = .error (fltOf .misalignedAddr 8)) ∧
    (windowOf (2 ^ 57) = .outside ∧ windowOf 0x01F0_0000_0000_0000 = .sync 0 0 ∧ windowOf 0x8000 = .translated) ∧
    (∃ u raw, readRange sM (threadOf (sM.block 1)) 0x8000 128 = (u, .ok raw)) ∧
    ∃ u f, readRange sM (threadOf (sM.block 1)) (2 ^ 40) 128 = (u, .error f) :=
  ⟨⟨single (by decide), val (by decide +kernel), _, List.replicate 128 0, fine (by decide +kernel)⟩,
    ⟨single (by decide), val (by decide +kernel), _, fine (by decide +kernel)⟩, ⟨single (by decide), err (by decide +kernel)⟩,
    by decide +kernel, some_ok (by decide +kernel), _, { cause := .translationFault, fcode := 1, addr := 2 ^ 40 }, fails (by decide +kernel)⟩

theorem witness_LaunchesAndPipelines_queues :
    let x := ti tx 0
    let place := fun s e => queuePlace x (memIn s issue1 0 x (queueReads x)) s e
    (Single true x (readRegs (queueReads x)) (stateG [0]) issue1 0 ∧ place (stateG [0]) true = .ok (queue1 [0], 0) ∧ (queue1 [0]).room = true ∧
      ∃ u, writeRange (started (stateG [0])) (keystoneOf 1 0) 0x4010 (spadRead (stateG [0]) 1 0 16) = (u, none)) ∧
    (Single true x (readRegs (queueReads x)) (stateG [0, 1]) issue1 0 ∧ place (stateG [0, 1]) true = .ok (queue1 [0, 1], 0) ∧
      (queue1 [0, 1]).room = false) ∧
    (place (stateG [0]) false = .ok (queue1 [0], 0) ∧ (queue1 [0]).published.contains (queue1 [0]).claim = true ∧
      ∃ u bytes, readRange (started (stateG [0])) (keystoneOf 1 0) 0x4000 16 = (u, .ok bytes)) ∧
    (Single true x (readRegs (queueReads x)) (stateG []) issue1 0 ∧ ((stateG []).member 1 0).wait = none ∧
      place (stateG []) false = .ok (queue1 [], 0) ∧ (queue1 []).published.contains (queue1 []).claim = false) ∧
    (((stateG []).grid 1).queues[7]? = none ∧ ((stateG []).grid 1).queues[0]? = some (queue1 []) ∧ stageOf (stateG []) 1 = 0 ∧
      0 + (queue1 []).esize ≤ spadSizeOf (stateG []) 1 ∧ { queue1 [] with prod := 1 }.prod ≠ stageOf (stateG []) 1) :=
  ⟨⟨single (by decide), val (by decide +kernel), by decide, _, fine (by decide +kernel)⟩,
    ⟨single (by decide), val (by decide +kernel), by decide⟩, ⟨val (by decide +kernel), by decide, some_ok (by decide +kernel)⟩,
    ⟨single (by decide), by decide, val (by decide +kernel), by decide⟩, by decide +kernel⟩

/-- A pipeline to review and to quiesce, a stage above its least number of blocks and one at it, and a grid whose blocks have ended. -/
theorem witness_LaunchesAndPipelines_stages :
    (let G := (stateI 1).grid 1
     G.stages ≠ [] ∧ G.complete = false ∧ G.status = none ∧ G.reviewed + 10000 ≤ (stateI 1).reft.toNat ∧ (∀ Q ∈ G.queues, Q.published = []) ∧
       (∀ S ∈ G.stages, S.inq = 0xFF → S.want = 0) ∧ ∀ b ∈ gridBlocks (stateI 1) 1, (waitsEmpty (stateI 1) b).isSome = true) ∧
    (∃ S ∈ ((stateI 1).grid 1).stages[0]?, ((stateI 1).grid 1).queues[S.inq]? = some (queue1 []) ∧
      S.minB < (stageBlocks (stateI 1) 1 0).length ∧ ∃ b ∈ stageBlocks (stateI 1) 1 0, ∃ ms ∈ waitsEmpty (stateI 1) b, ∀ m ∈ ms, m ∈ S.idle) ∧
    (∃ S ∈ ((stateI 2).grid 1).stages[0]?, (stageBlocks (stateI 2) 1 0).length ≤ S.minB) ∧
    (let s := { s0 with blocks := [] }
     (s.grid 1).complete = false ∧ gridDrained s 1 = true ∧ gridBusy s 1 = false ∧ (s.grid 1).ckind < 4 ∧ (s.grid 1).queue = [] ∧
       (s.grid 1).argArea = none) := by decide +kernel

/-- Core 0 with block `B`'s member in an entry of quarter 0, of the given age and idleness, and its code line (NOPs); dies 1 to 3 are off. -/
def stateE (B : Block) (ages : List Nat) (idle : Nat) : State :=
  let line : CodeLine := { region := 1, code := 0, va := 0x1000, bytes := leBytes 64 (0x07E0 + 0x07E0 * 2 ^ 32) }
  let es := ages.zipIdx.map (fun a => { blk := 1, pc := 0x1000, mems := if a.2 = 0 then [0] else [], age := a.1, idle := idle : Entry })
  { state1 B with
    cur := none, cores := [(0, { CoreSt.reset with icache := [line], tables := [(0, es)] })], reft := 4000
    dies := (List.range 4).map (fun d => (d, { DieSt.reset with power := if d == 0 then 0 else 4 })) }

/-- The state after `n` cycles of die 0, with threads that no count holds. -/
def cycled (s : State) (n : Nat) : State :=
  let t := tickDie s 0 n
  { t with cores := t.cores.map (fun kv => (kv.1, if coreDie kv.1 == 0 then tickCore t kv.1 n else kv.2)) }
theorem tick_off {s : State} {d n : Nat} (h : (s.die d).clocked = false) : tickAll s d n = s := by simp [tickAll, h]
theorem tick_on {s : State} {n : Nat} (h : (s.die 0).clocked = true)
    (still : ∀ kv ∈ s.blocks, ∀ m ∈ kv.2.members, m.2.space = 0 ∧ m.2.spin = 0) : tickAll s 0 n = s ∨ tickAll s 0 n = cycled s n := by
  have hb : (tickDie s 0 n).blocks = s.blocks := by simp [tickDie, h, State.setDie]
  have hk : (tickDie s 0 n).blocks.map (fun kv => (kv.1, if coreDie kv.2.core == 0 then kv.2.ticked n else kv.2)) = (tickDie s 0 n).blocks := by
    rw [hb]
    conv => rhs; rw [← List.map_id s.blocks]
    refine List.map_congr_left fun kv hkv => Prod.ext rfl ?_
    have hm : kv.2.members.map (fun m => (m.1, { m.2 with space := m.2.space - n, spin := m.2.spin - n })) = kv.2.members := by
      conv => rhs; rw [← List.map_id kv.2.members]
      refine List.map_congr_left fun m hm => ?_
      obtain ⟨h1, h2⟩ := still kv hkv m hm
      rcases m with ⟨i, m⟩
      cases m
      simp_all
    simp [Block.ticked, hm]
  by_cases hn : n = 0
  · exact .inl (by simp [tickAll, hn])
  · right
    unfold tickAll
    rw [if_neg (by simp [h, hn])]
    dsimp only
    rw [hk]
    rfl
/-- What `elapse` does after the dies' cycles. -/
def later (v : W64) (s : State) : State :=
  let s : State := { s with reft := s.reft + BitVec.ofNat 64 (v.toNat / 2 ^ 32) }
  let s : State := { s with beats := beatsOf s }
  { s with agenda := s.agenda ++ dueTasks s }
/-- How many cycles of die `d` pass. -/
def gone (s : State) (d : Nat) : Nat := s.free.1.toNat / 2 ^ (8 * d) % 2 ^ 8 + (if d == 0 then 0 else 0)
theorem elapse_later (s : State) : elapse s 0 0 =
    later s.free.1 (tickAll (tickAll (tickAll (tickAll s.free.2 0 (gone s 0)) 1 (gone s 1)) 2 (gone s 2)) 3 (gone s 3)) := by
  unfold elapse later gone
  rw [show List.range 4 = [0, 1, 2, 3] from by decide]
  rfl
/-- A property of the state in which the cycle of quarter 0 of core 0 begins, whatever time has passed. -/
theorem at_issue {B : Block} {ages : List Nat} {idle : Nat} (P : State → Prop)
    (still : ∀ m ∈ B.members, m.2.space = 0 ∧ m.2.spin = 0)
    (h : let s := stateE B ages idle
      P (later s.free.1 s.free.2) ∧ P (later s.free.1 (cycled s.free.2 (gone s 0)))) : P (elapse (stateE B ages idle) 0 0) := by
  rw [elapse_later]
  have still' : ∀ kv ∈ (stateE B ages idle).free.2.blocks, ∀ m ∈ kv.2.members, m.2.space = 0 ∧ m.2.spin = 0 := by
    intro kv hk
    cases List.mem_singleton.mp hk
    exact still
  rcases tick_on (n := gone (stateE B ages idle) 0) (by rfl) still' with r | r <;> rw [r, tick_off (by rfl), tick_off (by rfl), tick_off (by rfl)]
  · exact h.1
  · exact h.2

/-- The cycle of quarter 0 of core 0 at `v`: its state when it selects, and whether it selects an entry of thread 0 whose first held cause
is as `held` says. -/
def selecting (v : State) : State :=
  let w := takePending 0 0 (v.setCore 0 { v.core 0 with issued := SMap.put (v.core 0).issued 0 (v.die (coreDie 0)).cyc })
  { (SMap.get [] (w.core 0).tables 0).foldl (fun s e => (fetchLine (releaseHeld s e.blk) (s.block e.blk) e.pc).1) w with reqs := [] }
def selects (held : Option Nat) (time : State) : Bool :=
  let v := retryFrames time
  let u := selecting v
  (v.die (coreDie 0)).clocked && (v.core 0).power == 0 && ((SMap.get [] (u.core 0).tables 0)[0]?).any (fun e =>
    readyOf u e == [0] && (readyOf u e).find? (fun i => (u.member e.blk i).pendCause ≠ []) == held)
/-- A running course whose log holds one entry, where there is no room for more. -/
def course1 : CourseSlot :=
  let e : LogEntry := { count := 1, sib := 0, member := 0, part := 0, dest := 135, value := 0, late := false }
  { slot := 0, before := none, current := { number := 0, start := [], snap := [], log := [e], retired := [], history := [], plumbs := [], written := [] } }
def noRoom (time : State) : Bool :=
  let u := selecting (retryFrames time)
  u.blocks.any (fun kv => kv.2.course.any (fun k => kv.2.state == .running && k.current.log != [] &&
    decide (logRoom (u.debug kv.2.region) k.current < k.current.log.length + 12)))
/-- An entry is selected whose thread holds no cause, one whose thread holds a cause, and one whose block's log has no room. -/
theorem witness_Scheduling_issue :
    let B := block1 (mem1 [])
    selects none (elapse (stateE B [65, 0] 0) 0 0) = true ∧
      selects (some 0) (elapse (stateE (block1 { mem1 [] with pendCause := [saveTrap] }) [65, 0] 0) 0 0) = true ∧
      (let v := elapse (stateE { B with course := some course1 } [65, 0] 0) 0 0
       selects none v = true ∧ noRoom v = true) :=
  ⟨at_issue (fun v => selects none v = true) (by decide) (by decide +kernel),
    at_issue (fun v => selects (some 0) v = true) (by decide) (by decide +kernel),
    at_issue (fun v => selects none v = true ∧ noRoom v = true) (by decide) (by decide +kernel)⟩
theorem witness_Scheduling_tables :
    let s := stateE (block1 (mem1 [])) [65, 0] 0
    let apart := fun ms : List Nat => { blk := 1, pc := 0x1000, mems := ms, age := 0, idle := 0 : Entry }
    let takes := fun (s : State) (e : Entry) => e.blk = 1 ∧ e.pc = (s.member 1 0).pc ∧
      ∀ j ∈ e.mems, (s.member 1 j).laneMask &&& (s.member 1 0).laneMask = 0
    ((s.die 0).clocked = true ∧ (1 : Nat) ≠ 0 ∧ (s.core 0).issued.lookup 0 = none) ∧
    (takes s (apart []) ∧ ¬ takes s (apart [0])) ∧
    (SMap.get [] ((stateE (block1 (mem1 [])) [] 0).core 0).tables 0 = [] ∧
      SMap.get [] ((stateE (block1 (mem1 [])) [] 0).core 0).pending 0 = []) ∧
    (let w : State := { s with cores := [(0, { s.core 0 with tables := [], pending := [(0, [(1, 0)])] })] }
     SMap.get [] (w.core 0).pending 0 ≠ []) ∧
    (∃ kv ∈ (block1 (mem1 [])).members, tabled (block1 (mem1 [])) kv.2 = true ∧ kv.2.slot < 12) := by decide +kernel
/-- The other tasks of this statement, each where it acts and where it does not. -/
theorem witness_Scheduling_tasks :
    let s := stateE (block1 (mem1 [])) [65, 0] 0
    (¬ (256 : Nat) < 256) ∧ (SMap.get [] ((stateE (block1 (mem1 [])) [] 0).core 0).tables 0 = []) ∧
    ((SMap.get [] ((stateE (block1 (mem1 [])) [0] 512).core 0).tables 0)[0]? =
      some { blk := 1, pc := 0x1000, mems := [0], age := 0, idle := 512 }) ∧
    ((SMap.get [] ((stateE (block1 (mem1 [])) [0] 511).core 0).tables 0)[1]? = none) ∧
    (let r := { Regs.zero with infl := [(127, 5), (128, 1)] }
     let m := { mem1 [] with sibs := [r] }
     0 < m.sibs.length ∧ r.infl.lookup 127 = some 5 ∧ r.infl.lookup 128 = some 1 ∧ ∀ q ∈ (mem1 []).sibs, q.infl.lookup 127 = none) ∧
    (let r := { Regs.zero with infl := [(3, 7), (130, 1)], grp := [[3, 130]] }
     let g := (r.grp.find? (fun g => g.contains 130)).getD [130]
     3 ∈ g ∧ r.infl.lookup 3 = some 7 ∧ 130 ∈ g ∧ r.infl.lookup 130 = some 1 ∧ 4 ∉ g) ∧
    ({ DieSt.reset with relock := some 3200 }.relock = some 3200 ∧ 3200 + 800 ≤ s.reft.toNat ∧ s.reft.toNat < 3201 + 800) ∧
    (let p := { s0 with
       grids := [], packagePower := 5, dies := (List.range 4).map (fun d => (d, { DieSt.reset with power := 4 }))
       host := { s0.host with idleTol := 5000000 } }
     let q := { p with host := { p.host with idleTol := 4999999 } }
     (5000000 ≤ activeTol p ∧ (∀ d, d < 4 → (p.die d).power = 4) ∧ workWaits p = false ∧ ¬ activeTol p < exitLatency p.packagePower) ∧
       activeTol q < exitLatency q.packagePower) := by decide +kernel


/-- Region 1 with 4 cores, slots and quotas, in `sM`; its grid 1 owes one block of one thread with arguments at `args`. -/
def stateB (args n : Nat) : State :=
  { sM with
    cur := none, blocks := []
    grids := [(1, { Grid.none with region := 1, complete := false, nblocks := 1, args := args, argLen := n })]
    regions := [(1, { Region.none with live := true, ovr := 2 ^ 10 - 1, slots := 4, cores := 4, dquota := 2 ^ 20, arenaBase := 2 ^ 20
                                       arenaSize := 6528 })] }
def place0 : Place := { lane := 191, slot := 11 }
theorem witness_BlockPlaces_create :
    let fits := fun (s : State) => (s.grid 1).owes 0 = true ∧ coreTakes s 255 = true ∧ placeOk s 255 0 ((s.grid 1).need 0) [place0] = true ∧
      limitsOk s 1 255 ((s.grid 1).need 0).slots = true ∧ waiting s 255 (prioOf s 1 + 1) = false ∧ hasTurn s 255 1 = true
    let gang := fun (s : State) (n : Nat) => { s with grids := [(1, { s.grid 1 with gang := true, nblocks := n })] }
    let plan : List Planned := [{ saved := none, stage := 0, core := 255, spad := 0, places := [place0] }]
    let got := fun (s : State) => readRange (takeTurn { s with reqs := [] } 255 1) (keystoneOf (((s.grid 1).argArea.map Prod.fst).getD (s.grid 1).region) (coreDie 255)) (s.grid 1).args (min (s.grid 1).argLen 256)
    (s0.grid 1).owes 0 = false ∧ (fits (stateB (2 ^ 40) 8) ∧ ∃ u f, got (stateB (2 ^ 40) 8) = (u, .error f)) ∧
    (fits (stateB 0 0) ∧ (∃ u args, got (stateB 0 0) = (u, .ok args)) ∧ ((stateB 0 0).grid 1).gang = false ∧
      ((stateB 0 0).region 1).descr = none) ∧ [place0][0]? = some place0 ∧
    ((fits (gang (stateB 0 0) 1) ∧ fits (gang (stateB 0 0) 2)) ∧ planFull (gang (stateB 0 0) 1) 1 plan = true ∧
      planFull (gang (stateB 0 0) 2) 1 plan = false ∧
      (plan.filter (fun q => q.saved.isNone && q.stage == 0)).length ≤ ((gang (stateB 0 0) 2).grid 1).owed 0) :=
  ⟨by decide, ⟨by decide +kernel, _, { cause := .translationFault, fcode := 1, addr := 2 ^ 40 }, fails (by decide +kernel)⟩,
    ⟨by decide +kernel, some_ok (by decide +kernel), by decide⟩, by decide, by decide +kernel⟩

theorem witness_Scheduling_work : workWaits (stateB 0 0) = true ∧ workWaits s0 = false := by decide +kernel

/-- Block 1 waits at a blocking point, without a partition, while grid 2 owes a block that needs all 64 tags of the region's one core; the
slice is over, the eviction called for. -/
def stateV : State :=
  let m := { mem1 [] with wait := some (.ldf 0), cap := some cap1 }
  let s := stateB 0 0
  { s with
    blocks := [(1, { block1 m with spadSize := 0, lsSize := 0, sliceEnded := true, called := some 0 })], nextBlock := 2
    grids := [(1, { Grid.none with region := 1, complete := false, nblocks := 1, nextBlk := 1 }),
              (2, { Grid.none with region := 1, complete := false, nblocks := 1, tags := 64 })]
    regions := [(1, { s.region 1 with cores := 1 })] }
theorem areaPlace_only {R : Region} {v : Nat} (h : R.areas = []) : areaPlace R v R.arenaSize = some R.arenaBase := by
  simp only [areaPlace, h, List.map_nil, areaFree, List.all_nil, Bool.and_true, List.find?]
  split
  · next h => simp only [Bool.and_eq_true, decide_eq_true_eq] at h; congr 1; omega
  · simp
theorem witness_BlockPlaces_evict :
    ((stateV.block 1).resident = true ∧ (stateV.block 1).handler = none) ∧ (stateB 0 0).block 1 = Block.none ∧ Block.none.resident = false ∧
    (calledFor stateV 1 = true ∧ (∀ k ∈ withGang stateV 1, evictable stateV k = true) ∧ 1 ∈ withGang stateV 1) ∧ calledFor s0 1 = false ∧
    ((∃ t, (stateV.block 1).called = some t ∧ t + 1000 * (stateV.eff 4 (stateV.block 1).region).grace ≤ stateV.reft.toNat) ∧
      ∀ k ∈ withGang stateV 1, stoppable (stateV.block k) = true ∧ savable stateV k = true) ∧
    (let s := { stateV with dies := [(0, { stateV.die 0 with copyq := [copyop 0x1000 0x2000 1] })] }
     calledFor s 1 = true ∧ (∀ k ∈ withGang s 1, stoppable (s.block k) = true) ∧ ∃ k ∈ withGang s 1, savable s k = false) :=
  ⟨by decide, by decide, by decide, by decide +kernel, by decide, ⟨⟨0, by decide⟩, by decide +kernel⟩, by decide +kernel⟩
/-- A block that runs on does not end its slice plainly: it is saved by force, or waits where an operation of it is in flight. -/
def stateForced : State :=
  let s := stateV
  { s with blocks := [(1, { s.block 1 with members := [(0, { mem1 [] with hold := true })] })] }
theorem witness_BlockPlaces_grace :
    (∀ k ∈ withGang stateV 1, evictable stateV k = true) ∧
    (((∃ t, (stateForced.block 1).called = some t ∧ t + 1000 * (stateForced.eff 4 (stateForced.block 1).region).grace ≤ stateForced.reft.toNat) ∧
        calledFor stateForced 1 = true ∧ (∀ k ∈ withGang stateForced 1, stoppable (stateForced.block k) = true) ∧ 1 ∈ withGang stateForced 1) ∧
      ¬ (∀ k ∈ withGang stateForced 1, evictable stateForced k = true) ∧ ∀ k ∈ withGang stateForced 1, savable { stateForced with reqs := [] } k = true) ∧
    (let s := { stateForced with dies := [(0, { stateForced.die 0 with copyq := [copyop 0x1000 0x2000 1] })] }
     calledFor s 1 = true ∧ (∀ k ∈ withGang s 1, stoppable (s.block k) = true) ∧ ¬ (∀ k ∈ withGang s 1, evictable s k = true) ∧
       ∃ k ∈ withGang s 1, savable { s with reqs := [] } k = false) :=
  ⟨by decide +kernel, ⟨⟨⟨0, by decide⟩, by decide +kernel⟩, by decide +kernel⟩, by decide +kernel⟩
/-- The turns of a region whose block has used no more than it paid, and of a region with a rival. -/
theorem witness_BlockPlaces_turns :
    (∀ kv ∈ s0.blocks, kv.2.region = 1 → kv.2.resident = true → kv.2.handler = none → s0.reft.toNat ≤ kv.2.placed + kv.2.paid) ∧
    (s0.block 1).resident = true ∧ (s0.block 1).handler = none ∧ creditOf s0 1 = 0 ∧ rivals s0 0 1 = [1] := by decide +kernel
def allocated (s : State) (r n o : Nat) : State :=
  let t := (State.free s).2
  t.setRegion o { t.region o with areas := (t.region o).areas ++ [((s.region o).arenaBase, n, r)] }
theorem alloc_only {s : State} {r n o : Nat} (h : arenaOf s r = some o)
    (q : ((s.ancestors r).all (fun a => decide (areaBytes s a + (s.region o).arenaSize ≤ (s.eff 8 a).dquota))) = true)
    (e : (s.region o).areas = []) (k : ceilDiv n 64 * 64 = (s.region o).arenaSize) (z : (s.region o).arenaSize ≠ 0) :
    allocArea s r n = (allocated s r (s.region o).arenaSize o, some (o, (s.region o).arenaBase)) := by
  have f : ((State.free s).2.region o).areas = [] := e
  have q' : (((State.free s).2.ancestors r).all (fun a =>
    decide (areaBytes (State.free s).2 a + (s.region o).arenaSize ≤ ((State.free s).2.eff 8 a).dquota))) = true := q
  simp only [allocArea, h, k, q', Bool.not_true, Bool.false_eq_true, if_false]
  rw [show areaPlace ((State.free s).2.region o) (State.free s).1.toNat (s.region o).arenaSize = some (s.region o).arenaBase from
    areaPlace_only f]
  simp only [beq_iff_eq, z, if_false]
  rfl
def stoppedFor (s : State) (b : Nat) : State := stopBlock (chargeCore s b) b
def savedBytes (s : State) (b : Nat) : List Byte := saveBytes (stoppedFor s b) b ++ areaTag (stoppedFor s b) (saveBytes (stoppedFor s b) b)
theorem save_of {s t : State} {b o base : Nat} {f : Bool} (h : allocArea (stoppedFor s b) ((stoppedFor s b).block b).region
      ((savedBytes s b).length + arrivalRoom (stoppedFor s b) b) = (t, some (o, base)))
    (w : (writeRange t (keystoneOf o (coreDie ((stoppedFor s b).block b).core)) base (savedBytes s b)).2 = none) :
    ∃ t, saveOne s b f = some t := by
  obtain ⟨v, hv⟩ : ∃ v, writeRange t (keystoneOf o (coreDie ((stoppedFor s b).block b).core)) base (savedBytes s b) = (v, none) := ⟨_, fine w⟩
  unfold saveOne
  simp only [savedBytes, stoppedFor] at h hv
  simp only [h, hv]
  exact ⟨_, rfl⟩
theorem witness_BlockPlaces_save : ∃ t, saveOne stateV 1 true = some t :=
  save_of (alloc_only (o := 1) (by decide +kernel) (by decide +kernel) (by decide +kernel) (by decide +kernel)
    (by decide +kernel)) (by decide +kernel)

/-- Block 1 saved at 2^20, whose last byte of 4104 holds `v`; it has no partition and waits for nothing. -/
def stateD (area v : Nat) : State :=
  let s := stateB 0 0
  let B := { block1 (mem1 []) with spadSize := 0, lsSize := 0, state := .saved 1 area true }
  { s with
    mem := Memory.write [] (2 ^ 20 + 4103) [BitVec.ofNat 8 v], blocks := [(1, B), (2, { B with blk := 1 })]
    grids := [(1, { Grid.none with region := 1, complete := false, nblocks := 2, nextBlk := 2 })] }
theorem witness_BlockPlaces_restore :
    let s := stateD (2 ^ 20) 0
    let ps : List Place := [{ lane := 0, slot := 0 }]
    let got := fun s => readRange { s with choice := s.choice + 1 } (keystoneOf 1 0)
    (s.block 1).state = .saved 1 (2 ^ 20) true ∧
    (mayRestore s 1 0 0 ps = true ∧ coreDie 0 = coreDie (s.block 1).core ∧ (s.grid (s.block 1).grid).gang = false ∧
      (mayRestore s 1 255 0 ps = true ∧ 255 ≠ (s.block 1).core ∧
        2 ≤ (s.blocks.filter (fun kv => kv.2.core == 0 && kv.2.region == 1 && runnable s kv.1)).length) ∧ mayRestore s 1 256 0 ps = false) ∧
    (∃ u f, got (stateD (2 ^ 40) 0) (2 ^ 40) 4104 = (u, .error f)) ∧ (∃ u all, got s (2 ^ 20) 4104 = (u, .ok all)) ∧
    saveLen (s.block 1) + imageLen (s.block 1) = 4096 ∧ (s.block 1).arrLen = 0 :=
  ⟨by decide, by decide +kernel, ⟨_, { cause := .translationFault, fcode := 1, addr := 2 ^ 40 }, fails (by decide +kernel)⟩,
    some_ok (by decide +kernel), by decide +kernel⟩

theorem witness_BlockPlaces_forwarding :
    let f : Forward := { blk := 1, core := 255, since := 0 }
    let s := fun t => { stateB 0 0 with reft := t, cores := [(0, { CoreSt.reset with fwd := [f] })] }
    (((s 100000).core 0).fwd[0]? = some f ∧ f.since + 100000 ≤ (s 100000).reft.toNat ∧ (s 100000).recvs = []) ∧
    ¬ f.since + 100000 ≤ (s 99999).reft.toNat ∧ ((s 0).core 0).fwd[1]? = none := by decide


/-- `mapped` with the module number 2, page tables at 1 GiB for who has no TLB, and open to requests of region 1 from module 3; v0 and v1 hold an address, v2 a module. -/
def stateR (v : SMap W32) : State :=
  let s := mapped 0 (block1 (mem1 v))
  { s with host := { HostRegs.reset with devid := 2, devidSet := true }, dies := (List.range 4).map (fun d => (d, s.die 0))
           mem := Memory.write (Memory.write (Memory.write [] 0x4000_0000 (leBytes 8 0x4000_1001)) 0x4000_1000 (leBytes 8 0x4000_2001))
             0x4000_2000 (leBytes 8 0x426F)
           regions := [(1, { s.region 1 with root := 0x4000_0000 })]
           atab := s.atab ++ [(5, BitVec.ofNat 128 (1 + 3 * 2 ^ 16 + 3 * 2 ^ 28 + 0xF * 2 ^ 32 + 0xFFFF_FFFF * 2 ^ 96))] }
/-- An RLD, RST or RATOM that waits for its reply. -/
def capR (res : Option (List W64)) (f : Option (Nat × Nat)) : Captured :=
  { cap1 with result := res, faultReply := f, requests := [9], nextPc := nextPc 0x1000 ts.len }
def out1 (dst : Nat) : Outstanding :=
  { id := 9, wireSeq := 0, dst := dst, blk := 1, mem := 0, lane := 0, op := 0, pc := 0x1000, icount := 0, words := [], addr := 0
    answered := false, result := [], fault := none, sampled := false, sc := false, sent := 0 }
def stateA (res : Option (List W64)) (f : Option (Nat × Nat)) : State :=
  let s := stateR []
  { s with blocks := [(1, block1 { mem1 [] with wait := some (.remote true [9]), cap := some (capR res f) })], outs := [out1 2] }
def remote1 (op : Nat) : Remote :=
  { id := 9, op := op, ty := .s32, region := 1, addr := 0x1000, data := [7], cmp := [0], triad := false, digest := 0, port := 0xFF }
/-- A packet delivered from a module on stream `tc`. -/
def delivered1 (s : State) (src tc : Nat) (p : Packet) : State := s.setRecv src tc { RecvStream.new with expected := 1, delivered := [(0, p)] }
theorem witness_RemoteAccesses_requests :
    let x := { ts with b := 2 }
    let dev := fun (s : State) => medianBy unsignedV ((memIn s issue1 0 x (remoteReads x 1)).src 1)
    let addr := fun (s : State) => remoteAddr x (memIn s issue1 0 x (remoteReads x 1))
    let ok := stateR [(2, 4094)]
    let full := ok.setSend 4094 0 { SendStream.new with next := 4096 }
    let ready := fun s => Single true x (readRegs (remoteReads x 1)) s issue1 0
    let done := stateA (some [5]) none
    let own := fun op r => (performRemote (stateR []) 2 (some 0) (remote1 op)).2.isOk = r
    (ready ok ∧ dev ok = 4094 ∧ addr ok % 4 = 0 ∧ streamRoom ok 4094 0 1 = true ∧ 4094 ≠ ok.dev) ∧
    (ready full ∧ dev full = 4094 ∧ addr full % 4 = 0 ∧ streamRoom full 4094 0 1 = false) ∧
    (4095 ≤ dev (stateR [(2, 4095)]) ∧ dev (stateR [(0, 1)]) < 4095 ∧ addr (stateR [(0, 1)]) % 4 ≠ 0) ∧
    (let m := done.member 1 0
     let c := capR (some [5]) none
     done.cur = some issue1 ∧ issue1.mems = [0] ∧ m.cap = some c ∧ c.result = some [5] ∧ c.nextPc = nextPc m.pc x.len ∧ c.icount = m.icount ∧
       m.live = true ∧ m.step = false ∧ (∀ k, k < 4 → niAction m k = 0) ∧ (done.block 1).dbg = false ∧ (done.block 1).course = none) ∧
    (let s := stateA none (some (0, 0x0A0B))
     (s.member 1 0).cap = some (capR none (some (0, 0x0A0B))) ∧ (capR none (some (0, 0x0A0B))).result = none) ∧
    (own 0 true ∧ own 1 true ∧ own 2 true ∧ (performRemote (stateR []) 2 (some 0) { remote1 1 with addr := 2 }).2.isOk = false ∧
      (stateR []).dev = 2) :=
  ⟨singleAnd (by decide +kernel), singleAnd (by decide +kernel), by decide +kernel⟩

/-- Requests of module 3 with room for the reply and without; replies of the own module. -/
theorem witness_RemoteAccesses_receives :
    let ask := fun r => delivered1 (stateR []) 3 0 (.request r)
    let full := (ask (remote1 0)).setSend 3 1 { SendStream.new with next := 4096 }
    let took := fun s r => ∃ t, takeDelivered s 3 0 = some (0, .request r, t) ∧ streamRoom s 3 1 1 = true
    let page := { va := 0x1000, key := 0x1000, size := 2 ^ 30, vault := false, cache := 1, rep := 0, atom := 0, place := 4 : Page }
    let at' := fun op k => ∃ u, remoteReach (stateR []) (remoteWho (stateR []) 3 none 1) (remote1 op) 0x1000 4 k = (u, .ok page)
    let bad := { remote1 0 with addr := 2 }
    let reply := delivered1 (stateA none none) 2 1 (.reply 9 [5] none)
    ((∀ op ∈ [0, 1, 2], took (ask (remote1 op)) (remote1 op)) ∧ took (ask bad) bad ∧ streamRoom full 3 1 1 = false) ∧
    (∀ op ∈ [0, 1, 2], (performRemote { stateR [] with reqs := [] } 3 none (remote1 op)).2.isOk = true) ∧
    (∃ u f, performRemote { stateR [] with reqs := [] } 3 none bad = (u, .error f)) ∧ (at' 0 .read ∧ at' 1 .write ∧ at' 2 .atomic) ∧
    ((∃ t, takeDelivered reply 2 1 = some (0, .reply 9 [5] none, t)) ∧ reply.dev = 2 ∧
      (∃ o, reply.outs.find? (fun o => o.id == 9 && !o.answered) = some o) ∧ reply.outs.find? (fun o => o.id == 8 && !o.answered) = none) ∧
    (let s := stateA none none
     (s.member 1 0).cap = some (capR none none) ∧ (capR none none).requests.contains 9 = true ∧ (s.block 1).state = .running) ∧
    ({ a := Acc.start s0, done := [], faults := [(0, fltOf .addrRange 0)], waits := [(1, .remote true [9])], stuck := false } : MemAcc).faults =
      [(0, fltOf .addrRange 0)] :=
  ⟨⟨fun op h => ⟨_, rfl, by revert op; decide +kernel⟩, ⟨_, rfl, by decide +kernel⟩, by decide +kernel⟩, by decide +kernel,
    ⟨_, fltOf .misalignedAddr 2, fails (by decide +kernel)⟩,
    ⟨⟨_, gives (by decide +kernel)⟩, ⟨_, gives (by decide +kernel)⟩, _, gives (by decide +kernel)⟩, ⟨⟨_, rfl⟩, rfl, ⟨_, rfl⟩, rfl⟩,
    by decide +kernel, rfl⟩

/-- The block of `stateA`, stopped in a frame of block 2 or saved at 2^20: where the reply goes. -/
def statePut (st : BlkState) : State :=
  let s := stateA none none
  { s with blocks := [(1, { s.block 1 with state := st }), (2, { Block.none with handler := some hd1 })] }
theorem witness_RemoteAccesses_stopped :
    let s := statePut (.handled 0 2)
    let z := statePut (.saved 1 (2 ^ 20) false)
    let c := capR none none
    let m := (statePut (.handled 0 2)).member 1 0
    let n := saveLen (z.block 1) + imageLen (z.block 1)
    let w := keystoneOf 1 (coreDie (z.block 1).core)
    let u := (readRange z w (2 ^ 20) (n + 8)).1
    (m.cap = some c ∧ m.live = true ∧ c.requests.contains (out1 2).id = true ∧ (s.block (out1 2).blk).state = .handled 0 2 ∧
      (z.member 1 0).cap = some c ∧ (z.block (out1 2).blk).state = .saved 1 (2 ^ 20) false) ∧
    ((replaySeqs (s.block 1)).idxOf? c.seq = some 0 ∧ (s.block 2).handler = some hd1 ∧ (replaySeqs (z.block 1)).idxOf? c.seq = some 0) ∧
    (readRange z w (2 ^ 20) (n + 8)).2.isOk = true ∧
    (readRange (replyToEntry u w m (2 ^ 20 + (2048 + 2048 * (z.block 1).nthread + 2368 * 0)) (some [5]) none) w (2 ^ 20) n).2.isOk = true ∧
    (m.nsib = 1 ∧ (writeRange s w (2 ^ 20 + 64 + 48 * (m.lane % 48) + 32) (leBytes 8 5 ++ leBytes 8 0)).2 = none ∧
      (readRange (writeRange s w (2 ^ 20 + 64 + 48 * (m.lane % 48) + 32) (leBytes 8 5 ++ leBytes 8 0)).1 w (2 ^ 20 + 48) 8).2.isOk = true) :=
  ⟨by decide +kernel, by decide +kernel, by decide +kernel, by decide +kernel, by decide +kernel⟩
/-- A store that failed: its member is live, has ended beside a live one, or every member has; a cause held in a frame and out of one. -/
theorem witness_RemoteAccesses_store :
    let o := { out1 2 with op := 1 }
    let dead := { mem1 [] with live := false }
    let two := { block1 (mem1 []) with members := [(0, dead), (1, mem1 [])] }
    (o.op = 1 ∧ o.sampled = false) ∧ ((s0.block 1).member o.mem).live = true ∧
    ((two.member o.mem).live = false ∧ (∃ kv ∈ two.members, kv.1 = 1 ∧ kv.2.live = true) ∧ ∀ kv ∈ two.members, kv.2.live = true → 1 ≤ kv.1) ∧
    ((∀ kv ∈ (block1 dead).members, kv.2.live = false) ∧ (s0.grid (block1 dead).grid).complete = false) ∧
    ((state1 (block1 dead)).member 1 0).live = false ∧ ((s0.member 1 0).live = true ∧ (s0.block 1).framed = false) ∧
    (((statePut (.handled 0 2)).member 1 0).live = true ∧ ((statePut (.handled 0 2)).block 1).framed = true) ∧
    ∃ c r, ((state1 (block1 { mem1 [] with pendCause := [saveTrap] })).member 1 0).pendCause = c :: r :=
  ⟨by decide, by decide, by decide, by decide, by decide, by decide, by decide, _, _, rfl⟩

def collop (bad timeout : Nat) : CollOp :=
  { blk := 1, mem := 0, tag := 7, region := 1, pbOff := 0, pbOk := true, pb := leBytes 48 (2 ^ 160 + timeout * 2 ^ 192), src := 0
    dst := mkRecord 0x01E0_0000_0000_0000 0 1 1 0 0 0 0 0 0, digest := 0, elems := [0], group := [0, 2, 3], bad := bad, started := 0, pc := 0 }
def peer (op : Nat) : CollPeer := { rank := 1, op := op, fmt := 0, n := 2, members := [2, 3], elems := [0] }
/-- A peer whose module has had no route for 10 ms; a reduction of two contributions. -/
theorem witness_Collectives :
    let x := { tx with d := 7 }
    let A := [(false, opA x), noRead, noRead, noRead]
    let s := fun n (o : CollOp) t => { sM with dies := [(0, { sM.die 0 with collq := List.replicate n o })], reft := t }
    (Single true x (readRegs A) (s 15 (collop 0 0) 0) issue1 0 ∧ x.d % 64 < ((s 15 (collop 0 0) 0).block 1).tagN ∧
      ((s 15 (collop 0 0) 0).die 0).collq.length < 16) ∧
    (Single true x (readRegs A) (s 16 (collop 0 0) 0) issue1 0 ∧ 16 ≤ ((s 16 (collop 0 0) 0).die 0).collq.length) ∧
    (s0.block 1).tagN ≤ ({ tx with d := 8 } : Ext).d % 64 ∧ ((s 1 (collop 0 0) 0).die 0).collq[1]? = none ∧
    (((s 1 (collop 1 0) 0).die 0).collq[0]? = some (collop 1 0) ∧ (collop 1 0).bad ≠ 0) ∧
    (((s 1 (collop 0 1) 1000).die 0).collq[0]? = some (collop 0 1) ∧ (collop 0 1).timeout ≠ 0 ∧
      (collop 0 1).started + 1000 * (collop 0 1).timeout ≤ (s 1 (collop 0 1) 1000).reft.toNat) ∧
    (¬ (collop 0 1).started + 1000 * (collop 0 1).timeout ≤ (s 1 (collop 0 1) 999).reft.toNat) ∧ collParts (collop 0 0) [] = none ∧
    ((∃ m ∈ (collop 0 0).neighbours, routeless (s 1 (collop 0 0) 10000000) m 0 = true) ∧
      ∀ m ∈ (collop 0 0).neighbours, routeless (s 1 (collop 0 0) 0) m 0 = false) ∧
    (∃ parts, collParts (collop 0 0) [peer 1] = some parts ∧ ∃ p ∈ [peer 1], collMismatch (collop 0 0) p = true) ∧
    (∃ parts, collParts (collop 0 0) [peer 0] = some parts ∧ ∀ p ∈ [peer 0], collMismatch (collop 0 0) p = false) ∧
    (((s0.block 1).state = .running ∧ (collop 0 0).pbOk = true) ∧ [([(5 : W32)], true), ([7], true)].length ≤ 2 ^ 12 ∧
      (fvLt (fval .f32 0) (fval .f32 0x3F80_0000) = true ∧ (fval .f32 0x7FC0_0000).isNan = true ∧ (0x8000_0000 : W32).toNat = signOf .f32 true)) :=
  ⟨singleAnd (by decide +kernel), singleAnd (by decide +kernel), by decide, by decide +kernel, by decide +kernel,
    by decide +kernel, by decide +kernel, by decide +kernel, by decide +kernel, ⟨[none, some (peer 1)], by decide +kernel⟩,
    ⟨[none, some (peer 0)], by decide +kernel⟩, by decide +kernel⟩

/-- A destination that can be written and one that cannot. -/
theorem witness_Collectives_writes :
    let o := { collop 0 0 with dst := mkRecord 0x1000 0 1 1 0 0 0 0 0 0 }
    let w := { collWho ((stateR []).block 1) 0 with region := 1 }
    (collWrite (stateR []) o w (leBytes 4 5)).2 = none ∧ (collWrite (stateR []) { o with dst := mkRecord (2 ^ 40) 0 1 1 0 0 0 0 0 0 } w (leBytes 4 5)).2 ≠ none := by decide +kernel

/-- Handle 0 of die 0 of module 2, of generation 0, in a given state; block 1's partition holds `spad`, and v0 to v3 hold `v`. -/
def h0 : W64 := mkHandle 2 0 0 0
def entry (st ex : Nat) : HandleEntry := { HandleEntry.free with state := st, region := 1, exec := ex }
def stateN (v : SMap W32) (spad : SMap Byte) (e : HandleEntry) : State :=
  let s := stateR v
  { s with blocks := [(1, { s.block 1 with spad := spad })], dies := [(0, { s.die 0 with handles := [(0, e)] }), (2, s.die 0)] }
def inv1 : Invocation := { handle := h0, region := 1, exec := 2, lrec := 0, resLen := 0, args := [], producer := 0, addressed := some h0 }
/-- A die's handle table without a free entry. -/
@[irreducible] def fullTable : SMap HandleEntry := (List.range' 0 16384).map (fun n => (n, entry 1 0))
def fullS (t : SMap HandleEntry) : State := 
  let s := stateN [(3, 0x0020_0000)] [] HandleEntry.free
  { s with dies := [(0, { s.die 0 with handles := t }), (2, s.die 2)] }
theorem lookup_table {α : Type} (v : α) (n k : Nat) (h : k < n) : ((List.range' 0 n).map (fun i => (i, v))).lookup k = some v := by
  suffices g : ∀ n a k, a ≤ k → k < a + n → ((List.range' a n).map (fun i => (i, v))).lookup k = some v from g n 0 k (by omega) (by omega)
  intro n
  induction n with
  | zero => intro a k h h'; omega
  | succ n ih =>
    intro a k h h'
    rw [List.range'_succ, List.map_cons, List.lookup_cons]
    by_cases e : k = a
    · simp [e]
    · have : (k == a) = false := by simpa using e
      rw [this]
      exact ih (a + 1) k (by omega) (by omega)
theorem freeIndex_none {D : DieSt} (z : D.hovfCnt = 0) (h : ∀ k, k < 16384 → (SMap.get HandleEntry.free D.handles k).state ≠ 0) (f n : Nat) :
    freeIndex D f n = none := by
  induction f generalizing n with
  | zero => rfl
  | succ f ih =>
    unfold freeIndex
    split
    · rfl
    · rename_i g
      rw [if_neg (by simpa using h n (by omega)), ih]
theorem fullTable_full (k : Nat) (h : k < 16384) : (SMap.get HandleEntry.free fullTable k).state ≠ 0 := by
  unfold SMap.get fullTable
  rw [lookup_table _ 16384 k h]
  decide
theorem full_none (t : SMap HandleEntry) (h : ∀ k, k < 16384 → (SMap.get HandleEntry.free t k).state ≠ 0) :
    (allocHandle (started (fullS t)) 0 1 0xFFF 2).2 = nullHandle ∧
    ∀ k, k < 65536 → k < 16384 + ((fullS t).die 0).hovfCnt → (SMap.get HandleEntry.free ((fullS t).die 0).handles k).state ≠ 0 := by
  have e : (started (fullS t)).die 0 = { (stateN [(3, 0x0020_0000)] [] HandleEntry.free).die 0 with handles := t } := rfl
  have g := freeIndex_none (D := (started (fullS t)).die 0) rfl (by rw [e]; exact h) 65536 0
  exact ⟨by unfold allocHandle; rw [g], fun k _ b => h k b⟩
theorem witness_CallsAndHandles_calls :
    let x := { tx with b := 2 }
    let r := callReads x true
    let c := fun (s : State) a => CallBlock.of (spadRead s 1 0 64) (spadSizeOf s 1) a
    let target := fun (s : State) => BitVec.ofNat 64 (medianBy unsignedV ((memIn s issue1 0 x r).src 1))
    let ok := stateN [(3, 0x0020_0000)] [] HandleEntry.free
    let null := stateN [(2, 0xFFFF_FFFF), (3, 0xFFFF_FFFF)] [] HandleEntry.free
    let bad := stateN [] [(10, 1)] HandleEntry.free
    let far := (stateN [] [(8, 5)] HandleEntry.free).setSend 5 3 { SendStream.new with next := 4096 }
    let full := fullS fullTable
    (let s := stateR [(0, 64)]
     Single true x (readRegs r) s issue1 0 ∧ ¬ (medianBy unsignedV ((memIn s issue1 0 x r).src 0) + 64 ≤ 64)) ∧
    (Single true x (readRegs r) ok issue1 0 ∧ medianBy unsignedV ((memIn ok issue1 0 x r).src 0) = 0 ∧ (c ok true).ok = true ∧
      target ok ≠ nullHandle ∧ streamRoom ok (handleDev (target ok)) 3 1 = true ∧ (allocHandle (started ok) 0 1 0xFFF 2).2 ≠ nullHandle) ∧
    ((c null true).ok = true ∧ target null = nullHandle) ∧ (c bad false).ok = false ∧
    ((c far false).ok = true ∧ streamRoom far (c far false).dev 3 (1 + ceilDiv (c far false).argLen 240) = false) ∧
    (allocHandle (started full) 0 1 0xFFF 2).2 = nullHandle ∧
    (0 : Nat) < 4 ∧ (SMap.get HandleEntry.free (ok.die 0).handles 0).state = 0 ∧ 0 < 16384 + (ok.die 0).hovfCnt ∧
    ∀ k, k < 65536 → k < 16384 + (full.die 0).hovfCnt → (SMap.get HandleEntry.free (full.die 0).handles k).state ≠ 0 := by
  refine ⟨singleAnd (by decide +kernel), singleAnd (by decide +kernel), by decide +kernel, by decide +kernel, by decide +kernel,
    (full_none fullTable fullTable_full).1, by decide, by decide +kernel, by decide +kernel, (full_none fullTable fullTable_full).2⟩

/-- Handle 0 in pair v0; `far1` is a handle of module 5. -/
def inPair (h : W64) : SMap W32 := [(0, h.setWidth 32), (1, (h >>> 32).setWidth 32)]
def far1 : W64 := mkHandle 5 0 0 0
theorem witness_CallsAndHandles_handles :
    let s := stateN (inPair h0) [] (entry 1 2)
    let run := stateN (inPair h0) [] (entry 2 2)
    let done := stateN (inPair h0) [] (entry 3 2)
    let null := stateN (inPair nullHandle) [] HandleEntry.free
    let stale := stateN (inPair h0) [] HandleEntry.free
    let away := stateN (inPair far1) [] HandleEntry.free
    let shut := away.setSend 5 3 { SendStream.new with next := 4096 }
    let arg := fun (s : State) => handleArg (memIn s issue1 0 tx (handleReads tx))
    let word := fun (s : State) h => if h = nullHandle then 4 + 11 * 2 ^ 24 else if s.handleUsable h 1 then (s.handle h).word else 0
    let ok := fun (s : State) => Single true tx (readRegs (handleReads tx)) s issue1 0
    (ok s ∧ s.homeOf (arg s) = true ∧ word s (arg s) % 16 = 1) ∧ (ok done ∧ done.homeOf (arg done) = true ∧ word done (arg done) % 16 = 3) ∧
    (ok null ∧ arg null = nullHandle ∧ word null (arg null) % 16 = 4) ∧
    (ok stale ∧ stale.homeOf (arg stale) = true ∧ stale.handleUsable (arg stale) (stale.block 1).region = false) ∧
    (s.handleUsable (arg s) (s.block 1).region = true ∧ (freeHandles (breakHandle (started s) (arg s) 8)).block 1 = s.block 1 ∧
      (freeHandles ((started s).setHandle (arg s) { s.handle (arg s) with released := true })).block 1 = s.block 1) ∧
    (ok away ∧ arg away ≠ nullHandle ∧ away.homeOf (arg away) = false ∧ handleDev (arg away) ≠ 0xFFF ∧
      streamRoom away (handleDev (arg away)) tcInvoke 1 = true) ∧
    ((away.member 1 0).wait = none ∧ (let back := { away with blocks := [(1, { away.block 1 with
        members := [(0, { away.member 1 0 with wait := some (.waith far1) })] })] }
      ok back ∧ arg back ≠ nullHandle ∧ back.homeOf (arg back) = false ∧ (back.member 1 0).wait ≠ none)) ∧
    (ok shut ∧ shut.homeOf (arg shut) = false ∧ streamRoom shut (handleDev (arg shut)) tcInvoke 1 = false) ∧
    ((State.handleValid s h0 = true ∧ (s.handle h0).state < 3 ∧ (s.handle h0).state = 1) ∧
      (State.handleValid run h0 = true ∧ (run.handle h0).state < 3 ∧ (run.handle h0).state = 2) ∧
      (State.homeOf s h0 = true ∧ State.homeOf s far1 = false ∧ s.handleUsable h0 7 = false ∧ s.handleUsable h0 1 = true)) :=
  ⟨singleAnd (by decide +kernel), singleAnd (by decide +kernel), singleAnd (by decide +kernel),
    singleAnd (by decide +kernel), by decide +kernel, singleAnd (by decide +kernel), ⟨by decide +kernel, singleAnd (by decide +kernel)⟩,
    singleAnd (by decide +kernel), by decide +kernel⟩

theorem witness_CallsAndHandles_invocations :
    let s := stateN [] [] (entry 1 2)
    let d := fun (s : State) src (p : Packet) => s.setRecv src 3 { RecvStream.new with expected := 1, delivered := [(0, p)] }
    let shut := s.setSend 5 1 { SendStream.new with next := 4096 }
    let called := { inv1 with addressed := some h0 }
    let grid := fun c (st : Option Nat) => { s with
      grids := [(1, { Grid.none with ckind := 4, caddr := h0, complete := c, status := st, region := 1 })] }
    let broken := stateN [] [] (entry 4 2)
    let early := stateN [] [] (entry 1 0xFFF)
    ((∀ n i t, takeDelivered s 2 tcInvoke ≠ some (n, .invoke i, t)) ∧
      (∀ n h a b c e f r t, takeDelivered s 2 tcInvoke ≠ some (n, .notice h a b c e f r, t)) ∧
      ∀ n i t, takeDelivered s 2 tcInvoke ≠ some (n, .callh i, t)) ∧
    ((∃ t, takeDelivered (d s 2 (.invoke inv1)) 2 tcInvoke = some (0, .invoke inv1, t)) ∧ streamRoom (d s 2 (.invoke inv1)) 2 tcReply 1 = true) ∧
    ((∃ t, takeDelivered (d shut 5 (.invoke inv1)) 5 tcInvoke = some (0, .invoke inv1, t)) ∧
      streamRoom (d shut 5 (.invoke inv1)) 5 tcReply 1 = false) ∧
    (∃ t, takeDelivered (d s 2 (.notice h0 3 0 2 0 0 1)) 2 tcInvoke = some (0, .notice h0 3 0 2 0 0 1, t)) ∧
    ((∃ t, takeDelivered (d s 2 (.callh called)) 2 tcInvoke = some (0, .callh called, t)) ∧ streamRoom (d s 2 (.callh called)) 2 tcReply 1 = true ∧
      streamRoom (d s 2 (.callh called)) ((d s 2 (.callh called)).handle h0).exec tcInvoke (1 + ceilDiv called.args.length 240) = true) ∧
    ((∃ t, takeDelivered (d shut 5 (.callh called)) 5 tcInvoke = some (0, .callh called, t)) ∧
      ¬ streamRoom (d shut 5 (.callh called)) 5 tcReply 1 = true) ∧
    ({ inv1 with addressed := none : Invocation }.addressed = none ∧ called.addressed = some h0) ∧
    (gridServing (grid false none) h0 = some 1 ∧ ((grid false none).grid 1).complete = false) ∧
    (gridServing (grid true (some 3)) h0 = some 1 ∧ ((grid true (some 3)).grid 1).complete = true ∧ ((grid true (some 3)).grid 1).status ≠ none) ∧
    (s.region { inv1 with region := 7 : Invocation }.region).live = false ∧ s.handleUsable h0 { inv1 with region := 7 : Invocation }.region = false ∧
    (broken.handleUsable h0 called.region = true ∧ (broken.handle h0).state = 4) ∧
    (early.handleUsable h0 called.region = true ∧ (early.handle h0).state ≠ 4 ∧ (early.handle h0).exec = 0xFFF ∧ early.dev ≠ 0xFFF) ∧
    (s.handleUsable h0 called.region = true ∧ (s.handle h0).state ≠ 4 ∧ (s.handle h0).exec ≠ 0xFFF) := by
  refine ⟨⟨fun _ _ _ h => ?_, fun _ _ _ _ _ _ _ _ _ h => ?_, fun _ _ _ h => ?_⟩, ⟨⟨_, rfl⟩, by decide +kernel⟩, ⟨⟨_, rfl⟩, by decide +kernel⟩,
    ⟨_, rfl⟩, ⟨⟨_, rfl⟩, by decide +kernel⟩, ⟨⟨_, rfl⟩, by decide +kernel⟩, by decide +kernel⟩ <;> cases h

/-- Module 5 has the route over port 3; module 2 is the own one. -/
def stateP : State :=
  let s := stateR []
  { s with host := { s.host with routes := [(5, 0xFFFF_FF03)] }, ports := [(3, { failed := false, fenced := false, trained := true, retries := 0, since := 0 })] }
def flit (kind seq : Nat) : Flit :=
  { seq := seq, ack := 0, dst := 2, src := 5, tc := 0, ackTc := 0, ackV := true, replay := false, kind := kind, plen := 0, packet := .none_, grid := 0 }
/-- The CRC, written so that every step is evaluated. -/
def crcGo : Nat → List Byte → Nat
  | c, [] => c
  | 0, b :: r => crcGo (crc16Byte 0 b) r
  | c + 1, b :: r => crcGo (crc16Byte (c + 1) b) r
theorem crcGo_eq (bs : List Byte) (c : Nat) : crcGo c bs = bs.foldl crc16Byte c := by
  induction bs generalizing c with
  | nil => cases c <;> rfl
  | cons b r ih => cases c <;> simp [crcGo, ih]
/-- The bytes of a flit with a payload of zeros. -/
def flitBytes (f : Flit) : List Byte :=
  let body := (leBytes 16 f.header).drop 2 ++ List.replicate 240 0
  leBytes 2 (crcGo 0xFFFF body) ++ body
def mineOk (s : State) (port : Nat) (bs : List Byte) : Bool :=
  let h := fieldAt bs 0 16
  portWorks s port && (bs.length == 256 && crcGo 0xFFFF (bs.drop 2) == fieldAt bs 0 2 && decide (hdrKind h ≤ 9) && bitsAt h 16 4 == 0 &&
    decide (hdrPlen h ≤ 240)) && hdrDst h == s.host.devid && hdrSrc h != 4095 && hdrSrc h != s.host.devid
theorem mine {s : State} {port : Nat} {bs : List Byte} (h : mineOk s port bs = true) : let h := fieldAt bs 0 16
    portWorks s port = true ∧ flitOk bs = true ∧ hdrDst h = s.host.devid ∧ hdrSrc h ≠ 4095 ∧ hdrSrc h ≠ s.host.devid := by
  unfold mineOk at h
  rw [crcGo_eq] at h
  simp only [Bool.and_eq_true, beq_iff_eq, bne_iff_ne, decide_eq_true_eq] at h
  obtain ⟨⟨⟨⟨a, ⟨⟨⟨⟨b, b1⟩, b2⟩, b3⟩, b4⟩⟩, c⟩, d⟩, e⟩ := h
  exact ⟨a, by simp [flitOk, crc16, b, b1, b2, b3, b4], c, d, e⟩
def held1 (n : Nat) : State := stateP.setRecv 5 0 { RecvStream.new with expected := n, held := [(n + 2, 3, 3)], ackDue := true }
/-- Module 5 has no route, and a request to it waits for its reply; `n` is the REFT. -/
def lone (n : Nat) : State :=
  { stateP with host := { stateP.host with routes := [] }, outs := [{ out1 5 with id := 9 }], reft := BitVec.ofNat 64 n }
abbrev Progress (s : State) : Prop :=
  (∃ kv ∈ s.sends, kv.2.port = 3 ∧ ∃ f ∈ kv.2.unacked, precedes f.seq kv.2.acked = false) ∧ (s.port 3).since + 20000 ≤ s.reft.toNat
abbrev Gap (s : State) : Prop :=
  (s.recvOf 5 0).held ≠ [] ∧ (s.recvOf 5 0).gapSince + 2000 ≤ s.reft.toNat ∧ ∀ h ∈ (s.recvOf 5 0).held, h.1 ≠ (s.recvOf 5 0).expected
abbrev Lost (s : State) : Prop :=
  5 ≠ s.host.devid ∧ pickPort s 5 = none ∧ max (SMap.get 0 s.lastRoute 5) (s.sendOf 5 0).started + 10000000 ≤ s.reft.toNat
abbrev Silent (s : State) : Prop := SMap.get 0 s.heard 5 + 10000000 ≤ s.reft.toNat ∧
  ∃ o ∈ s.outs, o.dst = 5 ∧ o.answered = false ∧ o.op ≠ 1 ∧ o.sent + 10000000 ≤ s.reft.toNat
theorem witness_Links :
    let f := fun kind => flitBytes (flit kind 0)
    let k := fun kind => hdrKind (fieldAt (f kind) 0 16)
    let owed := { stateP with dies := [(1, { DieSt.reset with replies := [{ src := 5, tc := 0, seq := 4, replySeq := 0, reply := flit 5 0 }] })] }
    let shut := stateP.setSend 5 0 { SendStream.new with next := 4096 }
    let late := fun (s : State) n => { s with reft := BitVec.ofNat 64 n }
    let mine := fun kind => let h := fieldAt (f kind) 0 16
      portWorks stateP 3 = true ∧ flitOk (f kind) = true ∧ hdrDst h = stateP.host.devid ∧ hdrSrc h ≠ 4095 ∧ hdrSrc h ≠ stateP.host.devid
    let sent := stateP.setSend 5 0 { SendStream.new with port := 3, unacked := [flit 3 0] }
    (mine 0 ∧ mine 1 ∧ mine 3) ∧
    ((k 0 = 0 ∧ k 1 = 1 ∧ 2 ≤ k 3 ∧ flitOk [] = false) ∧
    (streamRoom stateP 5 0 1 = true ∧ streamRoom shut 5 0 1 = false) ∧
    ((stateP.recvOf 5 0).expected = 0 ∧ 4096 < (4097 + 2 ^ 32 - 0) % 2 ^ 32 ∧ (4097 + 2 ^ 32 - 0) % 2 ^ 32 < 2 ^ 31) ∧
    (2 ^ 31 ≤ (0 + 2 ^ 32 - ((held1 1).recvOf 5 0).expected) % 2 ^ 32 ∧
      ∀ kv ∈ (held1 1).dies, ∀ e ∈ kv.2.replies, ¬ (e.src = 5 ∧ e.tc = 0 ∧ e.seq = 0)) ∧
    ((∀ h ∈ ((held1 1).recvOf 5 0).held, h.1 ≠ ((held1 1).recvOf 5 0).expected) ∧ (∀ h ∈ ((held1 1).recvOf 5 0).held, h.1 ≠ 4097) ∧
      0 < (4097 + 2 ^ 32 - ((held1 1).recvOf 5 0).expected) % 2 ^ 32 ∧ (4097 + 2 ^ 32 - ((held1 1).recvOf 5 0).expected) % 2 ^ 32 ≤ 4096) ∧
    ((0 + 2 ^ 32 - (stateP.recvOf 5 0).expected) % 2 ^ 32 = 0 ∧ (stateP.recvOf 5 0).held = [] ∧ needsEntry 3 = false ∧ 3 ∈ [3, 5, 9])) ∧
    ((precedes 0 (2 ^ 31 - 1) = true ∧ precedes 0 (2 ^ 31) = false) ∧
    (((held1 1).recvOf 5 0).ackDue = true ∧ (stateP.recvOf 5 0).ackDue = false) ∧ (Gap (late (held1 1) 2000) ∧ ¬ Gap (late (held1 1) 1999)) ∧
    (holdsRequest owed 5 = true ∧ 5 ≠ owed.host.devid ∧ holdsRequest stateP 5 = false) ∧
    (pickPort stateP 5 = some 3 ∧ (∀ kv ∈ sent.sends, kv.2.waiting = []) ∧ pickPort sent 5 = some 3 ∧ pickPort (lone 0) 5 = none) ∧
    (Progress (late sent 20000) ∧ ¬ Progress (late sent 19999)) ∧
    ((stateP.port 3).failed = false ∧ portWorks stateP 3 = true ∧ portWorks (failPort stateP 3) 3 = false) ∧
    (Lost (lone 10000000) ∧ ¬ Lost (lone 9999999)) ∧ (Silent (lone 10000000) ∧ ¬ Silent (lone 9999999))) :=
  ⟨⟨mine (by decide +kernel), mine (by decide +kernel), mine (by decide +kernel)⟩, by decide +kernel, by decide +kernel⟩
/-- A store delivered behind a read, an acknowledgment and a keepalive that are due, and a failed port whose stream has another. -/
theorem witness_Links_due :
    let store : Nat × Packet := (4, .request (remote1 1))
    let load : Nat × Packet := (3, .request (remote1 0))
    let isStore := fun d : Nat × Packet => d.1 < 2 ^ 32 ∧ ∃ r, d.2 = .request r ∧ r.op = 1
    let s := { held1 1 with reft := 1000 }
    let owed := { stateP with dies := [(1, { DieSt.reset with replies := [{ src := 5, tc := 0, seq := 4, replySeq := 0, reply := flit 5 0 }] })]
                              beats := [(5, 0)], reft := 100000 }
    let shut := { stateP.setSend 5 0 { SendStream.new with port := 7, unacked := [flit 3 0] } with
      ports := stateP.ports ++ [(7, { failed := true, fenced := false, trained := true, retries := 0, since := 0 })], reft := 100000 }
    (isStore store ∧ ∀ e ∈ [load], ¬ isStore e) ∧
    (∃ kv ∈ s.recvs, kv.2.ackDue = true ∧ kv.1 / 4 ≠ s.host.devid ∧ kv.2.ackSince + 1000 ≤ s.reft.toNat) ∧
    (∃ kv ∈ owed.beats, kv.2 + 100000 ≤ owed.reft.toNat) ∧ (holdsRequest owed 5 = true ∧ 5 ≠ owed.host.devid) ∧
    (∃ kv ∈ shut.ports, kv.2.failed = true ∧ kv.2.since + 100000 ≤ shut.reft.toNat ∧
      (∃ sv ∈ shut.sends, sv.2.port = kv.1 ∧ pickPort shut (sv.1 / 4) ≠ none)) ∧ portWorks shut 7 = false ∧
    pickPort stateP 5 = some 3 :=
  ⟨⟨⟨by decide, remote1 1, rfl, rfl⟩, fun e h => by cases List.mem_singleton.mp h; rintro ⟨_, r, h, z⟩; cases h; cases z⟩, by decide +kernel⟩

/-- A state whose memory holds 128 bytes at 0x1000, and region 1 with a debug descriptor there. -/
def withCtl (s : State) (n : Nat) : State := { s with mem := Memory.write [] 0x1000 (leBytes 128 n) }
def described (s : State) (n : Nat) : State :=
  { withCtl s n with regions := [(1, { Region.none with live := true, descr := some 0x1000 })] }
/-- A root region's control block, a debug descriptor and an arena's block. -/
def rootCtl (id : Nat) : Nat := id + 0x3FF * 2 ^ 32 + 2 ^ 64 + 2 ^ 80 + 10 * 2 ^ 128 + 2 ^ 192
def debugCtl : Nat := 1 + 1024 * 2 ^ 32 + 2 ^ 576
/-- The descriptor with GO for instruction 1 of thread 0 of block 0 of grid 1 in course 0, and that request. -/
def askStop1 : Nat := debugCtl + 2 ^ 768 + 2 ^ 856 + 2 ^ 896
def stop1 : StopReq := { grid := 1, blk := 0, mem := 0, sib := 0, course := 0, count := 1 }
def arenaCtl (id base : Nat) : Nat := id + base * 2 ^ 64 + 2 ^ 16 * 2 ^ 128
abbrev ArenaOk (s : State) : Prop :=
  let b := Memory.read s.mem 0x1000 128
  Memory.nat s.mem 0x1000 2 ≠ 0 ∧ fieldAt b 2 6 = 0 ∧ fieldAt b 24 104 = 0 ∧ fieldAt b 8 8 % 2 ^ 16 = 0 ∧ fieldAt b 8 8 < 2 ^ 57 ∧
    fieldAt b 16 8 % 2 ^ 16 = 0
theorem witness_RegionsAndDebug_commands :
    let named := fun (s : State) => Memory.nat s.mem 0x1000 2
    let zeros := fun (s : State) => Memory.nat s.mem (0x1000 + 80) 16 + Memory.nat s.mem (0x1000 + 125) 3
    let c := fun (s : State) (R : Region) => controlReason s (named s) (readControl s R 0x1000)
    let s := fun id => withCtl s0 (rootCtl id)
    let set := { s 2 with host := { s0.host with regRoot := 1 } }
    let R := { Region.none with ovr := 0x3FF }
    let dbg := withCtl s0 debugCtl
    let seen := described s0 debugCtl
    let arena := withCtl s0 (arenaCtl 1 (2 ^ 16))
    (bitsAt 0x1000 7 31 * 128 = 0x1000 ∧ c s0 Region.none ≠ 0 ∧ (c (s 1) Region.none = 0 ∧ ((s 1).region (named (s 1))).live = true) ∧
    (c (s 2) Region.none = 0 ∧ ((s 2).region (named (s 2))).live = false ∧ rootSet (s 2) = false) ∧
    (c set Region.none = 0 ∧ (set.region (named set)).live = false ∧ rootSet set = true) ∧ c (s 1) ((s 1).region 1) = 0 ∧
    (R.parent = 0 ∧ R.ovr % 2 ^ 10 = 2 ^ 10 - 1 ∧ Region.none.ovr % 2 ^ 10 ≠ 2 ^ 10 - 1 ∧ (s0.region 9).live = false ∧ (s0.region 1).live = true) ∧
    (named (s 1) = 1 ∧ named (s 2) = 2 ∧ ((s 2).region 2).live = false)) ∧
    ((dbg.region (named dbg)).live = true ∧ named dbg ≠ 0 ∧
      debugOk (readDebug dbg Debug.none 0x1000) (zeros dbg) = true) ∧
    ((s0.region 1).live = true ∧ debugOk (readDebug (s 1) Debug.none 0x1000) (zeros (s 1)) = false) ∧
    ((seen.region (named seen)).live = true ∧ (seen.region (named seen)).descr = some 0x1000 ∧
      debugOk (readDebug seen (seen.debug (named seen)) 0x1000) (zeros seen) = true ∧
      Memory.nat seen.mem (0x1000 + 107) 1 ≠ 1) ∧
    ((dbg.region (named dbg)).descr = none ∧ (seen.block 1).region = named seen ∧ (seen.debug (named seen)).stopBlk = none ∧
      (seen.debug (named seen)).stopFrame = none) ∧
    (let ask := described s0 askStop1
     let busy := { ask with debugs := [(1, { Debug.none with stop := some stop1 })] }
     (ask.region (named ask)).live = true ∧ named ask = 1 ∧ (ask.region 1).descr = some 0x1000 ∧ Memory.nat ask.mem (0x1000 + 107) 1 = 1 ∧
       debugOk (readDebug ask (ask.debug 1) 0x1000) (zeros ask) = true ∧ (readDebug ask (ask.debug 1) 0x1000).stop = none ∧
       debugOk (readDebug busy (busy.debug 1) 0x1000) (zeros busy) = true ∧ (readDebug busy (busy.debug 1) 0x1000).stop ≠ none) ∧
    (ArenaOk arena ∧ (arena.region (named arena)).live = true ∧ hasGrid arena (named arena) = true) ∧
    (ArenaOk { arena with grids := [] } ∧ hasGrid { arena with grids := [] } 1 = false ∧ (arena.region 1).areas = []) ∧
    (ArenaOk (withCtl s0 (arenaCtl 2 (2 ^ 16))) ∧ (s0.region 2).live = false) ∧ ¬ ArenaOk (withCtl s0 (arenaCtl 1 1)) := by
  constructor <;> decide +kernel

/-- Block 1 with course 0, whose snapshot is zeros and of which its member has retired one instruction. -/
def course0 : Course :=
  { number := 0, start := [(0, mem1 [])], snap := List.replicate 4096 0, log := [], retired := [(0, 1)]
    history := [{ mem := 0, count := 1, logged := 0, state := mem1 [] }], plumbs := [], written := [] }
/-- The same with a BAR.ARRIVE whose logged plumb word is `w`. -/
def plumb0 (w : Nat) : Course :=
  { course0 with
    log := [{ count := 1, sib := 0, member := 0, part := 0, dest := 135, value := w, late := false }]
    plumbs := [{ mem := 0, sib := 0, count := 1, icount := 0, busy := [] }] }
/-- The block in the state `st`, its courses at `base`, and a region with `nframe` frames whose descriptor's STATUS is 1. -/
def stateStop (st : BlkState) (nframe : Nat) (c : Course := course0) (base : Nat := 0x20000) : State :=
  let B := { block1 (mem1 []) with spadSize := 0, lsSize := 0, state := st, course := some { slot := 0, current := c, before := none } }
  let s := mapped 0 B
  { withCtl s (2 ^ 992) with
    regions := [(1, { Region.none with live := true, descr := some 0x1000, nframe := nframe, frameBase := 0x10000 })]
    debugs := [(1, { Debug.none with snapBase := base, snapSize := 0x4000, stop := some stop1 })] }
def okOf (r : Except Flt (List Byte)) : List Byte := match r with | .ok v => v | .error _ => []
theorem okOf_eq {r : State × Except Flt (List Byte)} (h : r.2.isOk = true) : r = (r.1, .ok (okOf r.2)) := by
  obtain ⟨s, r⟩ := r
  cases r with
  | error e => cases h
  | ok v => rfl
/-- The plumb word, with every step of its CRC evaluated. -/
def crcSteps (c : Nat) : List Byte → Nat
  | [] => c
  | b :: r => if c = 0 then crcSteps (crcByte 0 b) r else crcSteps (crcByte c b) r
theorem crcSteps_eq (bs : List Byte) (c : Nat) : crcSteps c bs = bs.foldl crcByte c := by
  induction bs generalizing c with
  | nil => rfl
  | cons b r ih =>
    rw [crcSteps, List.foldl_cons]
    split <;> rename_i h <;> simp only [ih, h]
def wordSteps (busy : List Nat) (icount : W64) (r : Regs) : Nat :=
  crcSteps 0xFFFF_FFFF ((List.range 128).flatMap (fun n => leBytes 4 (if busy.contains n then 0 else (r.lane n).toNat)) ++
    leBytes 1 ((List.range 7).foldl (fun a n => a + boolN (r.pred n) * 2 ^ n) 0) ++ leBytes 8 icount.toNat) ^^^ 0xFFFF_FFFF
theorem wordSteps_eq : plumbWord = wordSteps :=
  funext fun _ => funext fun _ => funext fun _ => congrArg (· ^^^ 0xFFFF_FFFF) (crcSteps_eq _ _).symm
/-- The reads of a stop request that has its frame, and what holds then. -/
abbrev StopReads (s : State) (c : Course) (p : State → State → List Byte → List Byte → Prop) : Prop :=
  let u := stopHold s 1 1
  let w := keystoneOf 1 (coreDie (u.block 1).core)
  let head := 2048 + 2048 * (u.block 1).nthread
  let from_ := courseAddr (u.debug 1) (((u.block 1).course.map CourseSlot.slot).getD 0) c.number
  pickFrame u 1 = some 0 ∧ ∃ v h v' snap v'' log, readRange { u with reqs := [] } w from_ head = (v, .ok h) ∧
    readRange v w from_ (head + 2368 * fieldAt h 82 2) = (v', .ok snap) ∧
    readRange v' w (from_ + c.snap.length) (16 * min c.log.length (logRoom (u.debug 1) c)) = (v'', .ok log) ∧ p u v'' snap log
def stopWho (s : State) : Who := keystoneOf 1 (coreDie ((stopHold s 1 1).block 1).core)
def stopHead (s : State) : Nat := 2048 + 2048 * ((stopHold s 1 1).block 1).nthread
def stopFrom (s : State) (c : Course) : Nat :=
  courseAddr ((stopHold s 1 1).debug 1) ((((stopHold s 1 1).block 1).course.map CourseSlot.slot).getD 0) c.number
def read1 (s : State) (c : Course) : State × Except Flt (List Byte) :=
  readRange { stopHold s 1 1 with reqs := [] } (stopWho s) (stopFrom s c) (stopHead s)
def read2 (s : State) (c : Course) : State × Except Flt (List Byte) :=
  readRange (read1 s c).1 (stopWho s) (stopFrom s c) (stopHead s + 2368 * fieldAt (okOf (read1 s c).2) 82 2)
def read3 (s : State) (c : Course) : State × Except Flt (List Byte) :=
  readRange (read2 s c).1 (stopWho s) (stopFrom s c + c.snap.length) (16 * min c.log.length (logRoom ((stopHold s 1 1).debug 1) c))
theorem stopReads_of {s : State} {c : Course} {p : State → State → List Byte → List Byte → Prop} (f : pickFrame (stopHold s 1 1) 1 = some 0)
    (h : ((read1 s c).2.isOk && (read2 s c).2.isOk && (read3 s c).2.isOk) = true)
    (z : p (stopHold s 1 1) (read3 s c).1 (okOf (read2 s c).2) (okOf (read3 s c).2)) : StopReads s c p := by
  simp only [Bool.and_eq_true] at h
  exact ⟨f, _, _, _, _, _, _, okOf_eq h.1.1, okOf_eq h.1.2, okOf_eq h.2, z⟩
abbrev Kept (c : Course) (snap log : List Byte) : Prop :=
  snap = c.snap.take snap.length ∧ log = (c.log.take (log.length / 16)).flatMap LogEntry.bytes
/-- A snapshot of zeros is a beginning of that of `course0`; the check goes byte by byte. -/
theorem zeros_kept {c : Course} {snap log : List Byte} (h : c.snap = List.replicate 4096 0)
    (z : (snap.all (· == 0) && (snap.drop 4096).isEmpty) = true) (l : log = (c.log.take (log.length / 16)).flatMap LogEntry.bytes) :
    Kept c snap log := by
  simp only [Bool.and_eq_true, List.all_eq_true, beq_iff_eq, List.isEmpty_iff, List.drop_eq_nil_iff] at z
  refine ⟨?_, l⟩
  rw [h, List.take_replicate, Nat.min_eq_left z.2]
  exact List.eq_replicate_iff.mpr ⟨rfl, z.1⟩
/-- A state whose area holds a 1 where the snapshot of `course0` begins. -/
def altered : State := { stateStop .running 1 with mem := Memory.write (stateStop .running 1).mem 0x20000 [1] }
def headOne : List Byte → Bool
  | b :: _ => b == 1
  | [] => false
theorem altered_not_kept {c : Course} {snap log : List Byte} (s : c.snap = List.replicate 4096 0) (h : headOne snap = true) :
    ¬ Kept c snap log := by
  rintro ⟨e, -⟩
  rw [s, List.take_replicate] at e
  cases snap with
  | nil => cases h
  | cons b r =>
    have e := congrArg List.head? e
    rw [List.head?_replicate, if_neg (by simp)] at e
    cases e
    cases h
theorem stopCourse_course0 (n : Nat) : stopCourse (stateStop .running n) 1 stop1 = some course0 := rfl
/-- A request whose thread is found, not found, or of which the course has not come so far; whose block waits for a handler or a frame. -/
theorem witness_RegionsAndDebug_stop :
    let s := stateStop .running 1
    let target := fun s : State => match (s.debug 1).stopBlk with | some b => some b | none => stopTarget s 1 stop1
    let asked := fun (s : State) q => (s.debug 1).stop = some q ∧ (s.debug 1).stopFrame = none ∧ Memory.nat s.mem (0x1000 + 124) 1 = 1
    ((s.block 1).state = .running ∧ courseDone s 1 = true ∧ courseDone s0 1 = false) ∧
    ((s.region 1).descr = some 0x1000 ∧ (s0.region 1).descr = none) ∧
    (asked s stop1 ∧ Memory.nat { s with mem := [] }.mem (0x1000 + 124) 1 ≠ 1) ∧ target { s with blocks := [] } = none ∧
    (target s = some 1 ∧ stopCourse s 1 { stop1 with count := 2 } = none) ∧
    ((stateStop (.handled 0 2) 1).block 1).state = .handled 0 2 ∧ ((stateStop (.frameWait saveTrap) 1).block 1).state = .frameWait saveTrap ∧
    (target (stateStop .running 0) = some 1 ∧
      pickFrame (stopHold (stateStop .running 0) 1 1) 1 = none) ∧ (∀ e ∈ course0.log, e.late = false) := by decide +kernel
/-- The course area holds what was written, where a plumb word differs and where none does, and the frame can be written; it was altered. -/
theorem witness_RegionsAndDebug_altered : StopReads altered course0 fun _ _ snap log => ¬ Kept course0 snap log :=
  stopReads_of (by decide +kernel) (by decide +kernel) (altered_not_kept rfl (by decide +kernel))
theorem witness_RegionsAndDebug_diverged : StopReads (stateStop .running 1 (plumb0 0)) (plumb0 0) fun _ _ snap log =>
    Kept (plumb0 0) snap log ∧ diverged (plumb0 0) stop1 log = true :=
  stopReads_of (by decide +kernel) (by decide +kernel) ⟨zeros_kept rfl (by decide +kernel) (by decide +kernel), by
    unfold diverged Course.plumb; rw [wordSteps_eq]; decide +kernel⟩
theorem witness_RegionsAndDebug_rebuilt : StopReads (stateStop .running 1) course0 fun _ _ snap log =>
    Kept course0 snap log ∧ diverged course0 stop1 log = false :=
  stopReads_of (by decide +kernel) (by decide +kernel) ⟨zeros_kept rfl (by decide +kernel) (by decide +kernel), by decide +kernel⟩
theorem witness_RegionsAndDebug_frame : StopReads (stateStop .running 1) course0 fun u v snap _ =>
    let o := effOwner u.regions 4 u.regions.length 1
    (writeRange v (stopWho (stateStop .running 1)) ((u.region o).frameBase + (u.region o).frameSize * 0)
      (stopFrameBytes (u.block 1) course0 stop1 snap)).2 = none :=
  stopReads_of (by decide +kernel) (by decide +kernel) (by decide +kernel)
/-- The course area cannot be read, or not past the snapshot's head. -/
theorem witness_RegionsAndDebug_unread :
    let short := { stateStop .running 1 course0 (2 ^ 30 - 4096) with
      mem := Memory.write (stateStop .running 1).mem (2 ^ 30 - 4096 + 82) [1] }
    let read := fun (s : State) a n => readRange { stopHold s 1 1 with reqs := [] } (keystoneOf 1 0) a n
    (∃ v f, read (stateStop .running 1 course0 (2 ^ 40)) (2 ^ 40) 4096 = (v, .error f)) ∧
    ∃ v h, read short (2 ^ 30 - 4096) 4096 = (v, .ok h) ∧ fieldAt h 82 2 = 1 ∧
      (readRange v (keystoneOf 1 0) (2 ^ 30 - 4096) (4096 + 2368)).2.isOk = false :=
  ⟨⟨_, { cause := .translationFault, fcode := 1, addr := 2 ^ 40 }, fails (by decide +kernel)⟩,
    _, _, okOf_eq (by decide +kernel), by decide +kernel, by decide +kernel⟩
/-- A block in each state that a stop holds, and each that its release lets go on. -/
theorem witness_RegionsAndDebug_hold :
    let st := fun x => ((stateStop x 1).block 1).state
    st .running = .running ∧ st .stopping = .stopping ∧ st .gangWait = .gangWait ∧ st (.handled 0 2) ≠ .running ∧
    (st (.handled 0 2) ≠ .stopping ∧ st (.handled 0 2) ≠ .gangWait) ∧ st (.heldForStop .running) = .heldForStop .running ∧
    st (.heldForStop .stopping) = .heldForStop .stopping ∧ st (.heldForStop .gang) = .heldForStop .gang ∧
    st (.heldForStop .started) = .heldForStop .started := by decide

theorem witness_HostWindow_parts :
    let s := stateR []
    let busy := fenceStatus s (2 ^ 61) 1
    let q := FenceReq.of
    let core0 : Nat := 2 ^ 61
    let row0 : Nat := 2 ^ 61 + 2 ^ 58
    let port0 : Nat := 2 ^ 61 + 2 * 2 ^ 58
    State.reset.host.devidSet = false ∧ (q 0).op ≠ 1 ∧ ((q core0).op = 1 ∧ (q core0).ok = true ∧ (q core0).kind = 0) ∧
    ((q row0).op = 1 ∧ (q row0).ok = true ∧ (q row0).kind = 1) ∧ ((q port0).op = 1 ∧ (q port0).ok = true ∧ (q port0).kind = 2) ∧
    (q (2 ^ 61 + 7 * 2 ^ 58)).ok = false ∧ residents s 1 = [] ∧ (fenceBusy s = false ∧ fenceBusy busy = true) ∧
    ((q (2 * 2 ^ 61)).op = 2 ∧ (q (2 * 2 ^ 61)).ok = true ∧ (q (2 * 2 ^ 61)).kind = 0) ∧
    ((q (2 * 2 ^ 61 + 2 * 2 ^ 58)).op = 2 ∧ (q (2 * 2 ^ 61 + 2 * 2 ^ 58)).ok = true ∧ (q (2 * 2 ^ 61 + 2 * 2 ^ 58)).kind = 2) ∧
    ((q (2 * 2 ^ 61 + 3 * 2 ^ 58)).ok = true ∧ (q (2 * 2 ^ 61 + 3 * 2 ^ 58)).kind = 3 ∧ (q (2 * 2 ^ 61 + 4 * 2 ^ 58)).ok = true ∧
      (q (2 * 2 ^ 61 + 4 * 2 ^ 58)).kind = 4) ∧
    (0 < 4 ∧ (s.die 0).portFail < 2 ^ 16) ∧ (∃ kv ∈ s.regions, kv.2.live = true) ∧ (∀ kv ∈ State.reset.regions, kv.2.live = false) := by
  decide +kernel
theorem witness_HostWindow_routes :
    (∀ k, k < 4 → bitsAt (0xFFFF_FF3F : W64).toNat (8 * k) 8 ≤ 63 ∨ bitsAt (0xFFFF_FF3F : W64).toNat (8 * k) 8 = 0xFF) ∧
    (4094 ≤ 4094 ∧ ¬ 4095 ≤ 4094) ∧ (¬ ∀ k, k < 4 → bitsAt (0x40 : W64).toNat (8 * k) 8 ≤ 63 ∨ bitsAt (0x40 : W64).toNat (8 * k) 8 = 0xFF) ∧
    ((1023 : Nat) < 1024 ∧ 0x8050 ∈ [0x8000, 0x8008, 0x8030, 0x8050] ∧ 0x8049 % 8 ≠ 0) ∧ bitN (0x9000_0000_0000_0080 : W64).toNat 63 = true ∧
    ∃ u st g, launch { s0 with reqs := [] } none 0 (LaunchRec.of (Memory.read s0.mem (bitsAt (0 : W64).toNat 6 32 * 64) 128)) = (u, st, g) :=
  ⟨by decide +kernel, by decide, by decide +kernel, by decide, by decide, _, _, _, rfl⟩
theorem witness_HostWindow_memory :
    let r := { sM with reqs := [] }
    let shut := { r with atab := [] }
    (hostKey (2 ^ 47) = true ∧ hostKey 0x100 = false ∧ 0x100 + 1 ≤ 2 ^ 38 ∧ 1 ≤ 64 - 0x100 % 64 ∧ ([0xAB] : List Byte).length = 1) ∧
    (∃ u, checkTarget r hostWho 0 0x100 1 0x100 .write = (u, none)) ∧ (∃ u, checkTarget r hostWho 0 0x100 1 0x100 .read = (u, none)) ∧
    ∃ u f, checkTarget shut hostWho 0 0x100 1 0x100 .write = (u, some f) := by
  refine ⟨by decide +kernel, ⟨_, fine (by decide +kernel)⟩, ⟨_, fine (by decide +kernel)⟩, _, { cause := .accessFault, fcode := 0x0A, addr := 0x100 }, fine (by decide +kernel)⟩
theorem witness_HostWindow_start :
    (⟨none, [], false⟩ : StartEnv).failStep = none ∧ (⟨some 4, [], false⟩ : StartEnv).failStep = some 4 ∧ imageOk [] = false ∧
    ({ s0 with host := { s0.host with mailboxState := 1 } } : State).host.mailboxState = 1 ∧ s0.host.mailboxState ≠ 1 ∧
    (List.replicate 64 (0 : Byte)).length ≤ 64 ∧ 64 < (List.replicate 65 (0 : Byte)).length := by
  decide +kernel

/-- A word of the spec's encoding (02 R22, R23; majors and minors of 02 R39 and 22) decodes to an instruction. -/
abbrev Reads (ws : List Nat) (i : Instr) : Prop := decode (wordBytes ws) = .ok i
theorem decodes_integer :
    Reads [0x06041021, 0x00061C00, 0x00000000] (.iadd { ts with d := 2, a := 1, b := 3 }) ∧
    Reads [0x06041041, 0x00061C00, 0x00000000] (.isub { ts with d := 2, a := 1, b := 3 }) ∧
    Reads [0x06041061, 0x00061C00, 0x00000000] (.imul { ts with d := 2, a := 1, b := 3 }) ∧
    Reads [0x06041061, 0x00061C01, 0x00000000] (.imulh { ts with minor := 1, d := 2, a := 1, b := 3 }) ∧
    Reads [0x0C101081, 0x00091C00, 0x00000008] (.imad { tn with d := 2, a := 4, b := 6, c := 8 }) ∧
    Reads [0x060410A1, 0x00061C00, 0x00000000] (.idiv { ts with d := 2, a := 1, b := 3 }) ∧
    Reads [0x060410A1, 0x00061C01, 0x00000000] (.irem { ts with minor := 1, d := 2, a := 1, b := 3 }) ∧
    Reads [0x060410C1, 0x00061C00, 0x00000000] (.imin { ts with d := 2, a := 1, b := 3 }) ∧
    Reads [0x060410C1, 0x00061C01, 0x00000000] (.imax { ts with minor := 1, d := 2, a := 1, b := 3 }) ∧
    Reads [0x001010E1, 0x00081C00, 0x00000000] (.iabs { tx with ty := .s64, d := 2, a := 4 }) ∧
    Reads [0x001418E1, 0x800D1C01, 0x00000000] (.ineg { tx with minor := 1, ty := .n8, mod := 4, d := 3, a := 5 }) :=
  ⟨rfl, rfl, rfl, rfl, rfl, rfl, rfl, rfl, rfl, rfl, rfl⟩
theorem decodes_logic_shift_field :
    Reads [0x0E106101, 0x400E1C00, 0x00000000] (.andL { tb with mod := 2, d := 12, a := 4, b := 7 }) ∧
    Reads [0x0E106101, 0x400E1C01, 0x00000000] (.orL { tb with minor := 1, mod := 2, d := 12, a := 4, b := 7 }) ∧
    Reads [0x0E106101, 0x400E1C02, 0x00000000] (.xorL { tb with minor := 2, mod := 2, d := 12, a := 4, b := 7 }) ∧
    Reads [0x0E106101, 0x400E1C03, 0x00000000] (.andn { tb with minor := 3, mod := 2, d := 12, a := 4, b := 7 }) ∧
    Reads [0x00106101, 0x00091C04, 0x00000000] (.notL { tn with minor := 4, d := 12, a := 4 }) ∧
    Reads [0x00080921, 0x200E1C00, 0x00000280] (.shl { tb with mod := 1, d := 1, a := 2, imm := 5 }) ∧
    Reads [0x00080921, 0x200E1C01, 0x00000280] (.shr { tb with minor := 1, mod := 1, d := 1, a := 2, imm := 5 }) ∧
    Reads [0x00080921, 0x200E1C02, 0x00000280] (.sar { tb with minor := 2, mod := 1, d := 1, a := 2, imm := 5 }) ∧
    Reads [0x00080921, 0x200E1C03, 0x00000280] (.rot { tb with minor := 3, mod := 1, d := 1, a := 2, imm := 5 }) ∧
    Reads [0x06080941, 0x00071C00, 0x00000000] (.bfx { tx with ty := .n32, d := 1, a := 2, b := 3 }) ∧
    Reads [0x06080941, 0x000E1C01, 0x00000004] (.bfi { tb with minor := 1, d := 1, a := 2, b := 3, c := 4 }) ∧
    Reads [0x00101961, 0x00091C00, 0x00000000] (.popc { tn with d := 3, a := 4 }) ∧
    Reads [0x00101961, 0x00091C01, 0x00000000] (.clz { tn with minor := 1, d := 3, a := 4 }) ∧
    Reads [0x00141961, 0x000E1C02, 0x00000000] (.brev { tb with minor := 2, d := 3, a := 5 }) ∧
    Reads [0x06080981, 0x000E1C00, 0x00000004] (.perm { tb with d := 1, a := 2, b := 3, c := 4 }) :=
  ⟨rfl, rfl, rfl, rfl, rfl, rfl, rfl, rfl, rfl, rfl, rfl, rfl, rfl, rfl, rfl⟩
theorem decodes_compare_select_move :
    Reads [0x000409A1, 0x20061C04, 0x00000000] (.icmp { ts with minor := 4, mod := 1, d := 1, a := 1 }) ∧
    Reads [0x060809C1, 0x000E1C00, 0x00000005] (.isel { tb with d := 1, a := 2, b := 3, c := 5 }) ∧
    Reads [0x000809C1, 0x200E1C01, 0x00004B03] (.plop { tb with minor := 1, mod := 1, d := 1, a := 2, c := 3, imm := 150 }) ∧
    Reads [0x002461E1, 0x000E1C00, 0x00000000] (.mov { tb with d := 12, a := 9 }) ∧
    Reads [0x000009E1, 0x200E1C01, 0x00000180] (.movi { tb with minor := 1, mod := 1, d := 1, imm := 3 }) ∧
    Reads [0x000DF9E1, 0x000E1C02, 0x00000000] (.movk { tb with minor := 2, d := 63, a := 3 }) ∧
    Reads [0x001409E1, 0x000E1C03, 0x00000000] (.movs { tb with minor := 3, d := 1, a := 5 }) ∧
    Reads [0x003809E1, 0x000E1C04, 0x00000000] (.getc { tb with minor := 4, d := 1, a := 14 }) ∧
    Reads [0x000471E1, 0x000E1C05, 0x00000000] (.setc { tb with minor := 5, d := 14, a := 1 }) :=
  ⟨rfl, rfl, rfl, rfl, rfl, rfl, rfl, rfl, rfl⟩
theorem decodes_float :
    Reads [0x0C142201, 0x00151C00, 0x00000000] (.fadd { tx with ty := .bf16x2, d := 4, a := 5, b := 6, rnd := .rne }) ∧
    Reads [0x0C142201, 0x00151C01, 0x00000000] (.fsub { tx with minor := 1, ty := .bf16x2, d := 4, a := 5, b := 6, rnd := .rne }) ∧
    Reads [0x0C142221, 0x00151C00, 0x00000000] (.fmul { tx with ty := .bf16x2, d := 4, a := 5, b := 6, rnd := .rne }) ∧
    Reads [0x0C142251, 0x00202C00, 0x00000007] (.ffma { tx with guard := 3, stall := 4, d := 4, a := 5, b := 6, c := 7, neg := true, rnd := .rz }) ∧
    Reads [0x0C142261, 0x00021C00, 0x00000000] (.fmin { tx with ty := .f16, d := 4, a := 5, b := 6 }) ∧
    Reads [0x0C142261, 0x00021C01, 0x00000000] (.fmax { tx with minor := 1, ty := .f16, d := 4, a := 5, b := 6 }) ∧
    Reads [0x10182281, 0x00311C00, 0x00000000] (.fdiv { tx with ty := .f64, d := 4, a := 6, b := 8, rnd := .rup }) ∧
    Reads [0x001422A1, 0x00401C00, 0x00000000] (.fsqrt { tx with d := 4, a := 5, rnd := .rdn }) ∧
    Reads [0x08083B01, 0x00011C07, 0x00000000] (.fcmp { tx with minor := 7, ty := .f64, d := 7, a := 2, b := 4 }) ∧
    Reads [0x000C3B01, 0x00031C10, 0x00000000] (.fclass { tx with minor := 0x10, ty := .bf16, d := 7, a := 3 }) ∧
    Reads [0x00080B21, 0x00521C00, 0x00000000] (.fcvt { tx with ty := .f16, d := 1, a := 2, rnd := .rna }) ∧
    Reads [0x00141321, 0x00281C01, 0x00000000] (.fcvti { tx with minor := 1, ty := .s64, d := 2, a := 5, rnd := .rz }) ∧
    Reads [0x00080B21, 0x00101C02, 0x00000008] (.icvtf { tx with minor := 2, d := 1, a := 2, c := 8, rnd := .rne }) :=
  ⟨rfl, rfl, rfl, rfl, rfl, rfl, rfl, rfl, rfl, rfl, rfl, rfl, rfl⟩
theorem decodes_digit_random_functions :
    Reads [0x00080B41, 0x00011C00, 0x00000000] (.dig { tx with ty := .f64, d := 1, a := 2 }) ∧
    Reads [0x06080B41, 0x000E1C01, 0x00000000] (.sibg { tb with minor := 1, d := 1, a := 2, b := 3 }) ∧
    Reads [0x00080B41, 0x00101C02, 0x00000000] (.dmean { tx with minor := 2, d := 1, a := 2, rnd := .rne }) ∧
    Reads [0x00001361, 0x00091C00, 0x00000000] (.rand { tn with d := 2 }) ∧
    Reads [0x00142381, 0x00401C00, 0x00000000] (.frcp { tx with d := 4, a := 5, rnd := .rdn }) ∧
    Reads [0x00142381, 0x00401C01, 0x00000000] (.frsq { tx with minor := 1, d := 4, a := 5, rnd := .rdn }) ∧
    Reads [0x00080BA1, 0x00141C00, 0x00000000] (.fex2 { tx with ty := .f16x2, d := 1, a := 2, rnd := .rne }) ∧
    Reads [0x00080BA1, 0x00141C01, 0x00000000] (.flg2 { tx with minor := 1, ty := .f16x2, d := 1, a := 2, rnd := .rne }) ∧
    Reads [0x00080BC1, 0x00141C00, 0x00000000] (.fsin { tx with ty := .f16x2, d := 1, a := 2, rnd := .rne }) ∧
    Reads [0x00080BC1, 0x00141C01, 0x00000000] (.fcos { tx with minor := 1, ty := .f16x2, d := 1, a := 2, rnd := .rne }) :=
  ⟨rfl, rfl, rfl, rfl, rfl, rfl, rfl, rfl, rfl, rfl⟩
theorem decodes_control :
    Reads [0x00000401, 0x00000400, 0xFFFFFB00] (.bra { tx with guard := 1, imm := 0x1FFFFF6 }) ∧
    Reads [0x00180401, 0x80001C01, 0x00000180] (.jmp { tx with minor := 1, mod := 4, a := 6, imm := 3 }) ∧
    Reads [0x00001421, 0x00001C00, 0x00008000] (.call { tx with d := 2, imm := 256 }) ∧
    Reads [0x00080421, 0x00001C01, 0x00000000] (.ret { tx with minor := 1, a := 2 }) ∧
    Reads [0x00000445, 0x00005C00, 0x00000000] (.exitT { tx with stall := 9 }) ∧
    Reads [0x00000C61, 0x00001C00, 0x00000000] (.elect { tx with d := 1 }) ∧
    Reads [0x000C1461, 0x40001C01, 0x00000000] (.vote { tx with minor := 1, mod := 2, d := 2, a := 3 }) ∧
    Reads [0x00000481, 0x00001C00, 0x00000000] (.yield tx) ∧
    Reads [0x00100481, 0x00001C01, 0x00000000] (.waitc { tx with minor := 1, a := 4 }) ∧
    Reads [0x000007E1, 0x00003C00, 0x00000000] (.nop { tx with neg := true }) ∧
    Reads [0x000007E1, 0x00001C10, 0x00000000] (.hint { tx with minor := 0x10 }) :=
  ⟨rfl, rfl, rfl, rfl, rfl, rfl, rfl, rfl, rfl, rfl, rfl⟩
theorem decodes_narrow :
    Reads [0x22008661, 0x00101C00, 0x00000008] (.qcvt { tx with d := 16, b := 17, c := 8, rnd := .rne }) ∧
    Reads [0x2240C661, 0x00101C01, 0x00000008] (.dqcvt { tx with minor := 1, d := 24, a := 16, b := 17, c := 8, rnd := .rne }) ∧
    Reads [0x00808661, 0x80001C02, 0x00000000] (.plpack { tx with minor := 2, mod := 4, d := 16, a := 32 }) :=
  ⟨rfl, rfl, rfl⟩
theorem decodes_matrix :
    Reads [0x0A100E01, 0xC0001C00, 0x00000000] (.shape { tx with mod := 6, d := 1, a := 4, b := 5 }) ∧
    Reads [0x00041601, 0x20001C01, 0x00000000] (.shget { tx with minor := 1, mod := 1, d := 2, a := 1 }) ∧
    Reads [0x02182E21, 0x00001C00, 0x00000000] (.matx { tx with d := 5, a := 6, b := 1 }) ∧
    Reads [0x00FFE621, 0x00001C01, 0x00000000] (.mstat { tx with minor := 1, d := 124, a := 63 }) ∧
    Reads [0x00000621, 0x00001C02, 0x00000000] (.mreset { tx with minor := 2 }) ∧
    Reads [0x00002E41, 0x00001C00, 0x00000180] (.cfzero { tx with d := 5, imm := 3 }) ∧
    Reads [0x00203E41, 0x00001C01, 0x00000100] (.cfread { tx with minor := 1, d := 7, a := 8, imm := 2 }) ∧
    Reads [0x00184E41, 0x00101C02, 0x00000100] (.fold { tx with minor := 2, d := 9, a := 6, imm := 2, rnd := .rne }) ∧
    Reads [0x06184E41, 0x20101C03, 0x00000282] (.drain { tx with minor := 3, mod := 1, d := 9, a := 6, b := 3, c := 2, imm := 5, rnd := .rne }) ∧
    Reads [0x040786A1, 0x00101C00, 0x00000000] (.mq16 { tx with d := 112, a := 1, b := 2, rnd := .rne }) ∧
    Reads [0x040706A1, 0x00201C01, 0x00000000] (.mq32 { tx with minor := 1, d := 96, a := 1, b := 2, rnd := .rz }) :=
  ⟨rfl, rfl, rfl, rfl, rfl, rfl, rfl, rfl, rfl, rfl, rfl⟩
theorem decodes_selection :
    Reads [0x00180E81, 0x00001C00, 0x00000000] (.selk { tx with d := 1, a := 6 }) ∧
    Reads [0x001C1681, 0x00001C01, 0x00000000] (.smax { tx with minor := 1, d := 2, a := 7 }) ∧
    Reads [0x00201E81, 0x00001C02, 0x00000000] (.samp { tx with minor := 2, d := 3, a := 8 }) ∧
    Reads [0x00201E81, 0x00031C03, 0x00000000] (.redb { tx with minor := 3, ty := .bf16, d := 3, a := 8 }) :=
  ⟨rfl, rfl, rfl, rfl⟩
theorem decodes_memory :
    Reads [0x04001501, 0x110E1C00, 0x00000000] (.ld { tb with d := 2, b := 2, ord := .acquire, scope := .device }) ∧
    Reads [0x02000D01, 0x000E1C01, 0x00000000] (.st { tb with minor := 1, d := 1, b := 1 }) ∧
    Reads [0x00000D01, 0x80001C02, 0x00000000] (.ldbuf { tx with minor := 2, mod := 4, d := 1 }) ∧
    Reads [0x080C0501, 0x400D1C03, 0x00000005] (.prf { tx with minor := 3, ty := .n8, mod := 2, a := 3, b := 4, c := 5 }) ∧
    Reads [0x001C1D21, 0x000A1C00, 0x00000000] (.ldl { tx with ty := .s16, d := 3, a := 7 }) ∧
    Reads [0x001C1D21, 0x000A1C01, 0x00000000] (.stl { tx with minor := 1, ty := .s16, d := 3, a := 7 }) ∧
    Reads [0x001C1D41, 0x090E1C00, 0x00000200] (.lds { tb with d := 3, a := 7, imm := 4, ord := .acquire, scope := .core }) ∧
    Reads [0x001C1D41, 0x058E1C01, 0x00000000] (.sts { tb with minor := 1, d := 3, a := 7, ord := .release, scope := .block }) ∧
    Reads [0x00241D41, 0x000E1C02, 0x00000007] (.ldx { tb with minor := 2, d := 3, a := 9, c := 7 }) ∧
    Reads [0x00241D61, 0x00001C00, 0x00000000] (.ldf { tx with d := 3, a := 9 }) ∧
    Reads [0x00240D61, 0x000E1C01, 0x00000000] (.ste { tb with minor := 1, d := 1, a := 9 }) :=
  ⟨rfl, rfl, rfl, rfl, rfl, rfl, rfl, rfl, rfl, rfl, rfl⟩
theorem decodes_tags_walkers_atomics :
    Reads [0x06240561, 0x40001C02, 0x00000000] (.tagset { tx with minor := 2, mod := 2, a := 9, b := 3 }) ∧
    Reads [0x00000561, 0x20001C03, 0x00002000] (.tagclr { tx with minor := 3, mod := 1, imm := 64 }) ∧
    Reads [0x3E083D81, 0x000C1C00, 0x00000000] (.walkBind { tx with ty := .s8, d := 7, a := 2, b := 31 }) ∧
    Reads [0x001C1581, 0x20091C00, 0x00000000] (.walkNext { tn with mod := 1, d := 2, a := 7 }) ∧
    Reads [0x020015A1, 0x00061C00, 0x00000001] (.atom { ts with d := 2, b := 1, c := 1 }) ∧
    Reads [0x020005A1, 0x198E1C14, 0x00000001] (.red { tb with minor := 0x14, b := 1, c := 1, ord := .release, scope := .system }) :=
  ⟨rfl, rfl, rfl, rfl, rfl, rfl⟩
theorem decodes_synchronisation :
    Reads [0x000005C1, 0x12801C00, 0x00000000] (.fence { tx with ord := .sc, scope := .device }) ∧
    Reads [0x00101DC1, 0x04001C01, 0x00002000] (.barArrive { tx with minor := 1, d := 3, a := 4, imm := 64, scope := .block }) ∧
    Reads [0x001005C1, 0x00001C02, 0x00002003] (.barWait { tx with minor := 2, a := 4, c := 3, imm := 64 }) ∧
    Reads [0x0E1015C1, 0x0E001C03, 0x00000006] (.syncop { tx with minor := 3, d := 2, a := 4, b := 7, c := 6, ord := .acqRel, scope := .die }) ∧
    Reads [0x00182F01, 0x00001C00, 0x00000000] (.xcopy { tx with d := 5, a := 6 }) ∧
    Reads [0x00000701, 0x20001C01, 0x00000180] (.ownGive { tx with minor := 1, mod := 1, imm := 3 }) ∧
    Reads [0x000C0701, 0x00001C02, 0x00000000] (.ownTake { tx with minor := 2, a := 3 }) ∧
    Reads [0x00100721, 0x00001C00, 0x00000000] (.twaitany { tx with a := 4 }) ∧
    Reads [0x00000721, 0x20001C01, 0x00000280] (.twaitall { tx with minor := 1, mod := 1, imm := 5 }) ∧
    Reads [0x00101F21, 0x00001C02, 0x00000000] (.tfirst { tx with minor := 2, d := 3, a := 4 }) :=
  ⟨rfl, rfl, rfl, rfl, rfl, rfl, rfl, rfl, rfl, rfl⟩
theorem decodes_queues :
    Reads [0x00101741, 0x00001C02, 0x00000000] (.dlaunch { tx with minor := 2, d := 2, a := 4 }) ∧
    Reads [0x0E141741, 0x00001C00, 0x00000000] (.enq { tx with d := 2, a := 5, b := 7 }) ∧
    Reads [0x0C141741, 0x00001C01, 0x00000000] (.deq { tx with minor := 1, d := 2, a := 5, b := 6 }) :=
  ⟨rfl, rfl, rfl⟩
theorem decodes_remote_calls :
    Reads [0x0A080F61, 0x00061C00, 0x00000000] (.rld { ts with d := 1, a := 2, b := 5 }) ∧
    Reads [0x0A080F61, 0x158D1C01, 0x00000000] (.rst { tx with minor := 1, ty := .n8, d := 1, a := 2, b := 5, ord := .release, scope := .fabric }) ∧
    Reads [0x0A101761, 0xE0081C02, 0x00000006] (.ratom { tx with minor := 2, ty := .s64, mod := 7, d := 2, a := 4, b := 5, c := 6 }) ∧
    Reads [0x00181F81, 0x00001C00, 0x00000000] (.coll { tx with d := 3, a := 6 }) ∧
    Reads [0x00141781, 0x00001C01, 0x00000000] (.callr { tx with minor := 1, d := 2, a := 5 }) ∧
    Reads [0x0C141781, 0x00001C02, 0x00000000] (.callh { tx with minor := 2, d := 2, a := 5, b := 6 }) ∧
    Reads [0x00101781, 0x80001C03, 0x00000000] (.waith { tx with minor := 3, mod := 4, d := 2, a := 4 }) ∧
    Reads [0x00101781, 0x20001C05, 0x00000000] (.hstat { tx with minor := 5, mod := 1, d := 2, a := 4 }) ∧
    Reads [0x00100781, 0x20001C04, 0x00000000] (.drophBreak { tx with minor := 4, mod := 1, a := 4 }) ∧
    Reads [0x00100781, 0x00001C04, 0x00000000] (.drophRelease { tx with minor := 4, a := 4 }) :=
  ⟨rfl, rfl, rfl, rfl, rfl, rfl, rfl, rfl, rfl, rfl⟩
theorem decodes_traps :
    Reads [0x000007A1, 0x00001C00, 0x00002100] (.trap { tx with imm := 66 }) ∧
    Reads [0x000007A1, 0x00001C06, 0x00000080] (.bkpt { tx with minor := 6, imm := 1 }) ∧
    Reads [0x000007A1, 0x00001C01, 0x00000000] (.rett { tx with minor := 1 }) ∧
    Reads [0x001827A1, 0x00001C02, 0x00008000] (.frd { tx with minor := 2, d := 4, a := 6, imm := 256 }) ∧
    Reads [0x101807A1, 0x00001C03, 0x00008000] (.fwr { tx with minor := 3, a := 6, b := 8, imm := 256 }) ∧
    Reads [0x182807A1, 0x40001C04, 0x00000000] (.grpctl { tx with minor := 4, mod := 2, a := 10, b := 12 }) ∧
    Reads [0x101807A1, 0x00001C05, 0x00000000] (.tlbi { tx with minor := 5, a := 6, b := 8 }) :=
  ⟨rfl, rfl, rfl, rfl, rfl, rfl, rfl⟩
theorem decodes_base_lane :
    Reads [0x0E106020] (.iaddBase { d := 12, a := 4, b := 7, stall := 0 }) ∧
    Reads [0x0E106044] (.isubBase { d := 12, a := 4, b := 7, stall := 1 }) ∧
    Reads [0x0E106068] (.imulBase { d := 12, a := 4, b := 7, stall := 2 }) ∧
    Reads [0x0E10608C] (.imadBase { d := 12, a := 4, b := 7, stall := 3 }) ∧
    Reads [0x0E1060B0] (.idivBase { d := 12, a := 4, b := 7, stall := 4 }) ∧
    Reads [0x0E1060D4] (.iminBase { d := 12, a := 4, b := 7, stall := 5 }) ∧
    Reads [0x001418F8] (.iabsBase { d := 3, a := 5, b := 0, stall := 6 }) ∧
    Reads [0x0E10611C] (.andBase { d := 12, a := 4, b := 7, stall := 7 }) ∧
    Reads [0x0E106120] (.shlBase { d := 12, a := 4, b := 7, stall := 0 }) ∧
    Reads [0x0E106144] (.bfxBase { d := 12, a := 4, b := 7, stall := 1 }) ∧
    Reads [0x00141968] (.popcBase { d := 3, a := 5, b := 0, stall := 2 }) ∧
    Reads [0x0E10618C] (.permBase { d := 12, a := 4, b := 7, stall := 3 }) ∧
    Reads [0x060809B0] (.icmpBase { d := 1, a := 2, b := 3, stall := 4 }) ∧
    Reads [0x060809D4] (.iselBase { d := 1, a := 2, b := 3, stall := 5 }) ∧
    Reads [0x002461F8] (.movBase { d := 12, a := 9, b := 0, stall := 6 }) :=
  ⟨rfl, rfl, rfl, rfl, rfl, rfl, rfl, rfl, rfl, rfl, rfl, rfl, rfl, rfl, rfl⟩
theorem decodes_base_float :
    Reads [0x0E10621C] (.faddBase { d := 12, a := 4, b := 7, stall := 7 }) ∧
    Reads [0x0E106220] (.fmulBase { d := 12, a := 4, b := 7, stall := 0 }) ∧
    Reads [0x0E106244] (.ffmaBase { d := 12, a := 4, b := 7, stall := 1 }) ∧
    Reads [0x0E106268] (.fminBase { d := 12, a := 4, b := 7, stall := 2 }) ∧
    Reads [0x0E10628C] (.fdivBase { d := 12, a := 4, b := 7, stall := 3 }) ∧
    Reads [0x00141AB0] (.fsqrtBase { d := 3, a := 5, b := 0, stall := 4 }) ∧
    Reads [0x06080B14] (.fcmpBase { d := 1, a := 2, b := 3, stall := 5 }) ∧
    Reads [0x00141B58] (.digBase { d := 3, a := 5, b := 0, stall := 6 }) ∧
    Reads [0x00001B7C] (.randBase { d := 3, a := 0, b := 0, stall := 7 }) ∧
    Reads [0x00141B80] (.frcpBase { d := 3, a := 5, b := 0, stall := 0 }) ∧
    Reads [0x00141BA4] (.fex2Base { d := 3, a := 5, b := 0, stall := 1 }) ∧
    Reads [0x00141BC8] (.fsinBase { d := 3, a := 5, b := 0, stall := 2 }) :=
  ⟨rfl, rfl, rfl, rfl, rfl, rfl, rfl, rfl, rfl, rfl, rfl, rfl⟩
theorem decodes_base_control :
    Reads [0x0000040C] (.braBase { d := 0, a := 0, b := 0, stall := 3 }) ∧
    Reads [0x00001430] (.callBase { d := 2, a := 0, b := 0, stall := 4 }) ∧
    Reads [0x00000454] (.exitBase { d := 0, a := 0, b := 0, stall := 5 }) ∧
    Reads [0x00000C78] (.electBase { d := 1, a := 0, b := 0, stall := 6 }) ∧
    Reads [0x0000049C] (.yieldBase { d := 0, a := 0, b := 0, stall := 7 }) ∧
    Reads [0x000007E0] (.nopBase { d := 0, a := 0, b := 0, stall := 0 }) :=
  ⟨rfl, rfl, rfl, rfl, rfl, rfl⟩
theorem decodes_base_units :
    Reads [0x22008664] (.qcvtBase { d := 16, a := 0, b := 17, stall := 1 }) ∧
    Reads [0x0A100E08] (.shapeBase { d := 1, a := 4, b := 5, stall := 2 }) ∧
    Reads [0x02182E2C] (.matxBase { d := 5, a := 6, b := 1, stall := 3 }) ∧
    Reads [0x00002E50] (.cfzeroBase { d := 5, a := 0, b := 0, stall := 4 }) ∧
    Reads [0x040486B4] (.mq16Base { d := 16, a := 1, b := 2, stall := 5 }) ∧
    Reads [0x00180E98] (.selkBase { d := 1, a := 6, b := 0, stall := 6 }) ∧
    Reads [0x0200151C] (.ldBase { d := 2, a := 0, b := 1, stall := 7 }) ∧
    Reads [0x001C1D20] (.ldlBase { d := 3, a := 7, b := 0, stall := 0 }) ∧
    Reads [0x001C1D44] (.ldsBase { d := 3, a := 7, b := 0, stall := 1 }) ∧
    Reads [0x001C1D68] (.ldfBase { d := 3, a := 7, b := 0, stall := 2 }) ∧
    Reads [0x3E083D8C] (.walkBindBase { d := 7, a := 2, b := 31, stall := 3 }) ∧
    Reads [0x020015B0] (.atomBase { d := 2, a := 0, b := 1, stall := 4 }) ∧
    Reads [0x00182F14] (.xcopyBase { d := 5, a := 6, b := 0, stall := 5 }) ∧
    Reads [0x00100738] (.twaitanyBase { d := 0, a := 4, b := 0, stall := 6 }) ∧
    Reads [0x0E14175C] (.enqBase { d := 2, a := 5, b := 7, stall := 7 }) ∧
    Reads [0x0A080F60] (.rldBase { d := 1, a := 2, b := 5, stall := 0 }) ∧
    Reads [0x00181F84] (.collBase { d := 3, a := 6, b := 0, stall := 1 }) ∧
    Reads [0x000007A8] (.trapBase { d := 0, a := 0, b := 0, stall := 2 }) :=
  ⟨rfl, rfl, rfl, rfl, rfl, rfl, rfl, rfl, rfl, rfl, rfl, rfl, rfl, rfl, rfl, rfl, rfl, rfl⟩

/-- A well-formed instruction and one that differs in what a single check refuses. -/
abbrev Refuses (good bad : Instr) : Prop := good.wf = true ∧ bad.wf = false
/-- 02 R22, R26 to R28, R30: field widths, register files, pairs, operand sources, immediates, literals and field codes. -/
theorem smoke_fields :
    Refuses (.iadd { ts with stall := 31 }) (.iadd { ts with stall := 32 }) ∧ Refuses (.iadd { ts with d := 127 }) (.iadd { ts with d := 128 }) ∧
    Refuses (.iadd { ts with guard := 0 }) (.iadd { ts with guard := 8 }) ∧ Refuses (.bra { tx with imm := 2 ^ 25 - 1 }) (.bra { tx with imm := 2 ^ 25 }) ∧
    Refuses (.iadd { ts with lit := 0 }) (.iadd { ts with lit := 1 }) ∧ Refuses (.iadd { tn with d := 2 }) (.iadd { tn with d := 3 }) ∧
    Refuses (.iadd { tn with a := 2 }) (.iadd { tn with a := 3 }) ∧ Refuses (.iadd { tn with b := 2 }) (.iadd { tn with b := 3 }) ∧
    Refuses (.iadd { ts with mod := 4, a := 63 }) (.iadd { ts with mod := 4, a := 64 }) ∧
    Refuses (.iadd { ts with mod := 2, b := 63 }) (.iadd { ts with mod := 2, b := 64 }) ∧
    Refuses (.iadd { ts with mod := 1, imm := 5 }) (.iadd { ts with mod := 1, imm := 5, b := 1 }) ∧
    Refuses (.iadd { ts with mod := 2 }) (.iadd { ts with mod := 3 }) ∧ Refuses (.iadd { ts with mod := 1, imm := 5 }) (.iadd { ts with imm := 5 }) ∧
    Refuses (.iadd { ts with ty := .s8, mod := 1, imm := 0x1FFFF80 }) (.iadd { ts with ty := .s8, mod := 1, imm := 128 }) ∧
    Refuses (.fadd { tx with b := 1 }) (.fadd { tx with mod := 1, imm := 1 }) ∧ Refuses (.iadd { ts with ty := .n8 }) (.iadd { ts with ty := .f32 }) ∧
    Refuses (.fadd { tx with rnd := .rna }) (.fadd { tx with rnd := .res6 }) ∧ Refuses (.iadd ts) (.iadd { ts with rnd := .rne }) ∧
    Refuses (.iadd ts) (.iadd { ts with ord := .relaxed }) ∧ Refuses (.iadd ts) (.iadd { ts with scope := .block }) ∧
    Refuses (.iadd ts) (.iadd { ts with minor := 1 }) ∧ Refuses (.iadd ts) (.iadd { ts with c := 1 }) := by
  decide +kernel
theorem smoke_literals :
    Refuses (.iadd { ts with form := .baseLit, lit := 0xFFFF_FFFF_8000_0000 }) (.iadd { ts with form := .baseLit, lit := 0xFFFF_FFFF_7000_0000 }) ∧
    Refuses (.iadd { ts with form := .extLit, ty := .n16, lit := 0xFFFF }) (.iadd { ts with form := .extLit, ty := .n16, lit := 0x1_0000 }) ∧
    Refuses (.iadd { ts with form := .extLit }) (.iadd { ts with form := .extLit, b := 1 }) ∧
    Refuses (.iadd { ts with form := .extLit }) (.iadd { ts with form := .extLit, mod := 1 }) ∧
    Refuses (.iabs { ts with form := .ext }) (.iabs { ts with form := .extLit }) ∧ Refuses (.bra { tx with form := .ext }) (.bra { tx with form := .extLit }) ∧
    Refuses (.ldl { tx with form := .ext }) (.ldl { tx with form := .extLit }) ∧ Refuses (.matx { tx with form := .ext }) (.matx { tx with form := .extLit }) ∧
    Refuses (.iadd { ts with form := .extLit }) (.iadd { ts with form := .base }) := by
  decide +kernel
/-- 04 R74 and its control table, 04 R92. -/
theorem smoke_lane :
    Refuses (.icmp { ts with minor := 5, d := 7 }) (.icmp { ts with minor := 6, d := 7 }) ∧ Refuses (.icmp { ts with d := 7 }) (.icmp { ts with d := 8 }) ∧
    Refuses (.fcmp { tx with minor := 7 }) (.fcmp { tx with minor := 8 }) ∧ Refuses (.isel { tb with c := 7 }) (.isel { tb with c := 8 }) ∧
    Refuses (.plop { tb with minor := 1, a := 7 }) (.plop { tb with minor := 1, a := 8 }) ∧
    Refuses (.plop { tb with minor := 1, mod := 2 }) (.plop { tb with minor := 1, mod := 4 }) ∧
    Refuses (.andL tb) (.andL ts) ∧ Refuses (.iabs ts) (.iabs { ts with mod := 1 }) ∧ Refuses (.popc { tn with d := 3 }) (.popc { tn with a := 3 }) ∧
    Refuses (.bfi { tb with minor := 1 }) (.bfi { ts with minor := 1 }) ∧ Refuses (.shl { tn with b := 3 }) (.shl { tn with d := 3 }) ∧
    Refuses (.movi { tb with minor := 1, mod := 1 }) (.movi { tb with minor := 1 }) ∧
    Refuses (.movi { tb with minor := 1, mod := 1 }) (.movi { tb with minor := 1, mod := 1, a := 1 }) ∧
    Refuses (.movk { tb with minor := 2, d := 63 }) (.movk { tb with minor := 2, d := 64 }) ∧
    Refuses (.movs { tb with minor := 3, a := 10 }) (.movs { tb with minor := 3, a := 11 }) ∧
    Refuses (.movs { tn with minor := 3, a := 7 }) (.movs { tn with minor := 3, a := 6 }) ∧
    Refuses (.getc { tb with minor := 4, a := 14 }) (.getc { tb with minor := 4, a := 15 }) ∧
    Refuses (.setc { tb with minor := 5, d := 14 }) (.setc { tb with minor := 5, d := 15 }) ∧
    Refuses (.fdiv { tx with ty := .f64 }) (.fdiv { tx with ty := .f16 }) ∧ Refuses (.fmin tx) (.fmin { tx with rnd := .rne }) ∧
    Refuses (.fclass { tx with minor := 16 }) (.fclass { tx with minor := 16, ty := .f16x2 }) ∧
    Refuses (.fcvt { tx with c := 1 }) (.fcvt { tx with c := 0 }) ∧ Refuses (.fcvt { tx with ty := .f16x2 }) (.fcvt { tx with ty := .f16x2, c := 2 }) ∧
    Refuses (.fcvti { ts with minor := 1 }) (.fcvti { ts with minor := 1, c := 6 }) ∧
    Refuses (.icvtf { tx with minor := 2, c := 13 }) (.icvtf { tx with minor := 2, c := 14 }) ∧
    Refuses (.sibg { tb with minor := 1 }) (.sibg { ts with minor := 1 }) ∧ Refuses (.rand tn) (.rand { tn with a := 2 }) := by
  decide +kernel
theorem smoke_control :
    Refuses (.bra tx) (.bra { tx with a := 1 }) ∧ Refuses (.jmp { tx with minor := 1, a := 2 }) (.jmp { tx with minor := 1, a := 3 }) ∧
    Refuses (.jmp { tx with minor := 1, mod := 4, a := 62 }) (.jmp { tx with minor := 1, mod := 4, a := 64 }) ∧
    Refuses (.call { tx with d := 2 }) (.call { tx with d := 3 }) ∧ Refuses (.call { tx with mod := 1 }) (.call { tx with mod := 1, imm := 1 }) ∧
    Refuses (.ret { tx with minor := 1 }) (.ret { tx with minor := 1, imm := 1 }) ∧ Refuses (.exitT tx) (.exitT { tx with imm := 1 }) ∧
    Refuses (.elect { tx with d := 7 }) (.elect { tx with d := 8 }) ∧ Refuses (.vote { tx with minor := 1, mod := 2, d := 2 }) (.vote { tx with minor := 1, mod := 3 }) ∧
    Refuses (.vote { tx with minor := 1, d := 7 }) (.vote { tx with minor := 1, d := 8 }) ∧ Refuses (.nop tx) (.nop { tx with ty := .s32 }) ∧
    Refuses (.hint { tx with minor := 0x37F }) (.hint { tx with minor := 0x380 }) ∧ Refuses (.hint { tx with minor := 1 }) (.hint tx) := by
  decide +kernel
/-- 05 R119, R123; 06 R127; 07 R141; 08 R164. -/
theorem smoke_units :
    Refuses (.qcvt { tx with b := 17 }) (.qcvt { tx with mod := 7, b := 17 }) ∧ Refuses (.qcvt { tx with b := 17, a := 120 }) (.qcvt { tx with b := 17, a := 121 }) ∧
    Refuses (.qcvt { tx with mod := 6, d := 4, b := 8 }) (.qcvt { tx with mod := 6, d := 6, b := 17 }) ∧
    Refuses (.qcvt { tx with mod := 6, d := 4, b := 8 }) (.qcvt { tx with mod := 6, d := 4, b := 7 }) ∧
    Refuses (.dqcvt { tx with minor := 1, d := 120 }) (.dqcvt { tx with minor := 1, d := 121 }) ∧
    Refuses (.dqcvt { tx with minor := 1, mod := 6, a := 124 }) (.dqcvt { tx with minor := 1, mod := 6, a := 126 }) ∧
    Refuses (.plpack { tx with minor := 2, d := 123 }) (.plpack { tx with minor := 2, d := 124 }) ∧
    Refuses (.plpack { tx with minor := 2 }) (.plpack { tx with minor := 2, rnd := .rne }) ∧
    Refuses (.shape { tx with d := 7 }) (.shape { tx with d := 8 }) ∧ Refuses (.shape { tx with mod := 6 }) (.shape { tx with mod := 1 }) ∧
    Refuses (.shget { tx with minor := 1, a := 7 }) (.shget { tx with minor := 1, a := 8 }) ∧ Refuses (.matx { tx with d := 63 }) (.matx { tx with d := 64 }) ∧
    Refuses (.matx { tx with b := 7 }) (.matx { tx with b := 8 }) ∧ Refuses (.mstat { tx with minor := 1, d := 4 }) (.mstat { tx with minor := 1, d := 6 }) ∧
    Refuses (.mreset { tx with minor := 2 }) (.mreset { tx with minor := 2, d := 1 }) ∧ Refuses (.cfzero { tx with imm := 3 }) (.cfzero { tx with imm := 4 }) ∧
    Refuses (.cfread { tx with minor := 1, a := 1 }) (.cfread { tx with minor := 1, mod := 1, a := 1 }) ∧
    Refuses (.fold { tx with minor := 2, rnd := .rna }) (.fold { tx with minor := 2, rnd := .res7 }) ∧
    Refuses (.drain { tx with minor := 3, imm := 11 }) (.drain { tx with minor := 3, imm := 12 }) ∧
    Refuses (.drain { tx with minor := 3, b := 31 }) (.drain { tx with minor := 3, b := 32 }) ∧ Refuses (.mq16 { tx with d := 112 }) (.mq16 { tx with d := 113 }) ∧
    Refuses (.mq32 { tx with minor := 1, d := 96 }) (.mq32 { tx with minor := 1, d := 97 }) ∧ Refuses (.selk { tx with ty := .f16 }) (.selk { tx with ty := .f64 }) ∧
    Refuses (.smax { tx with minor := 1, rnd := .rne }) (.samp { tx with minor := 2, rnd := .rne }) := by
  decide +kernel
/-- 11 R210, 12 R218, R235. -/
theorem smoke_memory :
    Refuses (.ld { tb with b := 31 }) (.ld { tb with b := 32 }) ∧ Refuses (.ld { tb with ord := .acquire }) (.ld { tb with ord := .release }) ∧
    Refuses (.ld { tb with ord := .relaxed, scope := .block }) (.ld { tb with scope := .block }) ∧ Refuses (.ld { tb with mod := 2, c := 1 }) (.ld { tb with c := 1 }) ∧
    Refuses (.ld { tb with mod := 1 }) (.ld { tb with mod := 5 }) ∧ Refuses (.ld { tb with mod := 1 }) (.ld { tb with mod := 1, a := 1 }) ∧
    Refuses (.st { tb with minor := 1 }) (.st { tb with minor := 1, ord := .acquire }) ∧ Refuses (.ldbuf { tx with minor := 2, d := 31 }) (.ldbuf { tx with minor := 2, d := 32 }) ∧
    Refuses (.prf { tx with minor := 3 }) (.prf { tx with minor := 3, d := 1 }) ∧ Refuses (.ldl tb) (.ldl { tb with ord := .relaxed }) ∧
    Refuses (.lds { tb with ord := .acquire, scope := .core }) (.lds { tb with ord := .acquire, scope := .die }) ∧
    Refuses (.ldl tb) (.ldl { tb with mod := 2 }) ∧ Refuses (.ldx { tb with minor := 2, c := 7 }) (.ldx { tb with minor := 2, c := 8 }) ∧
    Refuses (.ldx { tb with minor := 2 }) (.ldx { tn with minor := 2 }) ∧ Refuses (.tagset { tx with minor := 2, mod := 2, b := 1 }) (.tagset { tx with minor := 2, b := 1 }) := by
  decide +kernel
theorem smoke_atomics :
    Refuses (.walkBind { tx with d := 7 }) (.walkBind { tx with d := 8 }) ∧ Refuses (.walkNext { tx with mod := 1, a := 7 }) (.walkNext { tx with mod := 1, a := 8 }) ∧
    Refuses (.atom { tb with minor := 3 }) (.atom { tb with minor := 0 }) ∧ Refuses (.atom { tn with c := 2 }) (.atom { tn with c := 3 }) ∧
    Refuses (.atom { ts with mod := 2, c := 63 }) (.atom { ts with mod := 2, c := 64 }) ∧ Refuses (.red { ts with minor := 23, d := 1 }) (.red { ts with minor := 22, d := 1 }) ∧
    Refuses (.red { ts with minor := 16, ord := .release }) (.red { ts with minor := 16, ord := .acquire }) ∧
    Refuses (.fence { tx with ord := .sc, scope := .system }) (.fence { tx with ord := .relaxed }) ∧
    Refuses (.fence { tx with ord := .sc }) (.fence { tx with ord := .sc, guard := 6 }) ∧ Refuses (.fence { tx with ord := .sc }) (.fence { tx with ord := .sc, neg := true }) ∧
    Refuses (.barArrive { tx with minor := 1 }) (.barArrive { tx with minor := 1, ord := .relaxed }) ∧
    Refuses (.barWait { tx with minor := 2 }) (.barWait { tx with minor := 2, d := 1 }) ∧ Refuses (.syncop { tx with minor := 3, b := 7 }) (.syncop { tx with minor := 3, b := 8 }) ∧
    Refuses (.syncop { tx with minor := 3, b := 1, ord := .release }) (.syncop { tx with minor := 3, ord := .release }) ∧
    Refuses (.syncop { tx with minor := 3 }) (.syncop { tx with minor := 3, mod := 1 }) ∧ Refuses (.syncop { tx with minor := 3, scope := .system }) (.syncop { tx with minor := 3, scope := .res7 }) ∧
    Refuses (.ownGive { tx with minor := 1, mod := 1, imm := 127 }) (.ownGive { tx with minor := 1, mod := 1, imm := 128 }) ∧
    Refuses (.ownTake { tx with minor := 2, mod := 1, imm := 127 }) (.ownTake { tx with minor := 2, mod := 1, imm := 128 }) ∧
    Refuses (.xcopy { tx with d := 63 }) (.xcopy { tx with d := 64 }) ∧ Refuses (.twaitany { tx with mod := 1, imm := 63 }) (.twaitany { tx with mod := 1, imm := 64 }) ∧
    Refuses (.twaitall { tx with minor := 1, a := 2 }) (.twaitall { tx with minor := 1, a := 3 }) ∧ Refuses (.tfirst { tx with minor := 2, d := 1 }) (.tfirst { tx with minor := 2, b := 1 }) := by
  decide +kernel
/-- 15 R261, R274; 16 R292, R295, R301; 19 R350. -/
theorem smoke_calls_traps :
    Refuses (.enq { tx with b := 7 }) (.enq { tx with b := 8 }) ∧ Refuses (.deq { tx with minor := 1, d := 2 }) (.deq { tx with minor := 1, d := 3 }) ∧
    Refuses (.dlaunch { tx with minor := 2, a := 2 }) (.dlaunch { tx with minor := 2, a := 3 }) ∧ Refuses (.rld { ts with a := 2 }) (.rld { ts with a := 3 }) ∧
    Refuses (.rst { ts with minor := 1 }) (.rst { ts with minor := 1, mod := 1 }) ∧ Refuses (.ratom { tb with minor := 2, mod := 3 }) (.ratom { tb with minor := 2, mod := 2 }) ∧
    Refuses (.coll { tx with d := 63 }) (.coll { tx with d := 64 }) ∧ Refuses (.callr { tx with minor := 1 }) (.callr { tx with minor := 1, b := 2 }) ∧
    Refuses (.callh { tx with minor := 2, b := 2 }) (.callh { tx with minor := 2, b := 3 }) ∧ Refuses (.waith { tx with minor := 3, mod := 4 }) (.waith { tx with minor := 3, mod := 1 }) ∧
    Refuses (.drophRelease { tx with minor := 4 }) (.drophRelease { tx with minor := 4, mod := 1 }) ∧ Refuses (.drophBreak { tx with minor := 4, mod := 5 }) (.drophBreak { tx with minor := 4, mod := 2 }) ∧
    Refuses (.hstat { tx with minor := 5, mod := 5 }) (.hstat { tx with minor := 5, mod := 2 }) ∧ Refuses (.trap { tx with imm := 0xFFFF }) (.trap { tx with imm := 0x10000 }) ∧
    Refuses (.rett { tx with minor := 1 }) (.rett { tx with minor := 1, guard := 0 }) ∧ Refuses (.frd { tx with minor := 2, d := 2 }) (.frd { tx with minor := 2, d := 1 }) ∧
    Refuses (.fwr { tx with minor := 3 }) (.fwr { tx with minor := 3, neg := true }) ∧ Refuses (.grpctl { tx with minor := 4, mod := 2 }) (.grpctl { tx with minor := 4, mod := 3 }) ∧
    Refuses (.tlbi { tx with minor := 5, mod := 1 }) (.tlbi { tx with minor := 5, mod := 1, a := 2 }) ∧ Refuses (.bkpt { tx with minor := 6, imm := 1 }) (.bkpt { tx with minor := 6, imm := 0x10000 }) ∧
    Refuses (.iaddBase { d := 127, a := 0, b := 0, stall := 7 }) (.iaddBase { d := 127, a := 0, b := 0, stall := 8 }) ∧
    Refuses (.exitBase { d := 0, a := 0, b := 0, stall := 0 }) (.exitBase { d := 1, a := 0, b := 0, stall := 0 }) ∧ (Instr.gridComplete 1).wf = false := by
  decide +kernel
/-- 02 R35, R38, R39: a word of a reserved major, of a minor that no row has, or too short is no instruction. -/
theorem smoke_decode :
    decode (wordBytes [0x000007C0]) = .error .unassigned ∧ decode (wordBytes [0x00000001, 0x00001C00, 0]) = .error .unassigned ∧
    decode (wordBytes [0x000005C0]) = .error .unassigned ∧ decode (wordBytes [0x00000021, 0x00061C01, 0]) = .error .unassigned ∧
    decode (wordBytes [0x000007E1, 0x00001F80, 0]) = .error .unassigned ∧ decode (wordBytes [0x00000021, 0x000F1C00, 0]) = .error .field ∧
    decode (wordBytes [0x00000021, 0x00061C00]) = .error .short :=
  ⟨rfl, rfl, rfl, rfl, rfl, rfl, rfl⟩

/-- Register v`n` of sibling `j` of block 1's member once the step's writes are complete, and its pc and icount. -/
def after (o : Host.Outcome State Fault Refusal) (j n : Nat) : Option W32 := match o with
  | .next t => some (((((t.member 1 0).sibs.getD j Regs.zero).age 31)).lane n)
  | _ => none
def afterPc (o : Host.Outcome State Fault Refusal) : Option (Nat × W64) := match o with
  | .next t => some ((t.member 1 0).pc, (t.member 1 0).icount)
  | _ => none
def solo (v : SMap W32) : State := state1 (block1 (mem1 v))
/-- 03 R50 and its example; 10 R184's example of a home die. -/
theorem test_draw_word : draw 0 5 3 = 0x8035_A001 := by decide +kernel
theorem test_home_die : homeDie 0 0x1_0040_2000 = 2 := by decide
/-- 03, one drawn addition: tid 5, icount 3, 1 + 2^-24. -/
theorem test_fadd_drawn :
    let m := mem3 [(1, 0x3F80_0000), (2, 0x3380_0000)]
    let s := state1 { block1 { m with icount := 3 } with blk := 5 }
    let o := exec (.fadd { tx with d := 3, a := 1, b := 2, stall := 4 }) s
    [after o 0 3, after o 1 3, after o 2 3] = [some 0x3F80_0001, some 0x3F80_0000, some 0x3F80_0000] := by
  decide +kernel
/-- 03, the digit count of the next line. -/
theorem test_dig :
    let one : W32 := 0x3F80_0000
    let s := state1 { block1 { mem3 [] with sibs := [{ Regs.zero with v := [(3, one + 1)] }, { Regs.zero with v := [(3, one)] }, { Regs.zero with v := [(3, one)] }] } with blk := 5 }
    after (exec (.dig { tx with d := 4, a := 3, stall := 6 }) s) 1 4 = some 22 := by
  decide +kernel
/-- 05, one block through QCVT and DQCVT. -/
theorem test_qcvt :
    let v : SMap W32 := [(0, 0x3F40_0000), (1, 0xC020_0000), (2, 0), (3, 0x4120_0000), (4, 0x3F99_999A), (5, 0xBDCC_CCCD), (6, 0x4040_0000), (7, 0x40B0_0000)]
    let o := exec (.qcvt { tx with rnd := .rne, d := 16, b := 17, c := 8 }) (solo v)
    [after o 0 16, after o 0 17] = [some 0x5301_60A1, some 0x0000_0080] := by
  decide +kernel
theorem test_dqcvt :
    let o := exec (.dqcvt { tx with minor := 1, rnd := .rne, d := 24, a := 16, b := 17, c := 8 }) (solo [(16, 0x5301_60A1), (17, 0x80)])
    (List.range 8).map (fun k => after o 0 (24 + k)) =
      [some 0x3F80_0000, some 0xC000_0000, some 0, some 0x4100_0000, some 0x3F80_0000, some 0, some 0x4040_0000, some 0x40C0_0000] := by
  decide +kernel
/-- 04, sum3: the addition of -1 and the taken branch. -/
theorem test_iadd_minus_one :
    let o := exec (.iadd { ts with mod := 1, d := 1, a := 1, imm := 0x1FF_FFFF, stall := 2 }) (solo [(1, 3)])
    after o 0 1 = some 2 ∧ afterPc o = some (0x100C, 1) := by
  decide +kernel
theorem test_bra_taken :
    let s := state1 (block1 { mem1 [] with pc := 0x34, icount := 5 })
    afterPc (exec (.bra { tx with imm := 0x1FF_FFF6 }) s) = some (0x18, 6) := by
  decide +kernel

end Sys2Proof.Tests
end

section
/-!
Proof of O53: time, the issue of entries, the issue tables, interlocks, results and power states. Each part says once what an operation of
Sys2Proof/Machine/Sched.lean, or one that it uses, does; the theorem at the end puts the parts together.
-/
namespace Sys2Proof.Machine

theorem SMap.lookup_map {α β : Type} (f : Nat → α → β) (m : SMap α) (k : Nat) :
    List.lookup k (m.map (fun kv => (kv.1, f kv.1 kv.2))) = (m.lookup k).map (f k) := by
  induction m with
  | nil => rfl
  | cons e r ih =>
    obtain ⟨j, v⟩ := e
    by_cases h : k = j
    · simp [h]
    · have hj : (k == j) = false := by simpa using h
      simpa [List.lookup_cons, hj] using ih

/-- A map rebuilt entry by entry reads at a key what the rebuilt entry holds, when nothing is made of a default. -/
theorem SMap.get_map {α β : Type} (f : Nat → α → β) (d : α) (d' : β) (m : SMap α) (k : Nat) (h : m.lookup k = none → f k d = d') :
    SMap.get d' (m.map (fun kv => (kv.1, f kv.1 kv.2))) k = f k (SMap.get d m k) := by
  unfold SMap.get
  rw [SMap.lookup_map]
  cases e : m.lookup k with
  | none => exact (h e).symm
  | some v => rfl

/-! Core cycles that pass on a die (00 R3; 15 R264). -/

theorem tickAll_stopped {s : State} {d n : Nat} (h : (s.die d).clocked = false ∨ n = 0) : tickAll s d n = s := by
  unfold tickAll
  rcases h with h | h <;> simp [h]

/-- The state after `n` cycles of die `d` without what its cores count: its CYC and what its running threads count. -/
def tickThreads (s : State) (d n : Nat) : State :=
  { tickDie s d n with blocks := s.blocks.map (fun kv => (kv.1, if coreDie kv.2.core = d then kv.2.ticked n else kv.2)) }

theorem tickDie_clocked {s : State} {d : Nat} (n : Nat) (h : (s.die d).clocked = true) :
    ∃ x y, tickDie s d n = s.setDie d { s.die d with cyc := (s.die d).cyc + BitVec.ofNat 64 n, ncyc := x, ncycFrac := y } := by
  unfold tickDie
  simp only [h, Bool.not_true, Bool.false_eq_true, if_false]
  exact ⟨_, _, rfl⟩

theorem tickDie_frame (s : State) (d n : Nat) : ∃ D, tickDie s d n = { s with dies := D } := by
  unfold tickDie
  simp only
  split
  · exact ⟨s.dies, rfl⟩
  · exact ⟨_, rfl⟩

theorem tickAll_clocked {s : State} {d n : Nat} (h : (s.die d).clocked = true) (hn : n ≠ 0) :
    tickAll s d n = { tickThreads s d n with
      cores := s.cores.map (fun kv => (kv.1, if coreDie kv.1 = d then tickCore (tickThreads s d n) kv.1 n else kv.2)) } := by
  obtain ⟨D, hD⟩ := tickDie_frame s d n
  simp only [tickAll, tickThreads, h, hD, Bool.not_true, Bool.false_or, beq_iff_eq, hn, if_false]

theorem tickThreads_core (s : State) (d n c : Nat) : (tickThreads s d n).core c = s.core c := by
  obtain ⟨D, hD⟩ := tickDie_frame s d n
  rw [tickThreads, hD]; rfl

theorem Block.ticked_member (n : Nat) (B : Block) (i : Nat) : (B.ticked n).member i =
    if B.state = .running then { B.member i with space := (B.member i).space - n, spin := (B.member i).spin - n } else B.member i := by
  unfold Block.ticked
  by_cases h : B.state = .running
  · rw [if_pos (by simpa using h), if_pos h]
    exact SMap.get_map (fun _ m => { m with space := m.space - n, spin := m.spin - n }) Member.none Member.none B.members i
      (by simp [Member.none])
  · rw [if_neg (by simpa using h), if_neg h]

theorem tickThreads_block (s : State) (d n b : Nat) :
    (tickThreads s d n).block b = if coreDie (s.block b).core = d then (s.block b).ticked n else s.block b :=
  SMap.get_map (fun _ (B : Block) => if coreDie B.core = d then B.ticked n else B) Block.none Block.none s.blocks b (fun _ => ite_self _)

theorem tickThreads_member (s : State) (d n b i : Nat) : (tickThreads s d n).member b i =
    if coreDie (s.block b).core = d ∧ (s.block b).state = .running then
      { s.member b i with space := (s.member b i).space - n, spin := (s.member b i).spin - n } else s.member b i := by
  unfold State.member
  rw [tickThreads_block]
  by_cases h : coreDie (s.block b).core = d
  · simp [h, Block.ticked_member]
  · simp [h]

theorem tickCore_reset {s : State} {c : Nat} (n : Nat) (h : s.core c = CoreSt.reset) : tickCore s c n = CoreSt.reset := by
  unfold tickCore tickMat
  rw [h]; rfl

theorem tickAll_core {s : State} {d n : Nat} (h : (s.die d).clocked = true) (hn : n ≠ 0) (c : Nat) :
    (tickAll s d n).core c = if coreDie c = d then tickCore (tickThreads s d n) c n else s.core c := by
  rw [tickAll_clocked h hn]
  refine SMap.get_map (fun k C => if coreDie k = d then tickCore (tickThreads s d n) k n else C) CoreSt.reset CoreSt.reset s.cores c ?_
  intro hc
  have hr : s.core c = CoreSt.reset := by simp [State.core, SMap.get, hc]
  rw [tickCore_reset n ((tickThreads_core s d n c).trans hr), ite_self]

theorem tickCore_tickThreads (s : State) (d c n : Nat) : tickCore (tickThreads s d n) c n = { tickMat (tickThreads s d n) c n with
    tables := (s.core c).tables.map (fun kv => (kv.1, kv.2.map (fun e => { e with
      age := e.age + n, idle := if readyOf (tickThreads s d n) e = [] then e.idle + n else 0 }))) } := by
  have h : Entry.ticked (tickThreads s d n) n =
      fun e => { e with age := e.age + n, idle := if readyOf (tickThreads s d n) e = [] then e.idle + n else 0 } := by
    funext e
    simp only [Entry.ticked, beq_iff_eq]
  rw [tickCore, h, tickThreads_core]

/-- Cycles of a die change dies, blocks and cores only. -/
theorem tickAll_frame (s : State) (d n : Nat) : ∃ D B C, tickAll s d n = { s with dies := D, blocks := B, cores := C } := by
  by_cases h : (s.die d).clocked = true ∧ n ≠ 0
  · obtain ⟨D, hD⟩ := tickDie_frame s d n
    exact ⟨D, _, _, by rw [tickAll_clocked h.1 h.2, tickThreads, hD]⟩
  · rw [tickAll_stopped (by grind)]
    exact ⟨s.dies, s.blocks, s.cores, rfl⟩

theorem tickAll_die {s : State} {d n : Nat} (h : (s.die d).clocked = true) (hn : n ≠ 0) : ∃ x y, ∀ k, (tickAll s d n).die k =
    if k = d then { s.die d with cyc := (s.die d).cyc + BitVec.ofNat 64 n, ncyc := x, ncycFrac := y } else s.die k := by
  obtain ⟨x, y, e⟩ := tickDie_clocked n h
  refine ⟨x, y, fun k => ?_⟩
  rw [tickAll_clocked h hn, tickThreads, e]
  exact State.setDie_die ..

theorem tickAll_cyc {s : State} {d n : Nat} (h : (s.die d).clocked = true) (hn : n ≠ 0) :
    ((tickAll s d n).die d).cyc = (s.die d).cyc + BitVec.ofNat 64 n := by
  obtain ⟨x, y, e⟩ := tickAll_die h hn
  rw [e, if_pos rfl]

theorem tickAll_die_other {s : State} {d n : Nat} (h : (s.die d).clocked = true) (hn : n ≠ 0) {k : Nat} (hk : k ≠ d) :
    (tickAll s d n).die k = s.die k := by
  obtain ⟨x, y, e⟩ := tickAll_die h hn
  rw [e, if_neg hk]

/-- A die's CYC goes on with its own clock only, and no clock starts or stops. -/
theorem tickAll_clock (s : State) (d n k : Nat) : ((tickAll s d n).die k).clocked = (s.die k).clocked ∧
    ((tickAll s d n).die k).cyc = if k = d ∧ (s.die k).clocked = true then (s.die k).cyc + BitVec.ofNat 64 n else (s.die k).cyc := by
  by_cases h : (s.die d).clocked = true
  · by_cases hn : n = 0
    · rw [tickAll_stopped (.inr hn)]; simp [hn]
    · obtain ⟨x, y, e⟩ := tickAll_die h hn
      rw [e]
      by_cases hk : k = d
      · subst hk
        simp only [if_true, true_and, h]
        exact ⟨h, trivial⟩
      · simp [hk]
  · rw [tickAll_stopped (.inl (by simpa using h))]
    grind

theorem tickAll_reft_mem (s : State) (d n : Nat) : (tickAll s d n).reft = s.reft ∧ (tickAll s d n).mem = s.mem := by
  obtain ⟨D, B, C, e⟩ := tickAll_frame s d n
  rw [e]
  exact ⟨rfl, rfl⟩

theorem tickAll_member {s : State} {d n : Nat} (h : (s.die d).clocked = true) (hn : n ≠ 0) (b i : Nat) : (tickAll s d n).member b i =
    if coreDie (s.block b).core = d ∧ (s.block b).state = .running then
      { s.member b i with space := (s.member b i).space - n, spin := (s.member b i).spin - n } else s.member b i := by
  rw [← tickThreads_member, tickAll_clocked h hn]
  rfl

theorem foldl_tickAll_frame (f : Nat → Nat) (l : List Nat) (s : State) :
    ∃ D B C, l.foldl (fun s d => tickAll s d (f d)) s = { s with dies := D, blocks := B, cores := C } := by
  induction l generalizing s with
  | nil => exact ⟨s.dies, s.blocks, s.cores, rfl⟩
  | cons d r ih =>
    obtain ⟨D, B, C, e⟩ := tickAll_frame s d (f d)
    obtain ⟨D', B', C', e'⟩ := ih (tickAll s d (f d))
    exact ⟨D', B', C', by rw [List.foldl_cons, e', e]⟩

theorem foldl_tickAll_cyc (f : Nat → Nat) (l : List Nat) (hl : l.Nodup) (s : State) (k : Nat) :
    ((l.foldl (fun s d => tickAll s d (f d)) s).die k).cyc =
      if k ∈ l ∧ (s.die k).clocked = true then (s.die k).cyc + BitVec.ofNat 64 (f k) else (s.die k).cyc := by
  induction l generalizing s with
  | nil => simp
  | cons d r ih =>
    obtain ⟨hd, hr⟩ := List.nodup_cons.mp hl
    obtain ⟨hc, hy⟩ := tickAll_clock s d (f d) k
    rw [List.foldl_cons, ih hr, hc, hy]
    by_cases hk : k = d
    · subst hk; simp [hd]
    · simp [hk]

/-- The cycles of each die that pass before an event on one of them (15 R278; notes/assumptions/2.md). -/
def elapsedCycles (s : State) (die least k : Nat) : Nat :=
  (Config.freeValue s.choice).toNat / 2 ^ (8 * k) % 2 ^ 8 + (if k = die then least else 0)

/-- The state before an event when the cycles of every die have passed. -/
def afterCycles (s : State) (die least : Nat) : State :=
  (List.range 4).foldl (fun t k => tickAll t k (elapsedCycles s die least k)) { s with choice := s.choice + 1 }

theorem elapse_eq (s : State) (d least : Nat) : elapse s d least =
    (let u := afterCycles s d least
     let v : State := { u with reft := u.reft + BitVec.ofNat 64 ((Config.freeValue s.choice).toNat / 2 ^ 32) }
     let w : State := { v with beats := beatsOf v }
     { w with agenda := w.agenda ++ dueTasks w }) := by
  simp only [elapse, State.free, afterCycles, elapsedCycles, beq_iff_eq]

theorem elapse_die (s : State) (d least k : Nat) : (elapse s d least).die k = (afterCycles s d least).die k := by
  rw [elapse_eq]; rfl

/-- What the passing of time does to what is no clock of a die. -/
theorem elapse_spec (s : State) (d least : Nat) :
    (elapse s d least).reft = s.reft + BitVec.ofNat 64 ((Config.freeValue s.choice).toNat / 2 ^ 32) ∧
    (elapse s d least).choice = s.choice + 1 ∧ (elapse s d least).mem = s.mem ∧
    (elapse s d least).agenda = s.agenda ++ dueTasks { elapse s d least with agenda := s.agenda } := by
  obtain ⟨D, B, C, e⟩ := foldl_tickAll_frame (elapsedCycles s d least) (List.range 4) { s with choice := s.choice + 1 }
  rw [elapse_eq, afterCycles, e]
  exact ⟨rfl, rfl, rfl, rfl⟩

theorem elapse_cyc (s : State) (d least : Nat) {k : Nat} (hk : k < 4) : ((elapse s d least).die k).cyc =
    if (s.die k).clocked = true then (s.die k).cyc + BitVec.ofNat 64 (elapsedCycles s d least k) else (s.die k).cyc := by
  rw [elapse_die, afterCycles, foldl_tickAll_cyc _ _ List.nodup_range]
  simp only [List.mem_range, hk, true_and]
  rfl

/-! The entry that a quarter issues (15 R264). -/

/-- An entry goes no later than another under a measure: a greater one, or an equal one with no higher PC. -/
def Leads (key : Entry → Nat) (e f : Entry) : Prop := key f < key e ∨ key f = key e ∧ e.pc ≤ f.pc

theorem Leads.refl (key : Entry → Nat) (e : Entry) : Leads key e e := .inr ⟨rfl, Nat.le_refl _⟩

theorem Leads.trans {key : Entry → Nat} {e f g : Entry} (h : Leads key e f) (k : Leads key f g) : Leads key e g := by
  unfold Leads at *
  omega

theorem goesBefore_leads {key : Entry → Nat} {a c : Entry} :
    (goesBefore key c a = true → Leads key c a) ∧ (goesBefore key c a = false → Leads key a c) := by
  simp only [goesBefore, Leads, Bool.or_eq_true, Bool.and_eq_true, decide_eq_true_eq, beq_iff_eq, ← Bool.not_eq_true]
  omega

/-- The choice keeps an entry that leads all those seen so far. -/
theorem bestBy_cons_leads (key : Entry → Nat) (r : List Entry) (a : Entry) :
    ∃ e, bestBy key (a :: r) = some e ∧ e ∈ a :: r ∧ ∀ f ∈ a :: r, Leads key e f := by
  induction r generalizing a with
  | nil => exact ⟨a, rfl, List.mem_cons_self, by simp [Leads.refl]⟩
  | cons c r ih =>
    have step : ∀ w, bestBy key (a :: c :: r) = bestBy key (w :: r) → (w = a ∨ w = c) → Leads key w a → Leads key w c →
        ∃ e, bestBy key (a :: c :: r) = some e ∧ e ∈ a :: c :: r ∧ ∀ f ∈ a :: c :: r, Leads key e f := by
      intro w hb hw ha hc
      obtain ⟨e, he, hm, hl⟩ := ih w
      have top := hl w List.mem_cons_self
      refine ⟨e, hb.trans he, by grind, fun f hf => ?_⟩
      simp only [List.mem_cons] at hf
      rcases hf with rfl | rfl | hf
      · exact top.trans ha
      · exact top.trans hc
      · exact hl f (List.mem_cons_of_mem _ hf)
    cases h : goesBefore key c a with
    | true => exact step c (by simp [bestBy, h]) (.inr rfl) (goesBefore_leads.1 h) (.refl ..)
    | false => exact step a (by simp [bestBy, h]) (.inl rfl) (.refl ..) (goesBefore_leads.2 h)

theorem bestBy_none {key : Entry → Nat} {l : List Entry} : bestBy key l = none ↔ l = [] := by
  cases l <;> simp [bestBy]

theorem bestBy_some {key : Entry → Nat} {l : List Entry} {e : Entry} (h : bestBy key l = some e) :
    e ∈ l ∧ ∀ f ∈ l, Leads key e f := by
  cases l with
  | nil => cases h
  | cons a r =>
    obtain ⟨e', he, hm, hl⟩ := bestBy_cons_leads key r a
    obtain rfl := Option.some.inj (he.symm.trans h)
    exact ⟨hm, hl⟩

/-- The measure of the selection rule: the age once an entry with a ready thread is older than 64 cycles, else the rank with the age. -/
def issueKey (s : State) (t : List Entry) (e : Entry) : Nat :=
  if t.any (fun f => readyOf s f != [] && decide (64 < f.age)) then e.age else rankOf s e (readyOf s e) + e.age

theorem pickEntry_eq (s : State) (t : List Entry) :
    pickEntry s t = bestBy (issueKey s t) (t.filter (fun e => readyOf s e != [])) := by
  unfold pickEntry issueKey
  simp only [List.any_filter]
  split <;> rfl

theorem pickEntry_none {s : State} {t : List Entry} : pickEntry s t = none ↔ ∀ e, ¬ (e ∈ t ∧ readyOf s e ≠ []) := by
  rw [pickEntry_eq, bestBy_none, List.filter_eq_nil_iff]
  simp

theorem pickEntry_some {s : State} {t : List Entry} {e : Entry} (h : pickEntry s t = some e) :
    (e ∈ t ∧ readyOf s e ≠ []) ∧ ∀ f, f ∈ t ∧ readyOf s f ≠ [] → Leads (issueKey s t) e f := by
  rw [pickEntry_eq] at h
  simpa using bestBy_some h

/-! The issue of the selected entry (15 R264; 19 R343; 20 R362). -/

/-- The state in which a selected entry issues: its age is 0. -/
def withAgeZero (s : State) (c q : Nat) (e : Entry) : State :=
  s.setCore c { s.core c with
    tables := SMap.put (s.core c).tables q ((s.table c q).map (fun f => if f = e then { f with age := 0 } else f)) }

theorem logFull_iff {s : State} {b n : Nat} : logFull s b n = true ↔ ∃ k, (s.block b).course = some k ∧ (s.block b).state = .running ∧
    k.current.log ≠ [] ∧ logRoom (s.debug (s.block b).region) k.current < k.current.log.length + n := by
  unfold logFull
  cases (s.block b).course with
  | none => simp
  | some k => simp [and_assoc]

theorem issueEntries_eq (s : State) (b : Nat) (l : List Nat) : issueEntries s b l = (l.map (fun i => 12 * (s.member b i).nsib)).sum := by
  rw [issueEntries, List.sum_eq_foldl, List.foldl_map]

theorem issueEntry_eq (s : State) (c q : Nat) (e : Entry) (ready : List Nat) : issueEntry s c q e ready =
    match ready.find? (fun i => ((withAgeZero s c q e).member e.blk i).pendCause ≠ []) with
    | some i => raiseHeld (withAgeZero s c q e) e.blk i
    | none =>
      if logFull (withAgeZero s c q e) e.blk (issueEntries (withAgeZero s c q e) e.blk ready) then nextCourse (withAgeZero s c q e) e.blk
      else { withAgeZero s c q e with cur := some { blk := e.blk, mems := ready, words := none } } := by
  have hp : (fun i => decide (((withAgeZero s c q e).member e.blk i).pendCause ≠ [])) =
      fun i => ((withAgeZero s c q e).member e.blk i).pendCause != [] := by
    funext i
    simp [bne, Bool.beq_eq_decide_eq]
  have ht : withAgeZero s c q e = s.setCore c { s.core c with
      tables := SMap.put (s.core c).tables q ((s.table c q).map (fun f => if f == e then { f with age := 0 } else f)) } := by
    simp only [withAgeZero, beq_iff_eq]
  rw [hp, ht]
  rfl

theorem logFull_issueEntries {s : State} {b : Nat} {l : List Nat} : logFull s b (issueEntries s b l) = true ↔
    ∃ k, (s.block b).course = some k ∧ (s.block b).state = .running ∧ k.current.log ≠ [] ∧
      logRoom (s.debug (s.block b).region) k.current < k.current.log.length + (l.map (fun i => 12 * (s.member b i).nsib)).sum := by
  rw [logFull_iff, issueEntries_eq]

theorem issueEntry_raises {s : State} {c q i : Nat} {e : Entry} {ready : List Nat}
    (h : ready.find? (fun i => ((withAgeZero s c q e).member e.blk i).pendCause ≠ []) = some i) :
    issueEntry s c q e ready = raiseHeld (withAgeZero s c q e) e.blk i := by
  rw [issueEntry_eq, h]

theorem issueEntry_runs {s : State} {c q : Nat} {e : Entry} {ready : List Nat}
    (h : ∀ i ∈ ready, ((withAgeZero s c q e).member e.blk i).pendCause = []) : issueEntry s c q e ready =
    if logFull (withAgeZero s c q e) e.blk (issueEntries (withAgeZero s c q e) e.blk ready) then nextCourse (withAgeZero s c q e) e.blk
    else { withAgeZero s c q e with cur := some { blk := e.blk, mems := ready, words := none } } := by
  have hf : ready.find? (fun i => ((withAgeZero s c q e).member e.blk i).pendCause ≠ []) = none :=
    List.find?_eq_none.mpr fun i hi => by simp [h i hi]
  rw [issueEntry_eq, hf]

/-- A quarter that runs issues the entry that its selection rule puts first, with every ready thread in it; a held cause is raised and a
block whose log has no room begins its next course instead. -/
theorem issue_outcomes {r : Result} {u : State} {c q : Nat} (hr : r = .next (match pickEntry u (u.table c q) with
      | none => u
      | some e => issueEntry u c q e (readyOf u e))) :
    ((∀ e, ¬ (e ∈ u.table c q ∧ readyOf u e ≠ [])) → r = .next u) ∧
    ((∃ e, e ∈ u.table c q ∧ readyOf u e ≠ []) → ∃ e, (e ∈ u.table c q ∧ readyOf u e ≠ []) ∧
      (∀ f, f ∈ u.table c q ∧ readyOf u f ≠ [] → Leads (issueKey u (u.table c q)) e f) ∧
      let t := withAgeZero u c q e
      let full := logFull t e.blk (issueEntries t e.blk (readyOf u e)) = true
      (∀ i, (readyOf u e).find? (fun i => (t.member e.blk i).pendCause ≠ []) = some i → r = .next (raiseHeld t e.blk i)) ∧
      ((∀ i ∈ readyOf u e, (t.member e.blk i).pendCause = []) → (full → r = .next (nextCourse t e.blk)) ∧
        (¬ full → r = .next { t with cur := some { blk := e.blk, mems := readyOf u e, words := none } }))) := by
  refine ⟨fun hn => ?_, fun ⟨f, hf⟩ => ?_⟩
  · rw [hr, pickEntry_none.mpr hn]
  · cases hp : pickEntry u (u.table c q) with
    | none => exact absurd hf (pickEntry_none.mp hp f)
    | some e =>
      obtain ⟨he, hl⟩ := pickEntry_some hp
      replace hr : r = .next (issueEntry u c q e (readyOf u e)) := by rw [hr, hp]
      refine ⟨e, he, hl, fun i hi => ?_, fun hi => ⟨fun h => ?_, fun h => ?_⟩⟩
      · rw [hr, issueEntry_raises hi]
      · rw [hr, issueEntry_runs hi, if_pos h]
      · rw [hr, issueEntry_runs hi, if_neg h]

theorem boolN_hasIssued (s : State) (c q : Nat) :
    boolN (hasIssued s c q) = if (s.core c).issued.lookup q = some (s.die (coreDie c)).cyc then 1 else 0 := by
  simp only [boolN, hasIssued, beq_iff_eq]

/-- The state in which a quarter's cycle finds its die, its core and its tables. -/
def cycleStart (s : State) (c q : Nat) : State :=
  retryFrames (elapse s (coreDie c) (if (s.core c).issued.lookup q = some (s.die (coreDie c)).cyc then 1 else 0))

/-- Whether a quarter's cycle runs: the quarter exists, its die's clock runs and its core is in P0. -/
def CycleRuns (v : State) (c q : Nat) : Prop := c < 256 ∧ q < 4 ∧ (v.die (coreDie c)).clocked = true ∧ (v.core c).power = 0

theorem cycleRuns_iff {v : State} {c q : Nat} :
    CycleRuns v c q ↔ ¬ (256 ≤ c || 4 ≤ q || !(v.die (coreDie c)).clocked || (v.core c).power != 0) = true := by
  simp [CycleRuns, and_assoc]

theorem exec_issueCycle (c q : Nat) (s : State) : exec (.issueCycle c q) s = .next (
    if 256 ≤ c || 4 ≤ q || !((cycleStart s c q).die (coreDie c)).clocked || ((cycleStart s c q).core c).power != 0 then cycleStart s c q
    else match pickEntry (openCycle (cycleStart s c q) c q) ((openCycle (cycleStart s c q) c q).table c q) with
      | none => openCycle (cycleStart s c q) c q
      | some e => issueEntry (openCycle (cycleStart s c q) c q) c q e (readyOf (openCycle (cycleStart s c q) c q) e)) := by
  have h : exec (.issueCycle c q) s = execIssueCycle c q s := rfl
  have hv : cycleStart s c q = retryFrames (elapse s (coreDie c) (boolN (hasIssued s c q))) := by rw [boolN_hasIssued, cycleStart]
  rw [h, hv]
  unfold execIssueCycle
  generalize retryFrames (elapse s (coreDie c) (boolN (hasIssued s c q))) = v
  rfl

theorem exec_issueCycle_stopped {s : State} {c q : Nat} (h : ¬ CycleRuns (cycleStart s c q) c q) :
    exec (.issueCycle c q) s = .next (cycleStart s c q) := by
  rw [exec_issueCycle, if_pos (Decidable.of_not_not (h ∘ cycleRuns_iff.mpr))]

/-- A cycle that runs opens, and the selected entry issues. -/
theorem exec_issueCycle_runs {s : State} {c q : Nat} (h : CycleRuns (cycleStart s c q) c q) : exec (.issueCycle c q) s = .next (
    match pickEntry (openCycle (cycleStart s c q) c q) ((openCycle (cycleStart s c q) c q).table c q) with
    | none => openCycle (cycleStart s c q) c q
    | some e => issueEntry (openCycle (cycleStart s c q) c q) c q e (readyOf (openCycle (cycleStart s c q) c q) e)) := by
  rw [exec_issueCycle, if_neg (cycleRuns_iff.mp h)]

/-- The ready threads of an entry (15 R264). -/
theorem mem_readyOf {s : State} {e : Entry} {i : Nat} : i ∈ readyOf s e ↔ i ∈ e.mems ∧ (s.member e.blk i).space = 0 ∧
    (s.member e.blk i).hold = false ∧ ∀ ins, peekAt s (s.block e.blk) e.pc = some ins → interlocked s e.blk i ins = false := by
  simp only [readyOf, List.mem_filter, Bool.and_eq_true, beq_iff_eq, Bool.not_eq_true', Option.any_eq_false, and_assoc]

/-! The issue tables (15 R263). -/

theorem entryTakes_iff {s : State} {b pc : Nat} {m : Member} {e : Entry} : entryTakes s b pc m e = true ↔
    e.blk = b ∧ e.pc = pc ∧ ∀ j ∈ e.mems, (s.member b j).laneMask &&& m.laneMask = 0 := by
  simp [entryTakes, and_assoc]

theorem addToEntry_first {s : State} {b i pc : Nat} {m : Member} {before after : List Entry} {e : Entry}
    (hb : ∀ f ∈ before, entryTakes s b pc m f = false) (he : entryTakes s b pc m e = true) :
    addToEntry s b i pc m (before ++ e :: after) = some (before ++ { e with mems := laneInsert s b i e.mems } :: after) := by
  induction before with
  | nil => simp [addToEntry, he]
  | cons f r ih =>
    simp [addToEntry, hb f List.mem_cons_self, ih fun g hg => hb g (List.mem_cons_of_mem _ hg)]

theorem addToEntry_none {s : State} {b i pc : Nat} {m : Member} {t : List Entry} (h : ∀ f ∈ t, entryTakes s b pc m f = false) :
    addToEntry s b i pc m t = none := by
  induction t with
  | nil => rfl
  | cons f r ih => simp [addToEntry, h f List.mem_cons_self, ih fun g hg => h g (List.mem_cons_of_mem _ hg)]

theorem enterTable_taken {s : State} {b i : Nat} {t : List Entry}
    (h : addToEntry s b i ((s.block b).member i).pc ((s.block b).member i)
      (s.table (s.block b).core ((s.block b).member i).quarter) = some t) :
    enterTable s b i = s.setCore (s.block b).core { s.core (s.block b).core with
      tables := SMap.put (s.core (s.block b).core).tables ((s.block b).member i).quarter t } := by
  rw [State.table] at h
  simp only [enterTable, h]

theorem enterTable_untaken {s : State} {b i : Nat}
    (h : addToEntry s b i ((s.block b).member i).pc ((s.block b).member i)
      (s.table (s.block b).core ((s.block b).member i).quarter) = none) :
    let B := s.block b
    let m := B.member i
    let C := s.core B.core
    let t := SMap.get [] C.tables m.quarter
    let waits := SMap.get [] C.pending m.quarter
    enterTable s b i = s.setCore B.core (if t.length < 64 ∧ waits = [] then
        { C with tables := SMap.put C.tables m.quarter (t ++ [{ blk := b, pc := m.pc, mems := [i], age := 0, idle := 0 }]) }
      else { C with pending := SMap.put C.pending m.quarter (waits ++ [(b, i)]) }) := by
  rw [State.table] at h
  simp only [enterTable, h, Bool.and_eq_true, decide_eq_true_eq, beq_iff_eq]
  split <;> rfl

theorem exec_entryIdleTimeout_frees {s : State} {c q n : Nat} {e : Entry} (he : (s.table c q)[n]? = some e) (h : 512 ≤ e.idle) :
    exec (.entryIdleTimeout c q n) s = .next (s.setCore c { s.core c with
      tables := SMap.put (s.core c).tables q ((s.table c q).eraseIdx n)
      pending := SMap.put (s.core c).pending q (SMap.get [] (s.core c).pending q ++ e.mems.map (fun i => (e.blk, i))) }) := by
  have hx : exec (.entryIdleTimeout c q n) s = execEntryIdleTimeout c q n s := rfl
  rw [State.table] at he
  rw [hx, execEntryIdleTimeout, State.table]
  simp only [he, Nat.not_lt.mpr h, if_false]

theorem exec_entryIdleTimeout_keeps {s : State} {c q n : Nat} (h : ∀ e, (s.table c q)[n]? = some e → e.idle < 512) :
    exec (.entryIdleTimeout c q n) s = .next s := by
  have hx : exec (.entryIdleTimeout c q n) s = execEntryIdleTimeout c q n s := rfl
  rw [State.table] at h
  rw [hx, execEntryIdleTimeout]
  cases he : (SMap.get [] (s.core c).tables q)[n]? with
  | none => simp only [he]
  | some e => simp only [he, h e he, if_true]

/-- Members of a block that belong in the tables, with the lowest slot first. -/
def bySlot (B : Block) : List (Nat × Member) :=
  (List.range 12).flatMap (fun n => (B.members.filter (fun kv => tabled B kv.2)).filter (fun kv => kv.2.slot == n))

theorem mem_bySlot {B : Block} {kv : Nat × Member} : kv ∈ bySlot B ↔ kv ∈ B.members ∧ tabled B kv.2 = true ∧ kv.2.slot < 12 := by
  simp only [bySlot, List.mem_flatMap, List.mem_range, List.mem_filter, beq_iff_eq]
  grind

theorem bySlot_sorted (B : Block) : (bySlot B).Pairwise (fun p q => p.2.slot ≤ q.2.slot) := by
  refine List.pairwise_flatMap.mpr ⟨fun n _ => ?_, ?_⟩
  · refine List.pairwise_of_forall_mem_list fun p hp q hq => ?_
    simp only [List.mem_filter, beq_iff_eq] at hp hq
    omega
  · refine List.pairwise_lt_range.imp fun {m n} hmn p hp q hq => ?_
    simp only [List.mem_filter, beq_iff_eq] at hp hq
    omega

theorem seatBlock_eq (s : State) (b : Nat) : seatBlock s b =
    traceJoins (((bySlot (s.block b)).map Prod.fst).foldl (fun s i => enterTable s b i) s) b ((bySlot (s.block b)).map Prod.fst) := by
  rw [bySlot, List.map_flatMap]
  rfl

/-! Interlocks (02 R34; 04 R85; 07 R148; 11 R215; 19 R341). -/

theorem waitsForAll_iff {ins : Instr} : waitsForAll ins = true ↔ ∃ x, ins = .getc x ∨ ins = .setc x := by
  constructor
  · intro h
    unfold waitsForAll at h
    split at h
    · exact ⟨_, .inl rfl⟩
    · exact ⟨_, .inr rfl⟩
    · cases h
  · rintro ⟨x, rfl | rfl⟩ <;> rfl

theorem interlocked_iff {s : State} {b i : Nat} {ins : Instr} : interlocked s b i ins = true ↔
    (∃ n ∈ namedRegs ins ++ walkNamed (s.member b i) ins,
      abusyRegs s b n = true ∨ ∃ r ∈ (s.member b i).sibs, r.infl.lookup n ≠ none) ∨
    ((∃ x, ins = .getc x ∨ ins = .setc x) ∧ ∃ r ∈ (s.member b i).sibs, r.infl ≠ []) ∨ storesAwaited s b i ins = true ∨
    (replayClass ins = true ∧ 256 ≤ (replaySeqs (s.block b)).length) := by
  rw [← waitsForAll_iff]
  simp only [interlocked, Bool.or_eq_true, Bool.and_eq_true, List.any_eq_true, decide_eq_true_eq, bne_iff_ne,
    Option.isSome_iff_ne_none, or_assoc]

/-! Results that reach their registers together (02 R34; 05 R119). -/

theorem Regs.settle_infl (r : Regs) (n j : Nat) : (r.settle n).infl.lookup j = if j = n then none else r.infl.lookup j := by
  unfold Regs.settle
  split
  · next h => split <;> simp [*]
  · simp only
    split <;> exact SMap.lookup_del ..

theorem Regs.settle_v (r : Regs) (n j : Nat) : SMap.get 0 (r.settle n).v j =
    if j = n ∧ n < 128 then (r.infl.lookup n).getD (SMap.get 0 r.v j) else SMap.get 0 r.v j := by
  unfold Regs.settle
  cases r.infl.lookup n with
  | none => simp
  | some x => by_cases h : n < 128 <;> simp [h]

theorem Regs.settle_p (r : Regs) (n j : Nat) : SMap.get false (r.settle n).p j =
    if n = j + 128 then ((r.infl.lookup n).map (· != 0)).getD (SMap.get false r.p j) else SMap.get false r.p j := by
  unfold Regs.settle
  cases r.infl.lookup n with
  | none => simp
  | some x =>
    by_cases h : n < 128
    · have : n ≠ j + 128 := by omega
      simp [h, this]
    · have : j = n - 128 ↔ n = j + 128 := by omega
      simp [h, this]

theorem Regs.foldl_settle_infl (g : List Nat) (r : Regs) (j : Nat) :
    (g.foldl Regs.settle r).infl.lookup j = if j ∈ g then none else r.infl.lookup j := by
  induction g generalizing r with
  | nil => simp
  | cons n g ih =>
    rw [List.foldl_cons, ih, Regs.settle_infl]
    grind

theorem Regs.foldl_settle_v (g : List Nat) (r : Regs) (j : Nat) : SMap.get 0 (g.foldl Regs.settle r).v j =
    if j ∈ g ∧ j < 128 then (r.infl.lookup j).getD (SMap.get 0 r.v j) else SMap.get 0 r.v j := by
  induction g generalizing r with
  | nil => simp
  | cons n g ih =>
    rw [List.foldl_cons, ih, Regs.settle_infl, Regs.settle_v]
    grind

theorem Regs.foldl_settle_p (g : List Nat) (r : Regs) (j : Nat) : SMap.get false (g.foldl Regs.settle r).p j =
    if j + 128 ∈ g then ((r.infl.lookup (j + 128)).map (· != 0)).getD (SMap.get false r.p j) else SMap.get false r.p j := by
  induction g generalizing r with
  | nil => simp
  | cons n g ih =>
    rw [List.foldl_cons, ih, Regs.settle_infl, Regs.settle_p]
    grind

theorem Regs.complete_mem {r : Regs} {n j : Nat} {v : W32} (hj : j ∈ r.groupOf n) (hv : r.infl.lookup j = some v) :
    (r.complete n).infl.lookup j = none ∧ (j < 128 → SMap.get 0 (r.complete n).v j = v) ∧
      (128 ≤ j → SMap.get false (r.complete n).p (j - 128) = (v != 0)) := by
  unfold Regs.complete
  refine ⟨by rw [Regs.foldl_settle_infl, if_pos hj], fun hl => ?_, fun hl => ?_⟩
  · rw [Regs.foldl_settle_v, if_pos ⟨hj, hl⟩, hv]; rfl
  · rw [Regs.foldl_settle_p, Nat.sub_add_cancel hl, if_pos hj, hv]; rfl

theorem Regs.complete_other {r : Regs} {n j : Nat} (hj : j ∉ r.groupOf n) :
    (r.complete n).infl.lookup j = r.infl.lookup j ∧ SMap.get 0 (r.complete n).v j = SMap.get 0 r.v j := by
  unfold Regs.complete
  rw [Regs.foldl_settle_infl, if_neg hj, Regs.foldl_settle_v, if_neg fun h => hj h.1]
  exact ⟨rfl, rfl⟩

theorem map_zipIdx_eq_set {α : Type} (f : α → α) (l : List α) (k : Nat) (d : α) :
    l.zipIdx.map (fun rk => if rk.2 == k then f rk.1 else rk.1) = l.set k (f (l.getD k d)) := by
  refine List.ext_getElem (by simp) fun i h _ => ?_
  have hi : i < l.length := by simpa using h
  by_cases hk : i = k
  · subst hk; simp [hi]
  · simp [hk, List.getElem_set_ne (Ne.symm hk)]

theorem exec_variableLatencyComplete_inFlight {s : State} {b i k n : Nat} {v : W32} (hk : k < (s.member b i).sibs.length)
    (hv : ((s.member b i).sibs.getD k Regs.zero).infl.lookup n = some v) : exec (.variableLatencyComplete b i k n) s =
    .next (s.setMember b i { s.member b i with
      sibs := (s.member b i).sibs.set k (((s.member b i).sibs.getD k Regs.zero).complete n) }) := by
  have ha : (s.member b i).sibs.any (fun r => (r.infl.lookup n).isSome) = true := by
    rw [← List.getElem_eq_getD (h := hk)] at hv
    exact List.any_eq_true.mpr ⟨_, List.getElem_mem hk, by rw [hv]; rfl⟩
  have h : exec (.variableLatencyComplete b i k n) s = execVariableLatencyComplete b i k n s := rfl
  rw [h, execVariableLatencyComplete]
  simp only [ha, if_true]
  rw [map_zipIdx_eq_set (fun r => r.complete n) _ k Regs.zero]

theorem exec_variableLatencyComplete_idle {s : State} {b i k n : Nat} (h : ∀ r ∈ (s.member b i).sibs, r.infl.lookup n = none) :
    exec (.variableLatencyComplete b i k n) s = .next s := by
  have ha : (s.member b i).sibs.any (fun r => (r.infl.lookup n).isSome) = false :=
    List.any_eq_false.mpr fun r hr => by simp [h r hr]
  have he : exec (.variableLatencyComplete b i k n) s = execVariableLatencyComplete b i k n s := rfl
  rw [he, execVariableLatencyComplete]
  simp only [ha, Bool.false_eq_true, if_false]

/-! Code lines, L1 lines and clock steps (02 R37; 10 R186; 15 R279). -/

theorem exec_icacheFill (s : State) (b va : Nat) : exec (.icacheFill b va) s =
    .next (if (s.block b).state = .running then { (fillLine s (s.block b) (va - va % 64)).1 with reqs := [] } else s) := by
  have h : exec (.icacheFill b va) s = execIcacheFill b va s := rfl
  rw [h, execIcacheFill]
  simp only [beq_iff_eq]

theorem exec_l1LineExpiry (s : State) (c line : Nat) : exec (.l1LineExpiry c line) s = .next (s.setCore c { s.core c with
    l1 := (s.core c).l1.filter (fun l => !(l.line == line && decide (l.filled + 4000 ≤ s.reft.toNat))) }) := rfl

theorem mem_unexpired {l : L1Line} {ls : List L1Line} {line t : Nat} :
    l ∈ ls.filter (fun l => !(l.line == line && decide (l.filled + 4000 ≤ t))) ↔ l ∈ ls ∧ ¬ (l.line = line ∧ l.filled + 4000 ≤ t) := by
  simp only [List.mem_filter, Bool.not_eq_true', ← Bool.not_eq_true, Bool.and_eq_true, beq_iff_eq, decide_eq_true_eq]

theorem exec_frequencyStepChange (s : State) (d n : Nat) : exec (.frequencyStepChange d n) s =
    .next (if d < 4 ∧ n < 5 ∧ (s.die d).relock = none then s.setDie d { s.die d with step := n, relock := some s.reft.toNat } else s) := by
  have h : exec (.frequencyStepChange d n) s = execFrequencyStepChange d n s := rfl
  rw [h, execFrequencyStepChange]
  congr 1
  by_cases hr : d < 4 ∧ n < 5 ∧ (s.die d).relock = none
  · obtain ⟨hd, hn, hk⟩ := hr
    rw [if_neg (by simp [hd, hn, hk]), if_pos ⟨hd, hn, hk⟩]
  · rw [if_neg hr, if_pos]
    simp only [Bool.or_eq_true, decide_eq_true_eq, Option.isSome_iff_ne_none]
    grind

theorem exec_relockDone_due {s : State} {d t : Nat} (ht : (s.die d).relock = some t) (h : t + 800 ≤ s.reft.toNat) :
    exec (.relockDone d) s = .next (s.setDie d { s.die d with relock := none }) := by
  have he : exec (.relockDone d) s = execRelockDone d s := rfl
  rw [he, execRelockDone]
  simp only [ht, h, if_true]

theorem exec_relockDone_early {s : State} {d : Nat} (h : ∀ t, (s.die d).relock = some t → s.reft.toNat < t + 800) :
    exec (.relockDone d) s = .next s := by
  have he : exec (.relockDone d) s = execRelockDone d s := rfl
  rw [he, execRelockDone]
  cases ht : (s.die d).relock with
  | none => simp only [ht]
  | some t => simp only [ht, Nat.not_le.mpr (h t ht), if_false]

/-! Power states (15 R280). -/

theorem deepest_two (tol a b : Nat) : deepest tol [a, b] = if exitLatency a ≤ tol then a else if exitLatency b ≤ tol then b else 0 := by
  unfold deepest
  by_cases ha : exitLatency a ≤ tol
  · simp [ha]
  · by_cases hb : exitLatency b ≤ tol <;> simp [ha, hb]

theorem deepest_core {tol n : Nat} : n ≠ 0 ∧ n = deepest tol [2, 1] ↔ 50 ≤ tol ∧ n = if 2000 ≤ tol then 2 else 1 := by
  rw [deepest_two]
  simp only [exitLatency]
  by_cases h : 2000 ≤ tol
  · rw [if_pos h, if_pos h]; omega
  · rw [if_neg h, if_neg h]; split <;> omega

theorem deepest_die {tol n : Nat} : n ≠ 0 ∧ n = deepest tol [4, 3] ↔ 20000 ≤ tol ∧ n = if 400000 ≤ tol then 4 else 3 := by
  rw [deepest_two]
  simp only [exitLatency]
  by_cases h : 400000 ≤ tol
  · rw [if_pos h, if_pos h]; omega
  · rw [if_neg h, if_neg h]; split <;> omega

theorem deepest_package {tol : Nat} : deepest tol [5] = 5 ↔ 5000000 ≤ tol := by
  by_cases h : 5000000 ≤ tol <;> simp [deepest, exitLatency, h]

theorem exec_powerStateEnter_core (s : State) (c n : Nat) : exec (.powerStateEnter (.core c) n) s = .next (
    if coreLive s c = true ∧ 50 ≤ activeTol s ∧ n = (if 2000 ≤ activeTol s then 2 else 1) ∧ coreQuiet s c = true ∧
      (s.core c).power ≠ n then s.setCore c { s.core c with power := n } else s) := by
  have h : exec (.powerStateEnter (.core c) n) s = execPowerStateEnter (.core c) n s := rfl
  have hd : (n != 0 && n == deepest (activeTol s) [2, 1] && coreLive s c && coreQuiet s c && (s.core c).power != n) = true ↔
      coreLive s c = true ∧ 50 ≤ activeTol s ∧ n = (if 2000 ≤ activeTol s then 2 else 1) ∧ coreQuiet s c = true ∧
        (s.core c).power ≠ n := by
    simp only [Bool.and_eq_true, bne_iff_ne, beq_iff_eq, deepest_core]
    exact ⟨fun ⟨⟨⟨⟨ht, hn⟩, hl⟩, hq⟩, hp⟩ => ⟨hl, ht, hn, hq, hp⟩, fun ⟨hl, ht, hn, hq, hp⟩ => ⟨⟨⟨⟨ht, hn⟩, hl⟩, hq⟩, hp⟩⟩
  rw [h, execPowerStateEnter]
  simp only [hd]

theorem exec_powerStateEnter_die (s : State) (d n : Nat) : exec (.powerStateEnter (.die d) n) s = .next (
    if d < 4 ∧ (s.die d).fencedFull = false ∧ 20000 ≤ activeTol s ∧ n = (if 400000 ≤ activeTol s then 4 else 3) ∧ dieQuiet s d = true ∧
      (s.die d).power ≠ n then s.setDie d { s.die d with power := n, step := 4 } else s) := by
  have h : exec (.powerStateEnter (.die d) n) s = execPowerStateEnter (.die d) n s := rfl
  have hd : (decide (d < 4) && n != 0 && n == deepest (activeTol s) [4, 3] && !(s.die d).fencedFull && dieQuiet s d &&
        (s.die d).power != n) = true ↔
      d < 4 ∧ (s.die d).fencedFull = false ∧ 20000 ≤ activeTol s ∧ n = (if 400000 ≤ activeTol s then 4 else 3) ∧
        dieQuiet s d = true ∧ (s.die d).power ≠ n := by
    simp only [Bool.and_eq_true, bne_iff_ne, beq_iff_eq, decide_eq_true_eq, Bool.not_eq_true']
    constructor
    · intro ⟨⟨⟨⟨⟨hd, h0⟩, hn⟩, hf⟩, hq⟩, hp⟩
      obtain ⟨ht, hn⟩ := deepest_die.mp ⟨h0, hn⟩
      exact ⟨hd, hf, ht, hn, hq, hp⟩
    · intro ⟨hd, hf, ht, hn, hq, hp⟩
      obtain ⟨h0, hn⟩ := deepest_die.mpr ⟨ht, hn⟩
      exact ⟨⟨⟨⟨⟨hd, h0⟩, hn⟩, hf⟩, hq⟩, hp⟩
  rw [h, execPowerStateEnter]
  simp only [hd]

theorem exec_powerStateEnter_package (s : State) (n : Nat) :
    (n = 5 ∧ 5000000 ≤ activeTol s ∧ (∀ d, d < 4 → (s.die d).power = 4) →
      exec (.powerStateEnter .package n) s = .next { s with packagePower := 5 }) ∧
    (¬ (n = 5 ∧ 5000000 ≤ activeTol s ∧ ∀ d, d < 4 → (s.die d).power = 4) → exec (.powerStateEnter .package n) s = .next s) := by
  have h : exec (.powerStateEnter .package n) s = execPowerStateEnter .package n s := rfl
  have hd : (n == 5 && deepest (activeTol s) [5] == 5 && (List.range 4).all (fun d => (s.die d).power == 4)) = true ↔
      n = 5 ∧ 5000000 ≤ activeTol s ∧ ∀ d, d < 4 → (s.die d).power = 4 := by
    simp only [Bool.and_eq_true, beq_iff_eq, deepest_package, List.all_eq_true, List.mem_range, and_assoc]
  rw [h, execPowerStateEnter]
  exact ⟨fun k => congrArg _ (if_pos (hd.mpr k)), fun k => congrArg _ (if_neg (k ∘ hd.mp))⟩

theorem workWaits_iff {s : State} : workWaits s = true ↔
    (∃ kv ∈ s.grids, ∃ k, k < max 1 kv.2.stages.length ∧ kv.2.owes k = true) ∨ ∃ kv ∈ s.blocks, runnable s kv.1 = true := by
  simp only [workWaits, Bool.or_eq_true, List.any_eq_true, List.mem_range]

theorem leavesState_iff {s : State} {n : Nat} : leavesState s n = true ↔ workWaits s = true ∨ activeTol s < exitLatency n := by
  simp only [leavesState, Bool.or_eq_true, decide_eq_true_eq]

theorem exec_powerStateExit (s : State) (p : Part) : exec (.powerStateExit p) s = .next (match p with
    | .core c => if (workWaits s = true ∨ activeTol s < exitLatency (s.core c).power) ∧ coreLive s c = true then
        s.setCore c { s.core c with power := 0 } else s
    | .die d => if (workWaits s = true ∨ activeTol s < exitLatency (s.die d).power) ∧ s.packagePower = 0 ∧
        (s.die d).fencedFull = false then s.setDie d { s.die d with power := 0 } else s
    | .package => if workWaits s = true ∨ activeTol s < exitLatency s.packagePower then { s with packagePower := 0 } else s) := by
  have h : exec (.powerStateExit p) s = execPowerStateExit p s := rfl
  rw [h]
  cases p <;> simp only [execPowerStateExit, Bool.and_eq_true, leavesState_iff, beq_iff_eq, Bool.not_eq_true', and_assoc]

/-- Settles O53: each part by the lemma that says what its operation does. -/
theorem scheduling : Obligations.Scheduling := by
  unfold Obligations.Scheduling
  refine ⟨?time, ?elapse, ?cycle, fun s e i => mem_readyOf, ?seat, ?enter, fun s b i ins => interlocked_iff,
    fun s c q n => ⟨fun e => exec_entryIdleTimeout_frees, exec_entryIdleTimeout_keeps⟩, ?result,
    fun r n => ⟨fun j v => Regs.complete_mem, fun j => Regs.complete_other⟩, exec_icacheFill, ?line, exec_frequencyStepChange,
    fun s d => ⟨fun t => exec_relockDone_due, exec_relockDone_early⟩, ?rest, ?wake⟩
  case time =>
    intro s d n t w v
    refine ⟨tickAll_stopped, fun h hn => ?_⟩
    obtain ⟨hr, hm⟩ := tickAll_reft_mem s d n
    refine ⟨tickAll_cyc h hn, fun k => tickAll_die_other h hn, hr, hm, tickAll_member h hn, fun c hc => ?_, fun c hc => ?_⟩
    · exact (tickAll_core h hn c).trans ((if_pos hc).trans (tickCore_tickThreads s d c n))
    · exact (tickAll_core h hn c).trans (if_neg hc)
  case elapse =>
    intro s d least v t
    obtain ⟨hr, hc, hm, ha⟩ := elapse_spec s d least
    exact ⟨hr, hc, hm, ha, fun k hk => elapse_cyc s d least hk⟩
  case cycle =>
    intro s c q now v runs w u table ready eligible aged key
    refine ⟨exec_issueCycle_stopped, fun hr => ?_⟩
    have hx := exec_issueCycle_runs hr
    have hu : openCycle (cycleStart s c q) c q = u := rfl
    rw [hu] at hx
    clear_value u
    obtain ⟨hn, hs⟩ := issue_outcomes hx
    refine ⟨hn, fun he => ?_⟩
    obtain ⟨e, he, hl, hc, hi⟩ := hs he
    refine ⟨e, he, hl, hc, ?_⟩
    rw [logFull_issueEntries] at hi
    exact hi
  case seat => exact fun s b => ⟨bySlot (s.block b), fun kv => mem_bySlot, bySlot_sorted _, seatBlock_eq s b⟩
  case enter =>
    intro s b i B m C t waits takes seats
    have free : ∀ {l : List Entry}, (∀ f ∈ l, ¬ takes f) → ∀ f ∈ l, entryTakes s b m.pc m f = false := fun h f hf =>
      Bool.eq_false_iff.mpr fun k => h f hf (entryTakes_iff.mp k)
    refine ⟨fun before e after ht hb he => ?_, fun hn hl hw => ?_, fun hn hf => ?_⟩
    · refine enterTable_taken ?_
      exact (congrArg _ ht).trans (addToEntry_first (free hb) (entryTakes_iff.mpr he))
    · exact (enterTable_untaken (addToEntry_none (free hn))).trans (congrArg _ (if_pos ⟨hl, hw⟩))
    · exact (enterTable_untaken (addToEntry_none (free hn))).trans (congrArg _ (if_neg hf))
  case result => exact fun s b i k n => ⟨fun v => exec_variableLatencyComplete_inFlight, exec_variableLatencyComplete_idle⟩
  case line => exact fun s c line => ⟨_, exec_l1LineExpiry s c line, rfl, fun l => by
    rw [State.setCore_core, if_pos rfl]
    exact mem_unexpired⟩
  case rest => exact fun s n c => ⟨exec_powerStateEnter_core s c n, exec_powerStateEnter_die s c n, exec_powerStateEnter_package s n⟩
  case wake =>
    refine fun s => ⟨workWaits_iff, rfl, rfl, rfl, rfl, rfl, rfl, ?_⟩
    have hx := exec_powerStateExit s
    exact ⟨fun h => (hx .package).trans (congrArg _ (if_pos h)), fun h => (hx .package).trans (congrArg _ (if_neg h)),
      fun c => ⟨fun h => (hx (.core c)).trans (congrArg _ (if_pos h)), fun h => (hx (.core c)).trans (congrArg _ (if_neg h)),
        fun h => (hx (.die c)).trans (congrArg _ (if_pos h)), fun h => (hx (.die c)).trans (congrArg _ (if_neg h))⟩⟩

end Sys2Proof.Machine
end

section
/-!
Proof of O13: the narrow formats. QCVT, DQCVT and PLPACK as lane instructions, then rounding onto a format's grid, codes and their images, and
the quantisation of a block; the theorem at the end puts the parts together.
-/
namespace Sys2Proof.Machine

open Safety

/-! The three instructions as lane instructions (05 R120 to R122). -/

theorem zipIdx_map_range {α : Type} (f : Nat → α) (n : Nat) :
    ((List.range n).map f).zipIdx = (List.range n).map (fun i => (f i, i)) :=
  List.ext_getElem (by simp) (by simp)

/-- What DQCVT makes of code `c`: the pattern and its flags (05 R121). -/
def dequantised (nf c b : Nat) (t : Option Q) (rm : RM) : Nat × Nat :=
  match t with
  | none => (Fmt.nanBits .f32, 0)
  | some t => if b = 0xFF then (Fmt.nanBits .f32, 0) else
    let v := nfValue nf c b t
    let r := roundTo .f32 rm v.neg v.q
    (r.1, r.2 ||| if nfReserved nf c then flNV else 0)

theorem execDqcvt_eq (x : Ext) (s : State) : execDqcvt x s =
    laneRun x 51 none (regReads x.a (codeRegs x.mod) ++ [(false, .lane x.b), (false, .lane x.c)]) (fun l =>
      LaneOut.of (l.m.sibs.zipIdx.map (fun rk =>
        let one := fun e => dequantised x.mod (packedAt x.mod (regString rk.1 x.a (codeRegs x.mod)) e)
          ((rk.1.lane x.b).toNat % 2 ^ 8) (tensorScale (rk.1.lane x.c).toNat) (narrowMode x l rk.2 e)
        SibOut.flagged (.regs ((List.range 8).map (fun e => (x.d + e, BitVec.ofNat 32 (one e).1))))
          ((List.range 8).foldl (fun a e => a ||| (one e).2) 0)))) s := by
  unfold execDqcvt
  congr 1
  funext l
  refine congrArg LaneOut.of (List.map_congr_left fun rk _ => ?_)
  simp only [zipIdx_map_range, List.map_map, List.foldl_map, beq_iff_eq]
  rfl

theorem execPlpack_eq (x : Ext) (s : State) : execPlpack x s =
    laneRun x 51 none (regReads x.a (nfCw x.mod)) (fun l => LaneOut.of (l.m.sibs.map (fun r =>
      let code := packedAt x.mod (regString r x.a (nfCw x.mod))
      SibOut.flagged (.regs ((List.range (nfPlanes x.mod)).map (fun p => (x.d + p, BitVec.ofNat 32
        ((List.range 32).foldl (fun a e => if planeBit x.mod (code e) p then setBitN a e else a) 0)))))
        (if (List.range 32).any (fun e => nfReserved x.mod (code e)) then flNV else 0)))) s := by
  unfold execPlpack
  simp only [zipIdx_map_range, List.foldl_map, List.any_map]
  rfl

/-- A lane instruction that does nothing but write its siblings' results. -/
theorem laneClaimM_of {lat : Option Nat} {reads : List (Bool × Opnd)} {outs : State → Issue → Nat → List SibOut} {i : Instr} {x : Ext}
    {major : Nat} {sibs : LaneIn → List SibOut} (he : ∀ s, exec i s = laneRun x major lat reads (fun l => LaneOut.of (sibs l)) s)
    (hs : ∀ s is j, sibs (laneIn s is j) = outs s is j) : LaneClaimM false lat reads outs i x :=
  laneClaimM he hs (fun _ => rfl) (fun _ => rfl) (fun _ => rfl) (fun _ => rfl) (fun _ _ h => nomatch h)

/-! Logarithms of fractions (00 R8). -/

/-- 2^e is at most the value of `q`. -/
def Q.Reaches (q : Q) (e : Int) : Prop := q.d * 2 ^ e.toNat ≤ q.n * 2 ^ (-e).toNat

theorem Q.reaches_sub (q : Q) (a b : Nat) : q.Reaches ((a : Int) - b) ↔ q.d * 2 ^ a ≤ q.n * 2 ^ b := by
  unfold Q.Reaches
  rcases Nat.le_total b a with h | h
  · obtain ⟨c, rfl⟩ := Nat.exists_eq_add_of_le h
    rw [show ((b + c : Nat) - b : Int).toNat = c by omega, show (-((b + c : Nat) - b : Int)).toNat = 0 by omega, Nat.pow_zero, Nat.mul_one,
      Nat.add_comm, Nat.pow_add, ← Nat.mul_assoc, Nat.mul_le_mul_right_iff (Nat.two_pow_pos b)]
  · obtain ⟨c, rfl⟩ := Nat.exists_eq_add_of_le h
    rw [show (a - (a + c : Nat) : Int).toNat = 0 by omega, show (-(a - (a + c : Nat) : Int)).toNat = c by omega, Nat.pow_zero, Nat.mul_one,
      Nat.add_comm, Nat.pow_add, ← Nat.mul_assoc, Nat.mul_le_mul_right_iff (Nat.two_pow_pos a)]

theorem Q.Reaches.mono {q : Q} {e f : Int} (h : q.Reaches f) (hef : e ≤ f) : q.Reaches e := by
  obtain ⟨b, a, c, rfl, rfl, hac⟩ : ∃ b a c : Nat, e = (a : Int) - b ∧ f = (c : Int) - b ∧ a ≤ c :=
    ⟨e.natAbs, (e + e.natAbs).toNat, (f + e.natAbs).toNat, by omega, by omega, by omega⟩
  rw [Q.reaches_sub] at h ⊢
  exact Nat.le_trans (Nat.mul_le_mul_left _ (Nat.pow_le_pow_right (by decide) hac)) h

theorem Q.ilogb_of {q : Q} {k : Int} (h : (Nat.log2 q.n : Int) - (Nat.log2 q.d : Int) = k) :
    q.ilogb = if (q.shift (-k)).d ≤ (q.shift (-k)).n then k else k - 1 := by
  subst h
  rfl

/-- The model's ilogb is the exponent of the greatest power of two that is at most the value. -/
theorem Q.le_ilogb_iff {q : Q} (hn : 0 < q.n) (hd : 0 < q.d) (e : Int) : e ≤ q.ilogb ↔ q.Reaches e := by
  have n1 := Nat.log2_self_le (Nat.ne_of_gt hn)
  have n2 := Nat.lt_log2_self (n := q.n)
  have d1 := Nat.log2_self_le (Nat.ne_of_gt hd)
  have d2 := Nat.lt_log2_self (n := q.d)
  generalize hk : (Nat.log2 q.n : Int) - (Nat.log2 q.d : Int) = k
  have low : q.Reaches (k - 1) := by
    rw [show k - 1 = (Nat.log2 q.n : Int) - (Nat.log2 q.d + 1 : Nat) by omega, Q.reaches_sub, Nat.mul_comm]
    exact Nat.mul_le_mul n1 (Nat.le_of_lt d2)
  have high : ¬ q.Reaches (k + 1) := by
    rw [show k + 1 = (Nat.log2 q.n + 1 : Nat) - (Nat.log2 q.d : Int) by omega, Q.reaches_sub, Nat.not_le, Nat.mul_comm q.d]
    exact Nat.mul_lt_mul_of_lt_of_le n2 d1 hd
  have hs : (q.shift (-k)).d ≤ (q.shift (-k)).n ↔ q.Reaches k := by
    unfold Q.shift Q.Reaches
    split
    · next h => rw [show k.toNat = 0 by omega, Nat.pow_zero, Nat.mul_one]
    · next h => rw [show (-k).toNat = 0 by omega, Nat.pow_zero, Nat.mul_one, Int.neg_neg]
  have top : ∀ f, q.Reaches f → ¬ q.Reaches (f + 1) → (e ≤ f ↔ q.Reaches e) := fun f h1 h2 =>
    ⟨h1.mono, fun h => Int.not_lt.mp fun g => h2 (h.mono g)⟩
  rw [Q.ilogb_of hk]
  by_cases h : q.Reaches k
  · rw [if_pos (hs.mpr h)]
    exact top k h high
  · rw [if_neg (fun g => h (hs.mp g))]
    exact top (k - 1) low (by rwa [Int.sub_add_cancel])

/-- The same for a power of at least 1. -/
theorem Q.natCast_le_ilogb_iff {q : Q} (hn : 0 < q.n) (hd : 0 < q.d) (k : Nat) : (k : Int) ≤ q.ilogb ↔ 2 ^ k * q.d ≤ q.n := by
  rw [Q.le_ilogb_iff hn hd, show (k : Int) = (k : Int) - (0 : Nat) by omega, Q.reaches_sub, Nat.pow_zero, Nat.mul_one, Nat.mul_comm]

theorem Q.Reaches.congr {a b : Q} {e : Int} (hb : 0 < b.d) (h : SameValue a b) (hr : b.Reaches e) : a.Reaches e := by
  unfold SameValue at h
  unfold Q.Reaches at hr ⊢
  refine Nat.le_of_mul_le_mul_right (c := b.d) ?_ hb
  calc a.d * 2 ^ e.toNat * b.d = a.d * (b.d * 2 ^ e.toNat) := by rw [Nat.mul_assoc, Nat.mul_comm b.d]
    _ ≤ a.d * (b.n * 2 ^ (-e).toNat) := Nat.mul_le_mul_left _ hr
    _ = b.n * a.d * 2 ^ (-e).toNat := by rw [← Nat.mul_assoc, Nat.mul_comm a.d]
    _ = a.n * 2 ^ (-e).toNat * b.d := by rw [← h, Nat.mul_right_comm]

/-- The logarithm depends on the value alone, whatever fraction stands for it. -/
theorem Q.ilogb_congr {a b : Q} (han : 0 < a.n) (had : 0 < a.d) (hbn : 0 < b.n) (hbd : 0 < b.d) (h : SameValue a b) : a.ilogb = b.ilogb := by
  have key : ∀ e : Int, e ≤ a.ilogb ↔ e ≤ b.ilogb := fun e => by
    rw [Q.le_ilogb_iff han had, Q.le_ilogb_iff hbn hbd]
    exact ⟨Q.Reaches.congr had (Eq.symm h), Q.Reaches.congr hbd h⟩
  exact Int.le_antisymm ((key _).mp (Int.le_refl _)) ((key _).mpr (Int.le_refl _))

/-! Rounding to an integer (00 R7; 03 R52). -/

/-- Whether a magnitude n / d strictly between the neighbours `lo` and `hi` goes to `hi`; `odd` says that `lo` loses a tie (03 R52). -/
def RoundsUp (rm : RM) (neg : Bool) (n d lo hi : Nat) (odd : Prop) : Prop :=
  match rm with
  | .rz => False
  | .up => neg = false
  | .down => neg = true
  | .rna => (lo + hi) * d ≤ 2 * n
  | .rne => (lo + hi) * d < 2 * n ∨ (lo + hi) * d = 2 * n ∧ odd

theorem roundNat_exact (rm : RM) (neg : Bool) (m : Nat) {d : Nat} (hd : 0 < d) : roundNat rm neg (m * d) d = (m, false) := by
  unfold roundNat
  simp only [Nat.mul_div_cancel m hd, Nat.mul_mod_left]
  cases rm with
  | rne | rna =>
    rw [if_neg (by simp; omega)]
    simp
  | rz | up | down => simp

theorem roundNat_between (rm : RM) (neg : Bool) {m n d : Nat} (h1 : m * d < n) (h2 : n < (m + 1) * d) :
    (RoundsUp rm neg n d m (m + 1) (m % 2 = 1) → roundNat rm neg n d = (m + 1, true)) ∧
      (¬ RoundsUp rm neg n d m (m + 1) (m % 2 = 1) → roundNat rm neg n d = (m, true)) := by
  rw [Nat.succ_mul] at h2
  obtain ⟨r, rfl⟩ := Nat.exists_eq_add_of_lt h1
  have hr : r + 1 < d := by omega
  have hq : (m * d + r + 1) / d = m := by
    rw [Nat.add_assoc, Nat.mul_comm, Nat.mul_add_div (by omega), Nat.div_eq_of_lt hr, Nat.add_zero]
  have hm : (m * d + r + 1) % d = r + 1 := by
    rw [Nat.add_assoc, Nat.mul_comm, Nat.mul_add_mod, Nat.mod_eq_of_lt hr]
  have hs : (m + (m + 1)) * d = 2 * (m * d) + d := by
    rw [Nat.add_mul, Nat.succ_mul]
    omega
  unfold RoundsUp roundNat
  simp only [hq, hm, hs]
  cases rm with
  | rne | rna =>
    simp only [Bool.or_eq_true, Bool.and_eq_true, decide_eq_true_eq, beq_iff_eq]
    refine ⟨fun h => ?_, fun h => ?_⟩
    · rw [if_pos (by omega)]
      simp
    · rw [if_neg (by omega)]
      simp
  | rz => simp
  | up => cases neg <;> simp
  | down => cases neg <;> simp

theorem roundNat_double (rm : RM) (neg : Bool) (n d : Nat) : roundNat rm neg (2 * n) (2 * d) = roundNat rm neg n d := by
  have hz : (2 * (n % d) != 0) = (n % d != 0) := by
    rw [Bool.eq_iff_iff, bne_iff_ne, bne_iff_ne]
    omega
  have hlt : ∀ a b, (2 * a < 2 * b) = (a < b) := fun a b => propext (by omega)
  have hle : ∀ a b, (2 * a ≤ 2 * b) = (a ≤ b) := fun a b => propext (by omega)
  have heq : ∀ a b : Nat, (2 * a == 2 * b) = (a == b) := fun a b => by
    rw [Bool.eq_iff_iff, beq_iff_eq, beq_iff_eq]
    omega
  unfold roundNat
  simp only [Nat.mul_div_mul_left n d (show 0 < 2 by decide), Nat.mul_mod_mul_left, hz, hlt, hle, heq]

/-! The grids of the narrow formats (05 R104, R105, R112). -/

/-- An image on the grid of a format, extended without bound; images of F4 are twice the value (05 R105, R112). -/
def OnGrid (nf v : Nat) : Prop := nf ≠ 0 ∨ v < 2 ∨ ∃ k, v = 2 * 2 ^ k ∨ v = 3 * 2 ^ k

/-- A grid point that loses a tie under nearest even (05 R112). -/
def OddOnGrid (nf v : Nat) : Prop := if nf = 0 then v = 1 ∨ ∃ k, v = 3 * 2 ^ k else v % 2 = 1

/-- The magnitude of an exact quotient, counted in images. -/
def imageNum (nf : Nat) (q : Q) : Nat := if nf = 0 then 2 * q.n else q.n

/-- The spacing of a format's grid around a magnitude, counted in images. -/
def gridUnit (nf : Nat) (q : Q) : Nat := if nf = 0 then 2 ^ (max q.ilogb 0).toNat else 1

/-- The image of sign `neg` and magnitude `v`. -/
def signedImage (neg : Bool) (v : Nat) : Int := if neg then -(v : Int) else v

theorem pow_two_cases (k e : Nat) : 2 * 2 ^ k ≤ 2 ^ e ∨ 2 ^ k = 2 ^ e ∨ 2 * 2 ^ e ≤ 2 ^ k := by
  have key : ∀ {a b : Nat}, a < b → 2 * 2 ^ a ≤ 2 ^ b := fun h => by
    rw [← Nat.pow_succ']
    exact Nat.pow_le_pow_right (by decide) h
  rcases Nat.lt_trichotomy k e with h | rfl | h
  · exact .inl (key h)
  · exact .inr (.inl rfl)
  · exact .inr (.inr (key h))

/-- `m` and `m + 1` units are neighbours on the grid, and `m` says which of them wins a tie. -/
structure Neighbours (nf U m : Nat) : Prop where
  low : OnGrid nf (m * U)
  high : OnGrid nf ((m + 1) * U)
  gap : ∀ v, OnGrid nf v → m * U < v → (m + 1) * U ≤ v
  odd : OddOnGrid nf (m * U) ↔ m % 2 = 1

theorem neighbours_integer {nf : Nat} (h : nf ≠ 0) (m : Nat) : Neighbours nf 1 m where
  low := .inl h
  high := .inl h
  gap := fun v _ hv => by omega
  odd := by simp [OddOnGrid, h]

theorem neighbours_least {m : Nat} (h : m < 4) : Neighbours 0 1 m := by
  have hg : ∀ v, v < 5 → OnGrid 0 v := by
    intro v hv
    match v with
    | 0 | 1 => exact .inr (.inl (by decide))
    | 2 => exact .inr (.inr ⟨0, .inl rfl⟩)
    | 3 => exact .inr (.inr ⟨0, .inr rfl⟩)
    | 4 => exact .inr (.inr ⟨1, .inl rfl⟩)
    | _ + 5 => omega
  refine ⟨hg _ (by omega), hg _ (by omega), fun v _ hv => by omega, ?_⟩
  simp only [OddOnGrid, if_true, Nat.mul_one]
  constructor
  · rintro (h1 | ⟨k, hk⟩)
    · omega
    · have := Nat.two_pow_pos k
      omega
  · intro h1
    obtain rfl | rfl : m = 1 ∨ m = 3 := by omega
    · exact .inl rfl
    · exact .inr ⟨0, rfl⟩

theorem neighbours_octave (e : Nat) {m : Nat} (h : m = 2 ∨ m = 3) : Neighbours 0 (2 ^ e) m := by
  have hp := Nat.two_pow_pos e
  have gap : ∀ v, OnGrid 0 v → m * 2 ^ e < v → (m + 1) * 2 ^ e ≤ v := by
    rintro v (h0 | h0 | ⟨k, hk⟩) hv
    · exact absurd rfl h0
    · rcases h with rfl | rfl <;> omega
    · have := pow_two_cases k e
      rcases h with rfl | rfl <;> omega
  rcases h with rfl | rfl
  · refine ⟨.inr (.inr ⟨e, .inl rfl⟩), .inr (.inr ⟨e, .inr rfl⟩), gap, ?_⟩
    simp only [OddOnGrid, if_true]
    refine iff_of_false ?_ (by decide)
    rintro (h1 | ⟨k, hk⟩)
    · omega
    · have := pow_two_cases k e
      omega
  · refine ⟨.inr (.inr ⟨e, .inr rfl⟩), .inr (.inr ⟨e + 1, .inl (by rw [Nat.pow_succ]; omega)⟩), gap, ?_⟩
    simp only [OddOnGrid, if_true]
    exact iff_of_true (.inr ⟨e, rfl⟩) trivial

/-- Around a magnitude the grid is the multiples of its unit. -/
theorem neighbours_gridUnit (nf : Nat) {q : Q} (hn : 0 < q.n) (hd : 0 < q.d) :
    Neighbours nf (gridUnit nf q) (imageNum nf q / (gridUnit nf q * q.d)) := by
  unfold gridUnit imageNum
  by_cases h : nf = 0
  · subst h
    simp only [if_true]
    generalize he : (max q.ilogb 0).toNat = e
    have hp := Nat.mul_pos (Nat.two_pow_pos e) hd
    have high : 2 * q.n / (2 ^ e * q.d) < 4 := by
      have h1 : ¬ ((e + 1 : Nat) : Int) ≤ q.ilogb := by omega
      rw [Q.natCast_le_ilogb_iff hn hd, Nat.pow_succ, Nat.mul_right_comm] at h1
      rw [Nat.div_lt_iff_lt_mul hp]
      omega
    cases e with
    | zero => exact neighbours_least high
    | succ e =>
      have h1 : ((e + 1 : Nat) : Int) ≤ q.ilogb := by omega
      rw [Q.natCast_le_ilogb_iff hn hd] at h1
      have low : 2 ≤ 2 * q.n / (2 ^ (e + 1) * q.d) := by
        rw [Nat.le_div_iff_mul_le hp]
        omega
      exact neighbours_octave _ (by omega)
  · simpa only [if_neg h] using neighbours_integer h _

theorem gridUnit_pos (nf : Nat) (q : Q) : 0 < gridUnit nf q := by
  unfold gridUnit
  split
  · exact Nat.two_pow_pos _
  · exact Nat.one_pos

/-- A nonzero magnitude is rounded to a multiple of the grid's unit. -/
theorem gridRound_eq (nf : Nat) (rm : RM) (neg : Bool) {q : Q} (hn : 0 < q.n) : gridRound nf rm ⟨neg, q⟩ =
    (signedImage neg ((roundNat rm neg (imageNum nf q) (gridUnit nf q * q.d)).1 * gridUnit nf q),
      (roundNat rm neg (imageNum nf q) (gridUnit nf q * q.d)).2) := by
  have hz : (SQ.mk neg q).isZero = false := by simp [SQ.isZero, Nat.ne_of_gt hn]
  unfold gridRound imageNum gridUnit signedImage
  simp only [hz, Bool.false_eq_true, if_false, beq_iff_eq]
  by_cases h : nf = 0
  · simp only [if_pos h]
    generalize (max q.ilogb 0).toNat = e
    have hr : roundNat rm neg (q.shift (-((e : Int) - 1))).n (q.shift (-((e : Int) - 1))).d =
        roundNat rm neg (2 * q.n) (2 ^ e * q.d) := by
      cases e with
      | zero => simp [Q.shift, Nat.mul_comm]
      | succ e =>
        rw [Nat.pow_succ', Nat.mul_assoc, roundNat_double]
        unfold Q.shift
        split
        · next h0 =>
          obtain rfl : e = 0 := by omega
          simp
        · next h0 => simp [Nat.mul_comm]
    rw [hr]
  · simp [if_neg h, Q.shift]

theorem gridRound_zero (nf : Nat) (rm : RM) (neg : Bool) {q : Q} (hn : q.n = 0) : gridRound nf rm ⟨neg, q⟩ = (0, false) := by
  simp [gridRound, SQ.isZero, hn]

/-- A magnitude on the grid keeps its image (05 R112). -/
theorem gridRound_exact {nf : Nat} {q : Q} {lo : Nat} (rm : RM) (neg : Bool) (hd : 0 < q.d) (hlo : OnGrid nf lo)
    (h : imageNum nf q = lo * q.d) : gridRound nf rm ⟨neg, q⟩ = (signedImage neg lo, false) := by
  rcases Nat.eq_zero_or_pos q.n with hn | hn
  · have h0 : imageNum nf q = 0 := by simp [imageNum, hn]
    obtain rfl : lo = 0 := (Nat.mul_eq_zero.mp (h.symm.trans h0)).resolve_right (Nat.ne_of_gt hd)
    rw [gridRound_zero nf rm neg hn]
    cases neg <;> rfl
  · rw [gridRound_eq nf rm neg hn]
    have hU := gridUnit_pos nf q
    obtain ⟨-, -, gap, -⟩ := neighbours_gridUnit nf hn hd
    generalize gridUnit nf q = U at *
    rw [h, Nat.mul_comm U, ← Nat.div_div_eq_div_mul, Nat.mul_div_cancel _ hd] at gap
    rw [h]
    have hm : lo / U * U = lo := by
      have h1 : lo < (lo / U + 1) * U := by
        rw [Nat.mul_comm]
        exact Nat.lt_mul_div_succ lo hU
      have h2 := Nat.div_mul_le_self lo U
      rcases Nat.lt_or_eq_of_le h2 with h2 | h2
      · exact absurd (gap lo hlo h2) (by omega)
      · exact h2
    have hr := roundNat_exact rm neg (lo / U) (Nat.mul_pos hU hd)
    rw [← Nat.mul_assoc, hm] at hr
    rw [hr]
    simp only [hm]

/-- A magnitude strictly between two neighbours on the grid goes to the one that the mode names (05 R112). -/
theorem gridRound_between {nf : Nat} {q : Q} {lo hi : Nat} (rm : RM) (neg : Bool) (hd : 0 < q.d) (hlo : OnGrid nf lo)
    (hhi : OnGrid nf hi) (hadj : ∀ v, lo < v → v < hi → ¬ OnGrid nf v) (h1 : lo * q.d < imageNum nf q) (h2 : imageNum nf q < hi * q.d) :
    (RoundsUp rm neg (imageNum nf q) q.d lo hi (OddOnGrid nf lo) → gridRound nf rm ⟨neg, q⟩ = (signedImage neg hi, true)) ∧
      (¬ RoundsUp rm neg (imageNum nf q) q.d lo hi (OddOnGrid nf lo) → gridRound nf rm ⟨neg, q⟩ = (signedImage neg lo, true)) := by
  have hn : 0 < q.n := by
    refine Nat.pos_of_ne_zero fun h0 => ?_
    simp [imageNum, h0] at h1
  rw [gridRound_eq nf rm neg hn]
  have hU := gridUnit_pos nf q
  obtain ⟨low, high, gap, odd⟩ := neighbours_gridUnit nf hn hd
  generalize gridUnit nf q = U at *
  generalize imageNum nf q = n at *
  generalize hm : n / (U * q.d) = m at *
  have hp := Nat.mul_pos hU hd
  have b1 : m * U * q.d ≤ n := by
    rw [Nat.mul_assoc, ← hm]
    exact Nat.div_mul_le_self _ _
  have b2 : n < (m + 1) * U * q.d := by
    rw [Nat.mul_assoc, Nat.mul_comm, ← hm]
    exact Nat.lt_mul_div_succ _ hp
  have a1 : lo < (m + 1) * U := Nat.lt_of_mul_lt_mul_right (Nat.lt_trans h1 b2)
  have a2 : m * U < hi := Nat.lt_of_mul_lt_mul_right (Nat.lt_of_le_of_lt b1 h2)
  have e1 : m * U = lo := by
    rcases Nat.lt_trichotomy lo (m * U) with h | h | h
    · exact absurd low (hadj _ h a2)
    · exact h.symm
    · exact absurd (gap lo hlo h) (by omega)
  have e2 : (m + 1) * U = hi := by
    rcases Nat.lt_trichotomy ((m + 1) * U) hi with h | h | h
    · exact absurd high (hadj _ a1 h)
    · exact h
    · exact absurd (gap hi hhi a2) (by omega)
  have key := roundNat_between rm neg (m := m) (n := n) (d := U * q.d) (by rwa [← Nat.mul_assoc, e1]) (by rwa [← Nat.mul_assoc, e2])
  have hup : RoundsUp rm neg n (U * q.d) m (m + 1) (m % 2 = 1) ↔ RoundsUp rm neg n q.d lo hi (OddOnGrid nf lo) := by
    have hs : (m + (m + 1)) * (U * q.d) = (lo + hi) * q.d := by
      rw [← e1, ← e2, ← Nat.add_mul, Nat.mul_assoc]
    unfold RoundsUp
    rw [hs, ← odd, e1]
  refine ⟨fun h => ?_, fun h => ?_⟩
  · rw [key.1 (hup.mpr h), ← e2]
  · rw [key.2 (fun g => h (hup.mp g)), ← e1]

/-! Codes and images (05 R104 to R107, R112, R118). -/

theorem clampI_eq (x : Int) {lo hi : Int} (h : lo ≤ hi) : clampI x lo hi = max lo (min x hi) := by
  unfold clampI
  split
  · omega
  · split <;> omega

theorem two_pow_cast (k : Nat) : (2 : Int) ^ k = ((2 ^ k : Nat) : Int) := (Int.natCast_pow 2 k).symm

theorem wrapN_cast (v : Int) (w : Nat) : (wrapN v w : Int) = v % (2 ^ w : Nat) := by
  have := Nat.two_pow_pos w
  rw [wrapN, two_pow_cast, Int.toNat_of_nonneg (Int.emod_nonneg _ (by omega))]

theorem wrapN_lt (v : Int) (w : Nat) : wrapN v w < 2 ^ w := by
  have h := Int.emod_lt_of_pos v (Int.natCast_pos.mpr (Nat.two_pow_pos w))
  rw [← wrapN_cast] at h
  omega

/-- An integer of `n` bits in two's complement is read back from a container of `w` bits. -/
theorem sextN_wrapN {n w : Nat} {v : Int} (hn : 0 < n) (hw : n ≤ w) (h1 : -2 ^ (n - 1) ≤ v) (h2 : v < 2 ^ (n - 1)) :
    sextN (wrapN v w) n = v := by
  obtain ⟨k, rfl⟩ : ∃ k, n = k + 1 := ⟨n - 1, by omega⟩
  have hm : ((wrapN v w % 2 ^ (k + 1) : Nat) : Int) = v % (2 ^ (k + 1) : Nat) := by
    rw [Int.natCast_emod, wrapN_cast]
    exact Int.emod_emod_of_dvd v (Int.natCast_dvd_natCast.mpr (Nat.pow_dvd_pow 2 hw))
  rw [Nat.add_sub_cancel, two_pow_cast] at h1 h2
  unfold sextN
  rw [Nat.add_sub_cancel, two_pow_cast (k + 1)]
  generalize wrapN v w % 2 ^ (k + 1) = m at *
  rw [Nat.pow_succ] at hm ⊢
  generalize 2 ^ k = P at *
  rcases Int.lt_or_le v 0 with h | h
  · rw [← Int.add_emod_right, Int.emod_eq_of_lt (by omega) (by omega)] at hm
    rw [if_neg (by omega)]
    omega
  · rw [Int.emod_eq_of_lt h (by omega)] at hm
    rw [if_pos (by omega), hm]

theorem nfEmax_eq : ∀ nf, nf < 7 → nfEmax nf = [2, 2, 0, 0, 6, 6, 10].getD nf 0 := by decide
theorem nfMin_le_nfMax : ∀ nf, nf < 7 → nfMin nf ≤ nfMax nf := by decide

/-- Saturation to the images of a format (05 R104, R112). -/
theorem clampI_nfMin_nfMax {nf : Nat} (h : nf < 7) (w : Int) : clampI w (nfMin nf) (nfMax nf) =
    max ([-12, -8, -2, -1, -128, -128, -2048].getD nf 0) (min w ([12, 7, 1, 1, 127, 127, 2047].getD nf 0)) := by
  have table : ∀ nf, nf < 7 → nfMin nf = [-12, -8, -2, -1, -128, -128, -2048].getD nf 0 ∧
      nfMax nf = [12, 7, 1, 1, 127, 127, 2047].getD nf 0 := by decide
  rw [clampI_eq _ (nfMin_le_nfMax nf h), (table nf h).1, (table nf h).2]

theorem OnGrid.mem_f4Images {v : Nat} (h : OnGrid 0 v) (hv : v ≤ 12) : v ∈ f4Images := by
  rcases h with h | h | ⟨k, hk⟩
  · exact absurd rfl h
  · obtain rfl | rfl : v = 0 ∨ v = 1 := by omega
    all_goals decide
  · match k with
    | 0 | 1 | 2 => rcases hk with rfl | rfl <;> decide
    | k + 3 =>
      have := Nat.two_pow_pos k
      rw [Nat.pow_add] at hk
      omega

/-- The bounds of a format are those of its two's complement integers, but for F4 and the least T image. -/
theorem nfBits_bounds : ∀ nf, nf < 7 → nf ≠ 0 → 0 < nfBits nf ∧ nfBits nf ≤ nfCw nf ∧
    -2 ^ (nfBits nf - 1) ≤ nfMin nf ∧ nfMax nf < 2 ^ (nfBits nf - 1) := by
  decide

theorem nfImage_zero_nfCode : ∀ m ∈ f4Images, ∀ neg, nfImage 0 (nfCode 0 (signedImage neg m)) = signedImage neg m ∧
    nfCode 0 (signedImage neg m) < 2 ^ nfCw 0 ∧ (signedImage neg m = 0 → nfCode 0 (signedImage neg m) = 0) := by
  decide

theorem exists_signedImage (v : Int) : ∃ neg, v = signedImage neg v.natAbs := by
  rcases Int.natAbs_eq v with h | h
  · exact ⟨false, h⟩
  · exact ⟨true, h⟩

theorem nfReserved_nfCode {v : Int} (h1 : -1 ≤ v) (h2 : v ≤ 1) : nfReserved 3 (nfCode 3 v) = false := by
  obtain rfl | rfl | rfl : v = -1 ∨ v = 0 ∨ v = 1 := by omega
  all_goals decide

/-- The code of an image on the grid and within the format's range stands for that image (05 R107, R112). -/
theorem nfImage_nfCode {nf : Nat} {v : Int} (hnf : nf < 7) (h1 : nfMin nf ≤ v) (h2 : v ≤ nfMax nf) (hg : OnGrid nf v.natAbs) :
    nfImage nf (nfCode nf v) = v ∧ nfCode nf v < 2 ^ nfCw nf ∧ (v = 0 → nfCode nf v = 0) := by
  by_cases h0 : nf = 0
  · subst h0
    obtain ⟨neg, hv⟩ := exists_signedImage v
    have hm : v.natAbs ∈ f4Images := hg.mem_f4Images (by
      change -12 ≤ v at h1
      change v ≤ 12 at h2
      omega)
    rw [hv]
    exact nfImage_zero_nfCode _ hm neg
  · have hr : nfReserved nf (nfCode nf v) = false := by
      by_cases h3 : nf = 3
      · subst h3
        exact nfReserved_nfCode h1 h2
      · simp [nfReserved, h3]
    obtain ⟨b0, b1, b2, b3⟩ := nfBits_bounds nf hnf h0
    have hc : nfCode nf v = wrapN v (nfCw nf) := by simp [nfCode, h0]
    refine ⟨?_, hc ▸ wrapN_lt _ _, fun hv => by rw [hc, hv]; simp [wrapN]⟩
    unfold nfImage
    rw [hr, hc]
    simpa [h0] using sextN_wrapN b0 b1 (Int.le_trans b2 h1) (Int.lt_of_le_of_lt h2 b3)

theorem nfMin_nfMax_onGrid (nf : Nat) : OnGrid nf (nfMin nf).natAbs ∧ OnGrid nf (nfMax nf).natAbs := by
  by_cases h : nf = 0
  · subst h
    exact ⟨.inr (.inr ⟨2, .inr rfl⟩), .inr (.inr ⟨2, .inr rfl⟩)⟩
  · exact ⟨.inl h, .inl h⟩

theorem clampI_onGrid {nf v : Nat} (neg : Bool) (h : OnGrid nf v) : OnGrid nf (clampI (signedImage neg v) (nfMin nf) (nfMax nf)).natAbs := by
  obtain ⟨g1, g2⟩ := nfMin_nfMax_onGrid nf
  unfold clampI
  split
  · exact g1
  · split
    · exact g2
    · cases neg <;> simpa [signedImage] using h

/-- What `roundGrid` answers for a quotient whose image on the extended grid is known: the code of the nearest image in range, and
whether the two differ (05 R112). -/
theorem roundGrid_of_gridRound {nf : Nat} {rm : RM} {neg : Bool} {q : Q} {v : Nat} {inexact : Bool} (hnf : nf < 7) (hv : OnGrid nf v)
    (h : gridRound nf rm ⟨neg, q⟩ = (signedImage neg v, inexact)) :
    let r := roundGrid nf (.mode rm) ⟨neg, q⟩
    let w := signedImage neg v
    let k := clampI w (nfMin nf) (nfMax nf)
    nfImage nf r.1 = k ∧ r.1 < 2 ^ nfCw nf ∧ (k = 0 → r.1 = 0) ∧ r.2.1 = decide (k ≠ w) ∧ r.2.2 = (inexact || decide (k ≠ w)) := by
  intro r w k
  have hr : r = (nfCode nf k, k != w, inexact || k != w) := by
    simp only [r, w, k, roundGrid, h]
  have hne : (k != w) = decide (k ≠ w) := by
    rw [Bool.eq_iff_iff, bne_iff_ne, decide_eq_true_iff]
  obtain ⟨h1, h2⟩ : nfMin nf ≤ k ∧ k ≤ nfMax nf := by
    have hle := nfMin_le_nfMax nf hnf
    simp only [k, clampI_eq _ hle]
    omega
  obtain ⟨i1, i2, i3⟩ := nfImage_nfCode hnf h1 h2 (clampI_onGrid neg hv)
  rw [hr, hne]
  exact ⟨i1, i2, i3, rfl, rfl⟩

theorem nfReserved_iff (nf c : Nat) : nfReserved nf c = true ↔ nf = 3 ∧ c % 4 = 2 := by
  simp [nfReserved]

/-- The integer formats of 8 and 12 bits read two's complement (05 R104, R107). -/
theorem nfImage_eight {nf c : Nat} (hnf : nf = 4 ∨ nf = 5) (hc : c < 256) : nfImage nf c = if c < 128 then (c : Int) else c - 256 := by
  have : nfImage nf c = sextN c 8 := by rcases hnf with rfl | rfl <;> rfl
  rw [this, sextN, Nat.mod_eq_of_lt (show c < 2 ^ 8 from hc)]
  rfl

theorem nfImage_twelve (c : Nat) : nfImage 6 c = if c % 4096 < 2048 then (c % 4096 : Int) else c % 4096 - 4096 := rfl

theorem nfValue_eq (nf c b : Nat) (t : Q) : nfValue nf c b t = ⟨decide (nfImage nf c < 0),
    Q.shift ⟨(nfImage nf c).natAbs * t.n, t.d⟩ ((b : Int) - 127 - if nf = 0 then 1 else 0)⟩ := by
  simp only [nfValue, beq_iff_eq]

/-- The number whose digits of `w` bits are the codes, the first one the least. -/
def packed (w : Nat) : List Nat → Nat
  | [] => 0
  | c :: cs => c + 2 ^ w * packed w cs

/-- A packed run is a number whose digits are the codes (05 R107). -/
theorem packCodes_eq (nf : Nat) (cs : List Nat) : packCodes nf cs = packed (nfCw nf) cs := by
  have key : ∀ (cs : List Nat) (k a : Nat), (cs.zipIdx k).foldl (fun a ci => a + ci.1 * 2 ^ (nfCw nf * ci.2)) a =
      a + 2 ^ (nfCw nf * k) * packed (nfCw nf) cs := by
    intro cs
    induction cs with
    | nil => exact fun _ _ => rfl
    | cons c cs ih =>
      intro k a
      rw [List.zipIdx_cons, List.foldl_cons, ih, packed, Nat.mul_succ, Nat.pow_add, Nat.mul_add, ← Nat.mul_assoc, Nat.add_assoc, Nat.mul_comm c]
  rw [packCodes, key, Nat.mul_zero, Nat.pow_zero, Nat.one_mul, Nat.zero_add]

theorem packed_digit {w : Nat} {cs : List Nat} (h : ∀ c ∈ cs, c < 2 ^ w) (e : Nat) : packed w cs / 2 ^ (w * e) % 2 ^ w = cs.getD e 0 := by
  induction cs generalizing e with
  | nil => rw [packed, Nat.zero_div, Nat.zero_mod, List.getD_nil]
  | cons c cs ih =>
    obtain ⟨hc, hcs⟩ := List.forall_mem_cons.mp h
    cases e with
    | zero =>
      rw [packed, Nat.mul_zero, Nat.pow_zero, Nat.div_one, Nat.add_mul_mod_self_left, List.getD_cons_zero]
      exact Nat.mod_eq_of_lt hc
    | succ e =>
      rw [packed, Nat.mul_succ, Nat.add_comm (w * e), Nat.pow_add, ← Nat.div_div_eq_div_mul, Nat.add_mul_div_left _ _ (Nat.two_pow_pos w),
        Nat.div_eq_of_lt hc, Nat.zero_add, ih hcs, List.getD_cons_succ]

theorem packCodes_digit {nf : Nat} {cs : List Nat} (h : ∀ c ∈ cs, c < 2 ^ nfCw nf) (e : Nat) :
    packCodes nf cs / 2 ^ (nfCw nf * e) % 2 ^ nfCw nf = cs.getD e 0 := by
  rw [packCodes_eq, packed_digit h]

theorem bitN_iff (m i : Nat) : bitN m i = true ↔ m / 2 ^ i % 2 = 1 := beq_iff_eq

/-- A bit of an integer is that of its two's complement in enough bits. -/
theorem bitN_wrapN (v : Int) {p n : Nat} (h : p < n) : bitN (wrapN v n) p = true ↔ v / 2 ^ p % 2 = 1 := by
  obtain ⟨k, rfl⟩ := Nat.exists_eq_add_of_lt h
  have hp : 2 ^ (p + k + 1) = 2 ^ p * (2 * 2 ^ k) := by rw [Nat.add_assoc, Nat.pow_add, Nat.pow_succ']
  have hv : v / (2 ^ p : Nat) = (wrapN v (p + k + 1) : Int) / (2 ^ p : Nat) + 2 * ((2 ^ k : Nat) * (v / (2 ^ (p + k + 1) : Nat))) := by
    have h0 : ((2 ^ p : Nat) : Int) ≠ 0 := Int.natCast_ne_zero.mpr (Nat.ne_of_gt (Nat.two_pow_pos p))
    rw [← Int.mul_assoc, ← Int.add_mul_ediv_left _ _ h0, ← Int.mul_assoc, wrapN_cast]
    have hs : ((2 ^ p : Nat) : Int) * (2 * (2 ^ k : Nat)) = (2 ^ (p + k + 1) : Nat) := by
      rw [hp, Int.natCast_mul, Int.natCast_mul]
      rfl
    rw [hs, Int.emod_add_mul_ediv]
  rw [bitN_iff, two_pow_cast, hv, Int.add_mul_emod_self_left]
  omega

theorem natAbs_nfImage_zero (c : Nat) : (nfImage 0 c).natAbs = f4Images.getD (c % 8) 0 := by
  simp only [nfImage, beq_self_eq_true, if_true]
  split <;> simp

theorem planeBit_iff (nf c : Nat) {p : Nat} (hp : p < nfPlanes nf) : planeBit nf c p = true ↔
    if nf = 0 then (if p = 4 then c / 8 % 2 = 1 else (nfImage 0 c).natAbs / 2 ^ p % 2 = 1) else nfImage nf c / 2 ^ p % 2 = 1 := by
  unfold planeBit
  by_cases h : nf = 0
  · simp only [h, beq_self_eq_true, if_true, beq_iff_eq, natAbs_nfImage_zero]
    split
    · exact bitN_iff c 3
    · exact bitN_iff _ _
  · simpa [h] using bitN_wrapN (nfImage nf c) hp

theorem tensorScale_zero : tensorScale 0 = some ⟨1, 1⟩ := rfl

theorem tensorScale_ne_zero {v : Nat} (hv : v < 2 ^ 32) (h : v ≠ 0) : tensorScale v = match fval .f32 v with
    | .fin false q => some q
    | _ => none := by
  have h0 : (v % 2 ^ 32 == 0) = false := by
    rw [Nat.mod_eq_of_lt hv]
    simpa using h
  unfold tensorScale
  rw [h0]
  rfl

/-! A block under its scales (05 R109, R111, R113). -/

/-- The block of a NaN block or an invalid tensor scale, and of a block of zeros (05 R111). -/
def QBlock.empty (b : Nat) (nan : Bool) : QBlock :=
  { b := b, codes := List.replicate 8 0, nan := nan, sat := false, ufl := false, inexact := false }

/-- The greatest of `a` and the magnitudes of a block's elements. -/
def maxMagnitude (xs : List FV) (a : Q) : Q := xs.foldl (fun (a : Q) x => if a.n * x.sq.q.d < x.sq.q.n * a.d then x.sq.q else a) a

/-- The block scale code under the tensor scale `t` where the greatest magnitude is `m` (05 R111). -/
def blockScale (nf : Nat) (m t : Q) : Int := clampI ((m.div t).ilogb - nfEmax nf + 127) 1 254

/-- What each element of a block becomes under the scale `s`. -/
def quantised (xs : List FV) (nf : Nat) (s : Q) (sel : Nat → NRound) : List (Nat × Bool × Bool) :=
  xs.zipIdx.map (fun e => roundGrid nf (sel e.2) ⟨e.1.sq.neg, e.1.sq.q.div s⟩)

/-- The block of the codes `rs` under the block scale code `b`, with its status (05 R111, R113). -/
def QBlock.rounded (b : Nat) (rs : List (Nat × Bool × Bool)) : QBlock :=
  let sat := rs.any (fun r => r.2.1)
  { b := b, codes := rs.map Prod.fst, nan := false, sat := sat, ufl := !sat && rs.all (fun r => r.1 == 0),
    inexact := rs.any (fun r => r.2.2) }

theorem QBlock.rounded_ufl (b : Nat) (rs : List (Nat × Bool × Bool)) : (QBlock.rounded b rs).ufl = true ↔
    (QBlock.rounded b rs).sat = false ∧ ∀ c ∈ (QBlock.rounded b rs).codes, c = 0 := by
  simp only [QBlock.rounded, Bool.and_eq_true, Bool.not_eq_true', List.all_eq_true, beq_iff_eq, List.forall_mem_map]

theorem quantiseBlock_cases (xs : List FV) (nf : Nat) (t : Q) (sel : Nat → NRound) : quantiseBlock xs nf (some t) sel true =
    if xs.any (fun v => v.isNan || v.isInf) then .empty 0xFF true
    else if (maxMagnitude xs ⟨0, 1⟩).zero then .empty 0 false
    else .rounded (blockScale nf (maxMagnitude xs ⟨0, 1⟩) t).toNat
      (quantised xs nf (t.shift ((blockScale nf (maxMagnitude xs ⟨0, 1⟩) t).toNat - 127)) sel) := by
  unfold quantiseBlock
  simp only [if_true]
  rfl

theorem maxMagnitude_zero {xs : List FV} (h : ∀ v ∈ xs, v.sq.q.n = 0) : maxMagnitude xs ⟨0, 1⟩ = ⟨0, 1⟩ := by
  induction xs with
  | nil => rfl
  | cons x xs ih =>
    obtain ⟨hx, hxs⟩ := List.forall_mem_cons.mp h
    simpa [maxMagnitude, hx] using ih hxs

theorem atMost_trans {a b c : Q} (hb : 0 < b.d) (h : AtMost a b) (g : AtMost b c) : AtMost a c := by
  unfold AtMost at *
  refine Nat.le_of_mul_le_mul_right (c := b.d) ?_ hb
  calc a.n * c.d * b.d = a.n * b.d * c.d := Nat.mul_right_comm _ _ _
    _ ≤ b.n * a.d * c.d := Nat.mul_le_mul_right _ h
    _ = b.n * c.d * a.d := Nat.mul_right_comm _ _ _
    _ ≤ c.n * b.d * a.d := Nat.mul_le_mul_right _ g
    _ = c.n * a.d * b.d := Nat.mul_right_comm _ _ _

/-- The greatest magnitude is one of those given, and no element's is greater. -/
theorem maxMagnitude_spec {xs : List FV} {a : Q} (ha : 0 < a.d) (h : ∀ v ∈ xs, 0 < v.sq.q.d) :
    0 < (maxMagnitude xs a).d ∧ AtMost a (maxMagnitude xs a) ∧ (∀ v ∈ xs, AtMost v.sq.q (maxMagnitude xs a)) ∧
      (maxMagnitude xs a = a ∨ ∃ v ∈ xs, v.sq.q = maxMagnitude xs a) := by
  induction xs generalizing a with
  | nil => exact ⟨ha, Nat.le_refl _, fun v hv => absurd hv List.not_mem_nil, .inl rfl⟩
  | cons x xs ih =>
    obtain ⟨hx, hxs⟩ := List.forall_mem_cons.mp h
    have hm : maxMagnitude (x :: xs) a = maxMagnitude xs (if a.n * x.sq.q.d < x.sq.q.n * a.d then x.sq.q else a) := rfl
    rw [hm]
    by_cases g : a.n * x.sq.q.d < x.sq.q.n * a.d
    · rw [if_pos g]
      obtain ⟨i1, i2, i3, i4⟩ := ih hx hxs
      refine ⟨i1, atMost_trans hx (Nat.le_of_lt g) i2, List.forall_mem_cons.mpr ⟨i2, i3⟩, .inr ?_⟩
      rcases i4 with i4 | ⟨v, hv, i4⟩
      · exact ⟨x, List.mem_cons_self, i4.symm⟩
      · exact ⟨v, List.mem_cons_of_mem _ hv, i4⟩
    · rw [if_neg g]
      obtain ⟨i1, i2, i3, i4⟩ := ih ha hxs
      refine ⟨i1, i2, List.forall_mem_cons.mpr ⟨atMost_trans ha (Nat.le_of_not_lt g) i2, i3⟩, i4.imp_right ?_⟩
      exact fun ⟨v, hv, i4⟩ => ⟨v, List.mem_cons_of_mem _ hv, i4⟩

theorem maxMagnitude_sameValue {xs : List FV} {M : Q} (hM : ∃ v ∈ xs, v.sq.q = M) (h : ∀ v ∈ xs, 0 < v.sq.q.d ∧ AtMost v.sq.q M) :
    0 < (maxMagnitude xs ⟨0, 1⟩).d ∧ SameValue (maxMagnitude xs ⟨0, 1⟩) M := by
  obtain ⟨w, hw, rfl⟩ := hM
  obtain ⟨hd, -, hle, hmem⟩ := maxMagnitude_spec (a := ⟨0, 1⟩) Nat.one_pos (fun v hv => (h v hv).1)
  refine ⟨hd, Nat.le_antisymm ?_ (hle w hw)⟩
  rcases hmem with hmem | ⟨v, hv, hmem⟩
  · rw [hmem, Nat.zero_mul]
    exact Nat.zero_le _
  · rw [← hmem]
    exact (h v hv).2

/-- The block scale depends on the value of the greatest magnitude alone. -/
theorem blockScale_congr (nf : Nat) {m M t : Q} (hm : 0 < m.n) (hmd : 0 < m.d) (hM : 0 < M.n) (hMd : 0 < M.d) (htn : 0 < t.n) (htd : 0 < t.d)
    (h : SameValue m M) : blockScale nf m t = blockScale nf M t := by
  have hq : SameValue (m.div t) (M.div t) := by
    have h : m.n * M.d = M.n * m.d := h
    change m.n * t.d * (M.d * t.n) = M.n * t.d * (m.d * t.n)
    rw [Nat.mul_mul_mul_comm, h, Nat.mul_mul_mul_comm]
  rw [blockScale, Q.ilogb_congr (Nat.mul_pos hm htd) (Nat.mul_pos hmd htn) (Nat.mul_pos hM htd) (Nat.mul_pos hMd htn) hq, blockScale]

theorem blockScale_pos (nf : Nat) (m t : Q) : 1 ≤ blockScale nf m t := by
  rw [blockScale, clampI_eq _ (by decide)]
  omega

theorem quantiseBlock_nan {xs : List FV} (nf : Nat) (t : Q) (sel : Nat → NRound) (h : xs.any (fun v => v.isNan || v.isInf) = true) :
    quantiseBlock xs nf (some t) sel true = .empty 0xFF true := by
  rw [quantiseBlock_cases, if_pos h]

theorem quantiseBlock_zero {xs : List FV} (nf : Nat) (t : Q) (sel : Nat → NRound)
    (h : xs.all (fun v => !v.isNan && !v.isInf && v.sq.isZero) = true) : quantiseBlock xs nf (some t) sel true = .empty 0 false := by
  simp only [List.all_eq_true, Bool.and_eq_true, Bool.not_eq_true', SQ.isZero, beq_iff_eq] at h
  have hn : ¬ xs.any (fun v => v.isNan || v.isInf) = true := by
    rw [List.any_eq_true]
    rintro ⟨v, hv, g⟩
    obtain ⟨⟨h1, h2⟩, -⟩ := h v hv
    simp [h1, h2] at g
  rw [quantiseBlock_cases, if_neg hn, maxMagnitude_zero (fun v hv => (h v hv).2)]
  rfl

/-- A finite block whose greatest magnitude `M` is not zero (05 R111, R113). -/
theorem quantiseBlock_finite {xs : List FV} {M t : Q} (nf : Nat) (sel : Nat → NRound)
    (hf : xs.any (fun v => v.isNan || v.isInf) = false) (hM : ∃ v ∈ xs, v.sq.q = M) (hle : ∀ v ∈ xs, 0 < v.sq.q.d ∧ AtMost v.sq.q M)
    (hn : 0 < M.n) (htn : 0 < t.n) (htd : 0 < t.d) :
    let B := quantiseBlock xs nf (some t) sel true
    let rs := quantised xs nf (t.shift (blockScale nf M t - 127)) sel
    (B.b : Int) = blockScale nf M t ∧ B.codes = rs.map Prod.fst ∧ B.nan = false ∧ B.sat = rs.any (fun r => r.2.1) ∧
      (B.ufl = true ↔ B.sat = false ∧ ∀ c ∈ B.codes, c = 0) ∧ B.inexact = rs.any (fun r => r.2.2) := by
  obtain ⟨hmd, hmv⟩ := maxMagnitude_sameValue hM hle
  have hMd : 0 < M.d := by
    obtain ⟨v, hv, rfl⟩ := hM
    exact (hle v hv).1
  have hmn : 0 < (maxMagnitude xs ⟨0, 1⟩).n := by
    have hpos : 0 < (maxMagnitude xs ⟨0, 1⟩).n * M.d := Nat.lt_of_lt_of_eq (Nat.mul_pos hn hmd) hmv.symm
    exact Nat.pos_of_mul_pos_right hpos
  have hz : ¬ (maxMagnitude xs ⟨0, 1⟩).zero = true := by
    simp only [Q.zero, beq_iff_eq]
    exact Nat.ne_of_gt hmn
  have hb := Int.toNat_of_nonneg (Int.le_of_lt (blockScale_pos nf M t))
  rw [quantiseBlock_cases, if_neg (Bool.eq_false_iff.mp hf), if_neg hz, blockScale_congr nf hmn hmd hn hMd htn htd hmv, hb]
  exact ⟨hb, rfl, rfl, rfl, QBlock.rounded_ufl _ _, rfl⟩

/-- Settles O13: the instructions by the equations of their functions, the rest by the lemmas on blocks, grids and codes. -/
theorem narrowConversions : Obligations.NarrowConversions := by
  unfold Obligations.NarrowConversions
  intro rm regs bits
  refine ⟨?qcvt, ?dqcvt, ?plpack, ?block, ?grid, ?images, fun nf c b t => ?value, fun nf cs e _ h => packCodes_digit h e,
    fun nf c p _ hp => planeBit_iff nf c hp, fun v hv => ⟨fun h => h ▸ tensorScale_zero, tensorScale_ne_zero hv⟩⟩
  case qcvt =>
    exact ⟨fun _ => laneClaimM_of (fun _ => rfl) (fun _ _ _ => rfl),
      fun _ => laneClaimM_of (fun _ => rfl) (fun _ _ _ => rfl)⟩
  case dqcvt => exact fun x => laneClaimM_of (execDqcvt_eq x) (fun _ _ _ => rfl)
  case plpack =>
    exact fun x => laneClaim (execPlpack_eq x) (fun _ => rfl) (fun _ => rfl) (fun _ => rfl) (fun _ => rfl) (fun _ => rfl)
      (fun _ _ h => nomatch h)
  case block =>
    intro xs nf t sel B
    refine ⟨rfl, quantiseBlock_nan nf t sel, quantiseBlock_zero nf t sel, fun M hf hM hle hn htn htd => ?_⟩
    intro emax b s rs hnf
    have hb : b = blockScale nf M t := by
      rw [blockScale, clampI_eq _ (by decide), nfEmax_eq nf hnf]
      rfl
    have h := quantiseBlock_finite nf sel hf hM hle hn htn htd
    rw [← hb] at h
    exact h
  case grid =>
    intro nf rm neg q lo hi hnf hd grid odd n up least most r gives hlo
    have answer : ∀ {v inexact}, OnGrid nf v → gridRound nf rm ⟨neg, q⟩ = (signedImage neg v, inexact) → gives v inexact := fun hv h => by
      have g := roundGrid_of_gridRound hnf hv h
      simp only [clampI_nfMin_nfMax hnf] at g
      exact g
    refine ⟨fun h => answer hlo (gridRound_exact rm neg hd hlo h), fun hhi _ hadj h1 h2 => ?_⟩
    obtain ⟨hup, hdown⟩ := gridRound_between rm neg hd hlo hhi hadj h1 h2
    exact ⟨fun h => answer hhi (hup h), fun h => answer hlo (hdown h)⟩
  case images =>
    refine ⟨by decide, by decide, by decide, by decide, fun c hc => ⟨nfImage_eight (.inl rfl) hc, rfl⟩, fun c _ => nfImage_twelve c,
      by decide, by decide, fun nf c _ => nfReserved_iff nf c⟩
  case value =>
    rw [nfValue_eq]
    exact ⟨rfl, rfl⟩

end Sys2Proof.Machine
end

section
/-!
Proof of O44: shape registers, statuses and Coffer reads. Instructions that are not replay-class and end without a result, then the four
instructions, then the grant function; the theorem at the end puts the parts together.
-/
namespace Sys2Proof.Machine

open Safety

/-! An instruction that is not replay-class, executed by one member (15 R264; 19 R343). -/

section
variable {ni : Bool} {x : Ext} {major : Nat} {once : Bool} {ops : MemOps} {logged : Bool}
  {dest : Member → Nat → Nat → List Out} {body : MemIn → State → State × MemRes} {s : State} {is : Issue} {i : Nat}

theorem drainRun_single (hs : Single ni x (readRegs ops.reads ++ ops.more) s is i) :
    let r := memStep x major ops body is.blk { a := Acc.start (started s), done := [], faults := [], waits := [], stuck := false } i
    drainRun x major once ops logged dest body s = .next (afterIssue s
      (if r.stuck then reseat (started s) is.blk [i] else r.finishDrain x major logged dest is.blk [i]) is.blk [i]) := by
  unfold drainRun
  rw [withIssue_some _ _ is hs.cur, hs.mems]
  cases once with
  | false => rfl
  | true =>
    simp only [if_true, List.foldl_cons, List.foldl_nil]
    rw [onceStep_start]
    rfl

/-- An instruction that is not ready leaves everything but the issue tables (15 R264). -/
theorem drainRun_stuck {u : State} (hs : Single ni x (readRegs ops.reads ++ ops.more) s is i)
    (hb : body (memIn s is i x ops.reads) (started s) = (u, .notReady)) :
    drainRun x major once ops logged dest body s = .next (reseat (started s) is.blk [i]) := by
  have h := memStep_other ni x major ops body s is i u _ hs hb
  rw [drainRun_single hs, h]
  refine congrArg _ (afterIssue_plain _ _ _ _ hs.dbg ?_)
  rw [if_pos rfl, (reseat_reads ..).block]
  exact hs.course

/-- A fault stops the member at the instruction, and nothing is kept for a replay (19 R341, R343). -/
theorem drainRun_traps {u : State} {f : Flt} (hs : Single ni x (readRegs ops.reads ++ ops.more) s is i)
    (hb : body (memIn s is i x ops.reads) (started s) = (u, .fault f)) (hu : (u.block is.blk).member i = s.member is.blk i) :
    drainRun x major once ops logged dest body s = .next (trapped s u is i x major f) := by
  have h := memStep_other ni x major ops body s is i u _ hs hb
  rw [drainRun_single hs, h]
  simp only [Bool.false_eq_true, if_false, MemAcc.finishDrain, List.foldl_nil, List.foldl_cons, Acc.raise, Acc.finish, hu]
  rfl

end

/-! Block registers in a block without a course (20 R363). -/

theorem courseWrote_plain {B : Block} (h : B.course = none) (d : Nat) : courseWrote B d = B := by
  obtain ⟨c, hc, hn⟩ := courseWrote_course B d
  rw [hc, hn h, ← h]

theorem logBlockRead_plain {s : State} {b : Nat} (h : (s.block b).course = none) (i dest parts value : Nat) :
    logBlockRead s b i dest parts value = s := by
  have hr : logBlockReg s b i dest parts value = s := by simp only [logBlockReg, h]
  rw [logBlockRead, hr, ite_self]

theorem useShape_plain {s : State} {b : Nat} (h : (s.block b).course = none) (i n : Nat) : useShape s b i n = (s, (s.block b).shape n) := by
  rw [useShape, logBlockRead_plain h]

theorem getD_replicate_lt {α : Type} {n k : Nat} (h : k < n) (a d : α) : (List.replicate n a).getD k d = a := by
  rw [← List.getElem_eq_getD (h := by rwa [List.length_replicate]), List.getElem_replicate]

/-! SHAPE and SHGET (06 R127 to R129). -/

/-- The request that SHAPE takes from its sources (06 R127). -/
def shapeRequest (l : MemIn) : W64 := BitVec.ofNat 64 (medianBy unsignedV (l.src 0) + 2 ^ 32 * medianBy unsignedV (l.src 1))

/-- The block after SHAPE (06 R128). -/
def shapeGranted (s : State) (x : Ext) (l : MemIn) : Block :=
  let B := s.block l.b
  let h : ShapeReg := { req := shapeRequest l, grant := grantWord (shapeRequest l) B.tb (s.core B.core).liveRows }
  { B with sh := SMap.set ShapeReg.zero B.sh (x.d % 8) h }

theorem execShape_completes {ins : Instr} {x : Ext} {s : State} {is : Issue} {i : Nat} (he : exec ins s = execShape x s)
    (hs : Single true x (readRegs (shapeReads x)) s is i) :
    ∃ t, exec ins s = .next t ∧
      Completes x ((started s).setBlock is.blk (shapeGranted s x (memIn s is i x (shapeReads x)))) t is.blk i (fun _ => []) := by
  refine drainDone he (ni := true) (vs := []) (by simpa using hs) ?_ (.setBlock _ _ _ _ _ rfl rfl) (.inr rfl) (fun _ _ => rfl)
  have hc : (shapeGranted s x (memIn s is i x (shapeReads x))).course = none := hs.course
  exact Prod.ext (congrArg ((started s).setBlock is.blk) (courseWrote_plain hc _)) rfl

theorem regrantFlt_none {B : Block} {n : Nat} (h : bitN B.shChanged (n % 8) = false) : regrantFlt B n = none := by
  rw [regrantFlt, if_neg (Bool.eq_false_iff.mp h)]

theorem regrantFlt_some {B : Block} {n : Nat} (h : bitN B.shChanged (n % 8) = true) :
    regrantFlt B n = some { cause := .regrant, fcode := B.shChanged, addr := 0 } := by
  rw [regrantFlt, if_pos h]

theorem execShget_completes {x : Ext} {s : State} {is : Issue} {i : Nat} (hs : Single false x [] s is i)
    (h : bitN (s.block is.blk).shChanged (x.a % 8) = false) :
    let r := (s.block is.blk).shape x.a
    ∃ t, exec (.shget x) s = .next t ∧ Completes x (started s) t is.blk i
      (fun _ => [.pair x.d (BitVec.ofNat 64 (if x.mod = 1 then r.req.toNat else r.grant.toNat))]) := by
  intro r
  have hc : ((started s).block is.blk).course = none := hs.course
  have hr : regrantFlt ((started s).block is.blk) x.a = none := regrantFlt_none h
  refine drainDone (ni := false) (u := started s)
    (vs := List.replicate (s.member is.blk i).nsib (if x.mod = 1 then r.req.toNat else r.grant.toNat)) rfl hs ?_ (.refl ..) (.inl rfl) ?_
  · simp only [memIn, hr, useShape_plain hc, beq_iff_eq]
    rfl
  · intro k hk
    simp only [getD_replicate_lt (show k < (s.member is.blk i).nsib from hk)]

theorem execShget_traps {x : Ext} {s : State} {is : Issue} {i : Nat} (hs : Single false x [] s is i)
    (h : bitN (s.block is.blk).shChanged (x.a % 8) = true) :
    exec (.shget x) s = .next (trapped s (started s) is i x 48 { cause := .regrant, fcode := (s.block is.blk).shChanged, addr := 0 }) := by
  have hr : regrantFlt ((started s).block is.blk) x.a = some { cause := .regrant, fcode := (s.block is.blk).shChanged, addr := 0 } :=
    regrantFlt_some h
  refine drainRun_traps (ops := { reads := [], steer := [] }) hs ?_ rfl
  simp only [memIn, hr]

/-! MSTAT (07 R152). -/

theorem execMstat_completes {x : Ext} {s : State} {is : Issue} {i : Nat} (hs : Single false x [] s is i)
    (ht : x.a % 64 < (s.block is.blk).tagN) (h : tagBusy s is.blk (x.a % 64) = false) :
    let st := SMap.get 0 (s.block is.blk).tagStat (x.a % 64)
    ∃ t, exec (.mstat x) s = .next t ∧ Completes x (started s) t is.blk i
      (fun _ => (List.range 4).map (fun k => .reg (x.d + k) (BitVec.ofNat 32 (st.toNat / 2 ^ (32 * k))))) := by
  intro st
  have hn : ¬ ((started s).block is.blk).tagN ≤ x.a % 64 := Nat.not_le.mpr ht
  have hb : tagBusy (started s) is.blk (x.a % 64) = false := h
  refine drainDone (ni := false) (u := started s) (vs := List.replicate (s.member is.blk i).nsib st.toNat) rfl hs ?_ (.refl ..) (.inl rfl) ?_
  · simp only [memIn, hn, hb, if_false, Bool.false_eq_true]
    rfl
  · intro k hk
    simp only [getD_replicate_lt (show k < (s.member is.blk i).nsib from hk)]
    rfl

theorem execMstat_waits {x : Ext} {s : State} {is : Issue} {i : Nat} (hs : Single false x [] s is i)
    (ht : x.a % 64 < (s.block is.blk).tagN) (h : tagBusy s is.blk (x.a % 64) = true) :
    exec (.mstat x) s = .next (reseat (started s) is.blk [i]) := by
  have hn : ¬ ((started s).block is.blk).tagN ≤ x.a % 64 := Nat.not_le.mpr ht
  have hb : tagBusy (started s) is.blk (x.a % 64) = true := h
  refine drainRun_stuck (u := started s) (ops := { reads := [], steer := [] }) hs ?_
  simp only [memIn, hn, hb, if_false, if_true]

/-! CFREAD (07 R153, R155, R157). -/

/-- What CFREAD returns for the index `a` to a block of `region`: a slot's status word or one of its elements. -/
def CofferSlot.readAs (k : CofferSlot) (region : Nat) (stat : Prop) [Decidable stat] (a : Nat) : Nat :=
  if k.foreign region then 0 else if stat then k.status else if 36864 ≤ a % 2 ^ 16 then 0
  else if k.state = 2 then 0x7FC00000 else (SMap.get 0 k.elems (a % 2 ^ 16)).toNat

/-- Sources of CFREAD: an index, or none for the status word. -/
def cfreadReads (x : Ext) : List (Bool × Opnd) := [if x.mod = 1 then noRead else (false, .lane x.a), noRead, noRead, noRead]

theorem execCfread_eq (x : Ext) (s : State) : execCfread x s =
    drainRun x 50 false { reads := cfreadReads x, steer := [] } true (fun _ _ v => [.reg x.d (BitVec.ofNat 32 v)]) (fun l s =>
      let C := s.core (s.block l.b).core
      if C.matq.any (fun o => o.slot == x.imm % 4) then (s, .notReady)
      else (s, .done ((l.src 0).map ((C.slot (x.imm % 4)).readAs (s.block l.b).region (x.mod = 1))))) s := by
  unfold execCfread
  simp only [beq_iff_eq]
  rfl

theorem memIn_src_length (s : State) (is : Issue) (i : Nat) (x : Ext) (reads : List (Bool × Opnd)) (k : Nat) :
    ((memIn s is i x reads).src k).length = (s.member is.blk i).sibs.length := by
  simp only [MemIn.src, memIn, List.length_map]

theorem getD_map_lt {α β : Type} (f : α → β) (l : List α) {k : Nat} (h : k < l.length) (d : α) (e : β) :
    (l.map f).getD k e = f (l.getD k d) := by
  rw [← List.getElem_eq_getD (h := h), ← List.getElem_eq_getD (h := by rwa [List.length_map]), List.getElem_map]

theorem execCfread_completes {x : Ext} {s : State} {is : Issue} {i : Nat} (hs : Single false x (readRegs (cfreadReads x)) s is i) :
    let C := s.core (s.block is.blk).core
    (∀ o ∈ C.matq, o.slot ≠ x.imm % 4) → ∃ t, exec (.cfread x) s = .next t ∧ Completes x (started s) t is.blk i (fun p =>
      [.reg x.d (BitVec.ofNat 32 ((C.slot (x.imm % 4)).readAs (s.block is.blk).region (x.mod = 1)
        (((memIn s is i x (cfreadReads x)).src 0).getD p 0)))]) := by
  intro C h
  have hn : C.matq.any (fun o => o.slot == x.imm % 4) = false := by simpa using h
  refine drainDone (ni := false) (u := started s) (execCfread_eq x s) (by simpa using hs)
    (if_neg (Bool.eq_false_iff.mp hn)) (.refl ..) (.inl rfl) ?_
  intro k hk
  have hk : k < ((memIn s is i x (cfreadReads x)).src 0).length := by rwa [memIn_src_length]
  exact congrArg (fun v => [Out.reg x.d (BitVec.ofNat 32 v)]) (getD_map_lt _ _ hk 0 0)

theorem execCfread_waits {x : Ext} {s : State} {is : Issue} {i : Nat} (hs : Single false x (readRegs (cfreadReads x)) s is i)
    (h : ∃ o ∈ (s.core (s.block is.blk).core).matq, o.slot = x.imm % 4) :
    exec (.cfread x) s = .next (reseat (started s) is.blk [i]) := by
  have hy : (s.core (s.block is.blk).core).matq.any (fun o => o.slot == x.imm % 4) = true := by simpa using h
  exact (execCfread_eq x s).trans
    (drainRun_stuck (u := started s) (ops := { reads := cfreadReads x, steer := [] }) (by simpa using hs) (if_pos hy))

/-! The grant function (06 R125). -/

/-- The loop of the grant function only lowers its sides, by eights, until the product fits or a side is used up. -/
theorem grantLoop_spec (budget fuel m n : Nat) (hf : m + n ≤ 8 * fuel) (hm : m % 8 = 0) (hn : n % 8 = 0) :
    let r := grantLoop budget fuel m n
    r.1 % 8 = 0 ∧ r.2 % 8 = 0 ∧ r.1 ≤ m ∧ r.2 ≤ n ∧ (8 ≤ r.1 → 8 ≤ r.2 → r.1 * r.2 ≤ budget) := by
  induction fuel generalizing m n with
  | zero =>
    obtain ⟨rfl, rfl⟩ : m = 0 ∧ n = 0 := by omega
    exact ⟨rfl, rfl, Nat.le_refl _, Nat.le_refl _, fun _ _ => Nat.zero_le _⟩
  | succ fuel ih =>
    simp only [grantLoop]
    by_cases h : 8 ≤ m ∧ 8 ≤ n ∧ budget < m * n
    · obtain ⟨h8m, h8n, hb⟩ := h
      simp only [h8m, h8n, hb, decide_true, Bool.and_self, if_true]
      split
      · obtain ⟨i1, i2, i3, i4, i5⟩ := ih m (n - 8) (by omega) hm (by omega)
        exact ⟨i1, i2, i3, by omega, i5⟩
      · obtain ⟨i1, i2, i3, i4, i5⟩ := ih (m - 8) n (by omega) (by omega) hn
        exact ⟨i1, i2, by omega, i4, i5⟩
    · rw [if_neg (by simpa [and_assoc] using h)]
      exact ⟨hm, hn, Nat.le_refl _, Nat.le_refl _, fun h8m h8n => Nat.le_of_not_lt fun hb => h ⟨h8m, h8n, hb⟩⟩

/-- A FULL or REDUCED grant is what the loop leaves of the request (06 R125). -/
theorem shapeGrant_granted {req : W64} {tb live m n k used st : Nat} (h : shapeGrant req tb live = (m, n, k, used, st)) (hst : st < 2) :
    let up := fun lo => 8 * ceilDiv (bitsAt req.toNat lo 16) 8
    grantLoop (tb * bitsAt req.toNat 48 8) 64 (min (up 0) (8 * (live / 8))) (min (up 16) 192) = (m, n) ∧ 8 ≤ m ∧ 8 ≤ n ∧
      k = min (up 32) 1024 ∧ used = ceilDiv (m * n) tb ∧ (st = 0 ↔ m = up 0 ∧ n = up 16 ∧ k = up 32) := by
  intro up
  simp only [shapeGrant] at h
  split at h
  · simp only [Prod.mk.injEq] at h
    omega
  · rcases hg : grantLoop (tb * bitsAt req.toNat 48 8) 64 (min (up 0) (8 * (live / 8))) (min (up 16) 192) with ⟨mg, ng⟩
    simp only [up] at hg
    simp only [hg] at h
    split at h
    · simp only [Prod.mk.injEq] at h
      omega
    · next h8 =>
      simp only [Bool.or_eq_true, decide_eq_true_eq, not_or, Nat.not_lt] at h8
      simp only [Prod.mk.injEq] at h
      obtain ⟨rfl, rfl, rfl, rfl, rfl⟩ := h
      exact ⟨rfl, h8.1, h8.2, rfl, rfl, by simp [up, and_assoc]⟩

theorem shapeGrant_bounds {req : W64} {tb live m n k used st : Nat} (h : shapeGrant req tb live = (m, n, k, used, st)) (hl : live ≤ 192)
    (hst : st < 2) :
    let r := req.toNat
    let up := fun v => 8 * ceilDiv v 8
    m % 8 = 0 ∧ n % 8 = 0 ∧ k % 8 = 0 ∧ 8 ≤ m ∧ 8 ≤ n ∧ m ≤ up (bitsAt r 0 16) ∧ n ≤ up (bitsAt r 16 16) ∧ k ≤ up (bitsAt r 32 16) ∧
    m ≤ live ∧ n ≤ 192 ∧ k ≤ 1024 ∧ m * n ≤ tb * bitsAt r 48 8 ∧ used = ceilDiv (m * n) tb ∧
    (st = 0 ↔ m = up (bitsAt r 0 16) ∧ n = up (bitsAt r 16 16) ∧ k = up (bitsAt r 32 16)) := by
  intro r up
  obtain ⟨hg, h8m, h8n, hk, hu, hfull⟩ := shapeGrant_granted h hst
  have hloop := grantLoop_spec (tb * bitsAt r 48 8) 64 (min (up (bitsAt r 0 16)) (8 * (live / 8))) (min (up (bitsAt r 16 16)) 192)
    (by omega) (by simp only [up]; omega) (by simp only [up]; omega)
  rw [hg] at hloop
  obtain ⟨hm, hn, hmr, hnr, hb⟩ := hloop
  refine ⟨hm, hn, ?_, h8m, h8n, ?_, ?_, ?_, ?_, ?_, ?_, hb h8m h8n, hu, hfull⟩
  all_goals simp only [up, r] at *; omega

/-- Settles O44: each instruction by what its body answers, the grant by the loop of the grant function. -/
theorem shapesAndStatuses : Obligations.ShapesAndStatuses := by
  unfold Obligations.ShapesAndStatuses
  refine ⟨⟨fun x s is i hs => execShape_completes rfl hs, fun y s is i hs => execShape_completes rfl hs⟩, ?shget, ?mstat, ?cfread,
    fun req tb live m n k used st h _ hl hst => shapeGrant_bounds h hl hst⟩
  case shget => exact fun x s is i hs => ⟨execShget_completes hs, execShget_traps hs⟩
  case mstat => exact fun x s is i hs ht => ⟨execMstat_completes hs ht, execMstat_waits hs ht⟩
  case cfread => exact fun x s is i hs => ⟨execCfread_completes hs, execCfread_waits hs⟩

end Sys2Proof.Machine
end

section
/-!
Proof of O47: the accumulators that a MATX leaves. The promotions of one element, then the block sums of all elements, then the registers
that the elements go to; the theorem at the end puts the parts together.
-/
namespace Sys2Proof.Machine

/-! Lists that grow at their end. -/

section
variable {α : Type}

theorem snoc_induction {motive : List α → Prop} (nil : motive []) (snoc : ∀ l a, motive l → motive (l ++ [a])) (l : List α) : motive l := by
  rw [← l.reverse_reverse]
  generalize l.reverse = r
  induction r with
  | nil => exact nil
  | cons a r ih =>
    rw [List.reverse_cons]
    exact snoc _ a ih

theorem getD_snoc_lt {l : List α} {k : Nat} (h : k < l.length) (a d : α) : (l ++ [a]).getD k d = l.getD k d := by
  rw [List.getD_eq_getElem?_getD, List.getElem?_append_left h, ← List.getD_eq_getElem?_getD]

theorem getD_snoc_length (l : List α) (a d : α) : (l ++ [a]).getD l.length d = a := by
  rw [List.getD_eq_getElem?_getD, List.getElem?_concat_length, Option.getD_some]

end

/-! The promotions of one element (06 R136, R137). -/

theorem promoteAll_nil (f4 : Bool) (k : Q) (dir : Nat → Nat → Mode) (accs : List Nat) :
    promoteAll f4 k dir [] accs = { accs := accs, nanIn := accs.any isNan32, sats := 0 } := rfl

/-- One more k-block is one more promotion in each plane. -/
theorem promoteAll_append (f4 : Bool) (k : Q) (dir : Nat → Nat → Mode) (sums : List (Int × Nat × Nat)) (accs : List Nat) (S : Int)
    (bA bB : Nat) :
    let r := promoteAll f4 k dir sums accs
    promoteAll f4 k dir (sums ++ [(S, bA, bB)]) accs =
      { accs := r.accs.zipIdx.map (fun ap => promote (dir sums.length ap.2) ap.1 S bA bB f4 k)
        nanIn := r.nanIn || bA == 0xFF || bB == 0xFF
        sats := r.sats + (if S < -innerMax || innerMax < S then r.accs.length else 0) } := by
  simp only [promoteAll, List.zipIdx_append, List.foldl_append, Nat.zero_add]
  rfl

theorem promoteAll_length (f4 : Bool) (k : Q) (dir : Nat → Nat → Mode) (sums : List (Int × Nat × Nat)) (accs : List Nat) :
    (promoteAll f4 k dir sums accs).accs.length = accs.length := by
  induction sums using snoc_induction with
  | nil => rfl
  | snoc sums s ih => rw [promoteAll_append, List.length_map, List.length_zipIdx, ih]

/-- A block sum saturates where its magnitude needs more than 23 bits (06 R136). -/
theorem beyond_innerMax (S : Int) : (S < -innerMax || innerMax < S) = true ↔ ¬ S.natAbs ≤ 2 ^ 23 - 1 := by
  simp only [Bool.or_eq_true, decide_eq_true_eq]
  unfold innerMax
  omega

theorem promoteAll_append_sats (f4 : Bool) (k : Q) (dir : Nat → Nat → Mode) (sums : List (Int × Nat × Nat)) (accs : List Nat) (S : Int)
    (bA bB : Nat) : (promoteAll f4 k dir (sums ++ [(S, bA, bB)]) accs).sats =
      (promoteAll f4 k dir sums accs).sats + (if S.natAbs ≤ 2 ^ 23 - 1 then 0 else accs.length) := by
  simp only [promoteAll_append, beyond_innerMax, promoteAll_length, ite_not]

/-- A promotion onto a finite accumulator is one rounded sum (06 R137). -/
theorem promote_finite {m : Mode} {acc : Nat} {S : Int} {bA bB : Nat} {f4 neg : Bool} {q : Q} (hA : bA ≠ 0xFF) (hB : bB ≠ 0xFF)
    (h : fval .f32 acc = .fin neg q) :
    let c := max (-(2 ^ 23 - 1)) (min S (2 ^ 23 - 1))
    promote m acc S bA bB f4 ⟨1, 1⟩ =
      (sumTo .f32 m ⟨neg, q⟩ ⟨decide (c < 0), Q.shift ⟨c.natAbs, 1⟩ ((bA : Int) + bB - 254 - (if f4 then 2 else 0))⟩).1 := by
  intro c
  have hc : clampI S (-innerMax) innerMax = c := clampI_eq S (by decide)
  have hn : ¬ (bA == 0xFF || bB == 0xFF) = true := by simp [hA, hB]
  rw [promote, if_neg hn, h]
  simp only [hc, Nat.mul_one]

/-! The block sums of the elements (06 R135). -/

section
variable {α β γ : Type}

theorem length_flatMap_map (f : α → β → γ) (as : List α) (bs : List β) :
    (as.flatMap (fun a => bs.map (f a))).length = as.length * bs.length := by
  induction as with
  | nil => simp
  | cons a as ih => rw [List.flatMap_cons, List.length_append, ih, List.length_map, List.length_cons, Nat.succ_mul, Nat.add_comm]

/-- A table laid out row by row. -/
theorem getElem?_flatMap_map (f : α → β → γ) (as : List α) (bs : List β) (i : Nat) {j : Nat} (hj : j < bs.length) :
    (as.flatMap (fun a => bs.map (f a)))[i * bs.length + j]? = as[i]?.map (fun a => f a bs[j]) := by
  induction as generalizing i with
  | nil => simp
  | cons a as ih =>
    rw [List.flatMap_cons]
    cases i with
    | zero =>
      rw [List.getElem?_append_left (by rw [List.length_map]; omega)]
      simp [hj]
    | succ i =>
      rw [List.getElem?_append_right (by rw [List.length_map, Nat.succ_mul]; omega), List.length_map,
        show (i + 1) * bs.length + j - bs.length = i * bs.length + j by rw [Nat.succ_mul]; omega, ih]
      rfl

end

/-- The scale byte of block `kb` of a row or column, 127 without block scales (05 R109; 06 R133). -/
def scaleByte (B : Block) (r : BitVec 256) (cw kg x kb : Nat) : Nat :=
  if recSoff r = 0 then 127 else (SMap.get 0 B.spad (((scaleOffs r cw kg B.spadSize x).getD kb none).getD 0)).toNat

theorem blocksOf_eq (B : Block) (r : BitVec 256) (cw kg x : Nat) (img : Nat → Int) : blocksOf B r cw kg x img =
    (List.range (kg / 8)).map (fun kb => ((List.range 8).map (fun t => img (8 * kb + t)), scaleByte B r cw kg x kb)) := by
  have hs : (if (recSoff r == 0) = true then List.replicate (kg / 8) 127
      else (scaleOffs r cw kg B.spadSize x).map (fun a => (SMap.get 0 B.spad (a.getD 0)).toNat)) =
      (List.range (kg / 8)).map (scaleByte B r cw kg x) := by
    by_cases h : recSoff r = 0
    · refine List.ext_getElem (by simp [h]) fun k _ _ => ?_
      simp [h, scaleByte]
    · have hl : (scaleOffs r cw kg B.spadSize x).length = kg / 8 := by simp [scaleOffs]
      refine List.ext_getElem (by simp [h, hl]) fun k hk _ => ?_
      have hk : k < (scaleOffs r cw kg B.spadSize x).length := by simpa [h] using hk
      simp [h, scaleByte, hk]
  rw [blocksOf, hs, zipIdx_map_range, List.map_map]
  rfl

/-- The block sums of element (i, j): images and scale bytes of row i of A and column j of B. -/
def MatOp.elemSums (o : MatOp) (B : Block) (i j : Nat) : List (Int × Nat × Nat) :=
  (List.range (o.kg / 8)).map (fun kb =>
    (((List.range 8).map (fun t =>
        planeImage o.nfa (o.planes B i (8 * kb + t)) * nfImage o.nfb (o.wordCode B (8 * kb + t) j))).sum,
      scaleByte B o.recA (nfCw o.nfa) o.kg i kb, scaleByte B o.recB (nfCw o.nfb) o.kg j kb))

theorem blockSums_row_col (o : MatOp) (B : Block) (i j : Nat) :
    blockSums (blocksOf B o.recA (nfCw o.nfa) o.kg i (fun k => planeImage o.nfa (o.planes B i k)))
      (blocksOf B o.recB (nfCw o.nfb) o.kg j (fun k => nfImage o.nfb (o.wordCode B k j))) = o.elemSums B i j := by
  simp only [blockSums, blocksOf_eq, zipWith_maps, MatOp.elemSums, List.sum_eq_foldl]

theorem MatOp.rowsA_length (o : MatOp) (B : Block) : (o.rowsA B).length = o.mg := by simp [MatOp.rowsA]
theorem MatOp.colsB_length (o : MatOp) (B : Block) : (o.colsB B).length = o.ng := by simp [MatOp.colsB]

theorem MatOp.sums_length (o : MatOp) (B : Block) : (o.sums B).length = o.mg * o.ng := by
  rw [MatOp.sums, length_flatMap_map, o.rowsA_length, o.colsB_length]

/-- Element e of the grant is element (e / Ng, e mod Ng) (06 R139). -/
theorem MatOp.sums_getD (o : MatOp) (B : Block) {e : Nat} (he : e < o.mg * o.ng) :
    (o.sums B).getD e [] = o.elemSums B (e / o.ng) (e % o.ng) := by
  have hng : 0 < o.ng := Nat.pos_of_mul_pos_left (Nat.zero_lt_of_lt he)
  have hi : e / o.ng < o.mg := (Nat.div_lt_iff_lt_mul hng).mpr he
  have hj : e % o.ng < (o.colsB B).length := (o.colsB_length B).symm ▸ Nat.mod_lt e hng
  have h := getElem?_flatMap_map blockSums (o.rowsA B) (o.colsB B) (e / o.ng) hj
  rw [o.colsB_length, Nat.div_add_mod' e o.ng] at h
  rw [List.getD_eq_getElem?_getD, MatOp.sums, h]
  simp [MatOp.rowsA, MatOp.colsB, hi, blockSums_row_col]

theorem MatOp.elemSums_length (o : MatOp) (B : Block) (i j : Nat) : (o.elemSums B i j).length = o.kg / 8 := by
  simp [MatOp.elemSums]

theorem MatOp.elemSums_getD (o : MatOp) (B : Block) (i j : Nat) {kb : Nat} (h : kb < o.kg / 8) :
    (o.elemSums B i j).getD kb (0, 0, 0) =
      (((List.range 8).map (fun t =>
          planeImage o.nfa (o.planes B i (8 * kb + t)) * nfImage o.nfb (o.wordCode B (8 * kb + t) j))).sum,
        scaleByte B o.recA (nfCw o.nfa) o.kg i kb, scaleByte B o.recB (nfCw o.nfb) o.kg j kb) := by
  rw [MatOp.elemSums, getD_map_lt _ _ (by simpa using h) 0]
  simp [h]

/-! The accumulators of an element and the registers that they go to (06 R139; 07 R147). -/

/-- How many siblings each member of a block has, one for each plane of an element. -/
def Block.nsib (B : Block) : Nat := if B.triad then 3 else 1

/-- The accumulators that the planes of element `e` start from. -/
def MatOp.before (o : MatOp) (B : Block) (e : Nat) : List Nat :=
  (List.range B.nsib).map (fun p =>
    if o.init == 0 then 0 else (((B.member (e % B.tb)).sibs.getD p Regs.zero).lane (o.abase + e / B.tb)).toNat)

/-- All promotions of element `e` with the block sums `ks`. -/
def MatOp.run (o : MatOp) (B : Block) (ks : List (Int × Nat × Nat)) (e : Nat) : ElemRun :=
  promoteAll (o.nfa == 0) ⟨1, 1⟩ (o.dir (Rnd.ofCode o.rndCode) B.triad e) ks (o.before B e)

/-- The rounded product of the tensor scales. -/
def MatOp.tensors (o : MatOp) : Nat :=
  let tA := (tensorScale (recTscale o.recA)).getD ⟨1, 1⟩
  let tB := (tensorScale (recTscale o.recB)).getD ⟨1, 1⟩
  (roundTo .f32 .rne false ⟨tA.n * tB.n, tA.d * tB.d⟩).1

/-- The epilogue of element `e` on the accumulator `acc` of plane `p`. -/
def MatOp.epilogue (o : MatOp) (B : Block) (e p acc : Nat) : Nat :=
  if o.epi then (fmul .f32 (o.dir (Rnd.ofCode o.rndCode) B.triad e (o.kg / 8) p) (fval .f32 acc) (fval .f32 o.tensors)).1 else acc

/-- The accumulators that element `e` with the block sums `ks` leaves. -/
def MatOp.after (o : MatOp) (B : Block) (ks : List (Int × Nat × Nat)) (e : Nat) : List Nat :=
  (o.run B ks e).accs.zipIdx.map (fun ap => o.epilogue B e ap.2 ap.1)

theorem MatOp.after_cases (o : MatOp) (B : Block) (ks : List (Int × Nat × Nat)) (e : Nat) : o.after B ks e =
    (if o.epi then
      { o.run B ks e with accs := (o.run B ks e).accs.zipIdx.map (fun ap =>
        (fmul .f32 (o.dir (Rnd.ofCode o.rndCode) B.triad e (o.kg / 8) ap.2) (fval .f32 ap.1) (fval .f32 o.tensors)).1) }
    else o.run B ks e).accs := by
  cases h : o.epi with
  | true => simp only [MatOp.after, MatOp.epilogue, h, if_true]
  | false => simp only [MatOp.after, MatOp.epilogue, h, Bool.false_eq_true, if_false, List.zipIdx_map_fst]

/-- The blocks that the elements `es` leave behind, in order. -/
def MatOp.written (o : MatOp) (B : Block) (es : List (List (Int × Nat × Nat))) : Block :=
  es.zipIdx.foldl (fun C se => writeAcc C (se.2 % B.tb) (o.abase + se.2 / B.tb) (o.after B se.1 se.2)) B

theorem runMatx_written (o : MatOp) (B : Block) : (runMatx o B).1 = o.written B (o.sums B) := by
  unfold runMatx MatOp.written
  refine (List.foldl_hom Prod.fst fun acc se => ?_).symm
  simp only [o.after_cases]
  rfl

theorem MatOp.written_append (o : MatOp) (B : Block) (es : List (List (Int × Nat × Nat))) (ks : List (Int × Nat × Nat)) :
    o.written B (es ++ [ks]) =
      writeAcc (o.written B es) (es.length % B.tb) (o.abase + es.length / B.tb) (o.after B ks es.length) := by
  simp only [MatOp.written, List.zipIdx_append, List.foldl_append, Nat.zero_add]
  rfl

theorem MatOp.after_length (o : MatOp) (B : Block) (ks : List (Int × Nat × Nat)) (e : Nat) : (o.after B ks e).length = B.nsib := by
  rw [MatOp.after, List.length_map, List.length_zipIdx, MatOp.run, promoteAll_length, MatOp.before, List.length_map, List.length_range]

theorem MatOp.after_getD (o : MatOp) (B : Block) (ks : List (Int × Nat × Nat)) (e : Nat) {p : Nat} (hp : p < B.nsib) :
    (o.after B ks e).getD p 0 = o.epilogue B e p ((o.run B ks e).accs.getD p 0) := by
  have h : p < (o.run B ks e).accs.length := by
    have := o.after_length B ks e
    rw [MatOp.after, List.length_map, List.length_zipIdx] at this
    rwa [this]
  simp [MatOp.after, h]

theorem MatOp.before_sibs (o : MatOp) {B : Block} {e : Nat} (h : (B.member (e % B.tb)).sibs.length = B.nsib) : o.before B e =
    (B.member (e % B.tb)).sibs.map (fun r => if o.init = 0 then 0 else (r.lane (o.abase + e / B.tb)).toNat) := by
  refine List.ext_getElem (by simp [MatOp.before, h]) fun p hp _ => ?_
  have hp : p < (B.member (e % B.tb)).sibs.length := by simpa [MatOp.before, h] using hp
  simp [MatOp.before, hp]

theorem getD_zipWith_lt {α β γ : Type} (f : α → β → γ) {as : List α} {bs : List β} {k : Nat} (ha : k < as.length) (hb : k < bs.length)
    (a : α) (b : β) (c : γ) : (List.zipWith f as bs).getD k c = f (as.getD k a) (bs.getD k b) := by
  have hk : k < (List.zipWith f as bs).length := by
    rw [List.length_zipWith]
    exact Nat.lt_min.mpr ⟨ha, hb⟩
  rw [← List.getElem_eq_getD (h := ha), ← List.getElem_eq_getD (h := hb), ← List.getElem_eq_getD (h := hk), List.getElem_zipWith]

theorem Regs.writeNow_infl (r : Regs) (n j : Nat) (x : W32) :
    (r.writeNow (.reg n x)).infl.lookup j = if j = n then none else r.infl.lookup j := by
  refine (Regs.settle_infl _ n j).trans ?_
  rw [SMap.lookup_put]
  split <;> rfl

theorem Regs.writeNow_v (r : Regs) {n j : Nat} (x : W32) (h : j < 128) :
    SMap.get 0 (r.writeNow (.reg n x)).v j = if j = n then x else SMap.get 0 r.v j := by
  refine (Regs.settle_v _ n j).trans ?_
  rw [SMap.lookup_put, if_pos rfl]
  by_cases hj : j = n
  · rw [if_pos ⟨hj, hj ▸ h⟩, if_pos hj, Option.getD_some]
  · rw [if_neg fun g => hj g.1, if_neg hj]

theorem Regs.writeNow_lane (r : Regs) {n j : Nat} (x : W32) (h : j < 128) :
    (r.writeNow (.reg n x)).lane j = if j = n then x else r.lane j := by
  rw [Regs.lane, r.writeNow_infl, r.writeNow_v x h]
  by_cases hj : j = n
  · simp only [hj, if_true]
  · simp only [hj, if_false]
    rfl

theorem courseLog_member (B : Block) (es : Course → List LogEntry) (i : Nat) : (courseLog B es).member i = B.member i := by
  obtain ⟨c, hc, -⟩ := courseLog_course B es
  rw [hc]
  rfl

theorem writeAcc_member_other (C : Block) {t i : Nat} (reg : Nat) (accs : List Nat) (h : i ≠ t) :
    (writeAcc C t reg accs).member i = C.member i := by
  unfold writeAcc
  simp only
  split
  · rfl
  · rw [Block.setMember_member, if_neg h, courseLog_member]

theorem writeAcc_member_live {C : Block} {t : Nat} (reg : Nat) (accs : List Nat) (h : (C.member t).live = true) :
    (writeAcc C t reg accs).member t = { C.member t with
      sibs := List.zipWith (fun (r : Regs) a => r.writeNow (.reg reg (BitVec.ofNat 32 a))) (C.member t).sibs accs } := by
  simp only [writeAcc, h, Bool.not_true, Bool.false_eq_true, if_false, Block.setMember_member, if_true]

/-- After the elements `es`, a live member still has its siblings, and element `e` among them stands in its registers, for no two
elements share a member and a register (06 R139). -/
theorem MatOp.written_lane (o : MatOp) {B : Block} {e p : Nat} (hlive : (B.member (e % B.tb)).live = true)
    (hsibs : (B.member (e % B.tb)).sibs.length = B.nsib) (hp : p < B.nsib) (hreg : o.abase + e / B.tb < 128)
    (es : List (List (Int × Nat × Nat))) :
    let m := (o.written B es).member (e % B.tb)
    m.live = true ∧ m.sibs.length = B.nsib ∧ (e < es.length → (m.sibs.getD p Regs.zero).lane (o.abase + e / B.tb) =
      BitVec.ofNat 32 (o.epilogue B e p ((o.run B (es.getD e []) e).accs.getD p 0))) := by
  induction es using snoc_induction with
  | nil => exact ⟨hlive, hsibs, fun h => absurd h (Nat.not_lt_zero e)⟩
  | snoc es ks ih =>
    intro m
    obtain ⟨hl, hs, hacc⟩ := ih
    have hold : e ≠ es.length → e < (es ++ [ks]).length → e < es.length ∧ (es ++ [ks]).getD e [] = es.getD e [] := by
      intro hne hlt
      rw [List.length_append, List.length_singleton] at hlt
      have hlt : e < es.length := by omega
      exact ⟨hlt, getD_snoc_lt hlt _ _⟩
    by_cases ht : e % B.tb = es.length % B.tb
    · have hm : m = { (o.written B es).member (e % B.tb) with
          sibs := List.zipWith (fun (r : Regs) a => r.writeNow (.reg (o.abase + es.length / B.tb) (BitVec.ofNat 32 a)))
            ((o.written B es).member (e % B.tb)).sibs (o.after B ks es.length) } := by
        simp only [m, o.written_append, ← ht, writeAcc_member_live _ _ hl]
      have ha := o.after_length B ks es.length
      have hsib : m.sibs.getD p Regs.zero = (((o.written B es).member (e % B.tb)).sibs.getD p Regs.zero).writeNow
          (.reg (o.abase + es.length / B.tb) (BitVec.ofNat 32 ((o.after B ks es.length).getD p 0))) := by
        have h1 : p < ((o.written B es).member (e % B.tb)).sibs.length := hs ▸ hp
        have h2 : p < (o.after B ks es.length).length := ha ▸ hp
        rw [hm]
        exact getD_zipWith_lt _ h1 h2 _ _ _
      refine ⟨hm ▸ hl, by rw [hm, List.length_zipWith, hs, ha, Nat.min_self], fun hlt => ?_⟩
      rw [hsib, Regs.writeNow_lane _ _ hreg]
      by_cases he : e = es.length
      · rw [← he, if_pos rfl, o.after_getD B ks e hp, he, getD_snoc_length]
      · obtain ⟨hlt', hget⟩ := hold he hlt
        have hne : o.abase + e / B.tb ≠ o.abase + es.length / B.tb := by
          intro h
          refine he ?_
          rw [← Nat.div_add_mod e B.tb, ← Nat.div_add_mod es.length B.tb, ht, Nat.add_left_cancel h]
        rw [if_neg hne, hget]
        exact hacc hlt'
    · have hm : m = (o.written B es).member (e % B.tb) := by
        simp only [m, o.written_append, writeAcc_member_other _ _ _ ht]
      rw [hm]
      refine ⟨hl, hs, fun hlt => ?_⟩
      obtain ⟨hlt', hget⟩ := hold (fun he => ht (he ▸ rfl)) hlt
      rw [hget]
      exact hacc hlt'

/-- Settles O47: the promotions by one more block at a time, the block sums by the table that they stand in, and the registers by one more
element at a time. -/
theorem matrixProduct : Obligations.MatrixProduct := by
  unfold Obligations.MatrixProduct
  refine ⟨fun f4 k dir sums accs S bA bB => ?promotions, fun o B => ⟨o.sums_length B, fun e kb he hkb => ?sums⟩,
    fun o B e p he htb hlive hsibs hp hreg => ?registers, fun m acc S bA bB f4 neg q hA hB h => promote_finite hA hB h⟩
  case promotions =>
    have h := promoteAll_append f4 k dir sums accs S bA bB
    exact ⟨promoteAll_nil f4 k dir accs, congrArg ElemRun.accs h, congrArg ElemRun.nanIn h, promoteAll_append_sats f4 k dir sums accs S bA bB⟩
  case sums =>
    intro i j v scale
    have hv : v = _ := (congrArg (fun l => l.getD kb (0, 0, 0)) (o.sums_getD B he)).trans (o.elemSums_getD B i j hkb)
    exact ⟨(congrArg List.length (o.sums_getD B he)).trans (o.elemSums_length B i j), congrArg Prod.fst hv,
      congrArg (fun w => w.2.1) hv, congrArg (fun w => w.2.2) hv⟩
  case registers =>
    intro m reg before run acc tA tB ts
    have hr : reg < 128 := by
      refine Nat.lt_of_le_of_lt (Nat.add_le_add_left (Nat.div_le_div_right ?_) _) hreg
      omega
    obtain ⟨-, -, h⟩ := o.written_lane hlive hsibs hp hr (o.sums B)
    have hrun : o.run B ((o.sums B).getD e []) e = run := congrArg (promoteAll _ _ _ _) (o.before_sibs hsibs)
    rw [runMatx_written, h he, hrun]
    rfl

end Sys2Proof.Machine
end

section
/-!
Proof of O32: memory stays canonical. The rules for what a state's memory can become: another field changes and memory stays, a write and a
part of memory keep the form, and so does a run of steps that each keep it. Then one lemma per operation of the model, in the order of the
model's files: from a state whose memory is canonical, the operation leaves one whose memory is. The theorem at the end is their sum.
-/
namespace Sys2Proof.Machine

open Safety

/-! The rules. -/

/-- An operation that only reads keeps what memory is. -/
theorem memOk_of_reads {s t : State} (h : Reads s t) (hs : memOk s) : memOk t := by
  unfold memOk
  rwa [h.mem]

/-- A state that differs in other fields has the memory of `s`. -/
theorem sameMem_memOk {s : State} {cur agenda choice issues reft blocks nextBlock grids nextGrid regions debugs cores dies ports
    sends recvs outs nextReq wire atab asyncs host packagePower turns beats heard lastRoute reqs} (hs : memOk s) :
    memOk ⟨s.mem, cur, agenda, choice, issues, reft, blocks, nextBlock, grids, nextGrid, regions, debugs, cores, dies, ports, sends,
      recvs, outs, nextReq, wire, atab, asyncs, host, packagePower, turns, beats, heard, lastRoute, reqs⟩ := hs

theorem ite_memOk {c : Prop} [Decidable c] {t u : State} (ht : memOk t) (hu : memOk u) : memOk (if c then t else u) := by
  split
  · exact ht
  · exact hu

theorem getD_memOk {s : State} {o : Option State} (hs : memOk s) (ho : ∀ t ∈ o, memOk t) : memOk (o.getD s) := by
  cases o with
  | none => exact hs
  | some t => exact ho t rfl

/-- The state that an operation answers beside a value. -/
theorem fst_memOk {α : Type} {p : State × α} {t : State} {y : α} (e : p = (t, y)) (hp : memOk p.1) : memOk t := by
  rwa [e] at hp

theorem snd_memOk {α : Type} {p : α × State} {t : State} {y : α} (e : p = (y, t)) (hp : memOk p.2) : memOk t := by
  rwa [e] at hp

/-- A fold whose running value holds a state, given by `μ`. -/
theorem foldl_keeps {α β : Type} (μ : β → State) {l : List α} {p : β} {g : β → α → β} (hp : memOk (μ p))
    (hg : ∀ p a, memOk (μ p) → memOk (μ (g p a))) : memOk (μ (l.foldl g p)) :=
  List.foldlRecOn (motive := fun p => memOk (μ p)) l g hp fun p hp a _ => hg p a hp

theorem foldl_memOk {α : Type} {l : List α} {s : State} {g : State → α → State} (hs : memOk s)
    (hg : ∀ s a, memOk s → memOk (g s a)) : memOk (l.foldl g s) := foldl_keeps id hs hg

theorem foldl_fst_memOk {α β : Type} {l : List α} {p : State × β} {g : State × β → α → State × β} (hp : memOk p.1)
    (hg : ∀ p a, memOk p.1 → memOk (g p a).1) : memOk (l.foldl g p).1 := foldl_keeps Prod.fst hp hg

theorem foldl_write_wf {α : Type} {m : Memory} {l : List α} {key : α → Nat} {bs : α → List Byte} (h : Memory.wf m = true) :
    Memory.wf (l.foldl (fun m a => Memory.write m (key a) (bs a)) m) = true :=
  List.foldlRecOn (motive := fun k => Memory.wf k = true) l _ h fun k hk a _ => Memory.wf_write k (key a) (bs a) hk

/-- The next state of an outcome, if it has one, has canonical memory. -/
def NextOk (r : Result) : Prop := ∀ t, r = .next t → memOk t

theorem nextOk_next {t : State} : NextOk (.next t) ↔ memOk t :=
  ⟨fun h => h t rfl, fun h _ e => by cases e; exact h⟩

theorem nextOk_fault (f : Fault) : NextOk (.fault f) := fun _ e => by cases e

section
variable {s : State}

/-! The state's accessors (Sys2Proof/Machine/Store.lean). -/

theorem State.setBlock_memOk {b : Nat} {B : Block} (hs : memOk s) : memOk (s.setBlock b B) := hs

theorem State.setMember_memOk {b i : Nat} {m : Member} (hs : memOk s) : memOk (s.setMember b i m) := hs

theorem State.setCore_memOk {c : Nat} {C : CoreSt} (hs : memOk s) : memOk (s.setCore c C) := hs

theorem State.free_memOk (hs : memOk s) : memOk s.free.2 := hs

theorem wakePackage_memOk (hs : memOk s) : memOk (wakePackage s) := by
  unfold wakePackage
  split <;> exact hs

theorem wakeDie_memOk {d : Nat} (hs : memOk s) : memOk (wakeDie s d) := memOk_of_reads (wakeDie_reads ..) hs

theorem wakeCore_memOk {c : Nat} (hs : memOk s) : memOk (wakeCore s c) := by
  unfold wakeCore
  dsimp only
  split
  · exact wakeDie_memOk hs
  · exact sameMem_memOk (wakeDie_memOk hs)

/-! Access to memory (Sys2Proof/Machine/Access.lean). -/

theorem translate_memOk {w : Who} {va n : Nat} {k : AccKind} (hs : memOk s) : memOk (translate s w va n k).1 :=
  memOk_of_reads (translate_reads ..) hs

theorem checkTarget_memOk {w : Who} {place key n va : Nat} {k : AccKind} (hs : memOk s) : memOk (checkTarget s w place key n va k).1 :=
  memOk_of_reads (checkTarget_reads ..) hs

theorem countReq_memOk {w : Who} {p : Page} {key kind : Nat} (hs : memOk s) : memOk (countReq s w p key kind) :=
  memOk_of_reads (countReq_reads ..) hs

theorem flushL1_memOk {c : Nat} (hs : memOk s) : memOk (flushL1 s c) := hs

theorem loadKey_memOk {w : Who} {p : Page} {key n : Nat} (hs : memOk s) : memOk (loadKey s w p key n).1 :=
  memOk_of_reads (loadKey_reads ..) hs

theorem storeKey_memOk {w : Who} {p : Page} {key : Nat} {bs : List Byte} (hs : memOk s) : memOk (storeKey s w p key bs) := by
  unfold memOk
  rw [storeKey_mem]
  exact Memory.wf_write _ _ _ hs

theorem atomicKey_memOk {w : Who} {p : Page} {key : Nat} {bs : List Byte} (hs : memOk s) : memOk (atomicKey s w p key bs) := by
  unfold memOk
  rw [atomicKey_mem]
  exact Memory.wf_write _ _ _ hs

theorem reach_memOk {w : Who} {va n : Nat} {k : AccKind} {planes : Nat} (hs : memOk s) : memOk (reach s w va n k planes).1 :=
  memOk_of_reads (reach_reads ..) hs

theorem readRange_memOk {w : Who} {va n : Nat} (hs : memOk s) : memOk (readRange s w va n).1 := memOk_of_reads (readRange_reads ..) hs

theorem checkRange_memOk {w : Who} {va n : Nat} {k : AccKind} (hs : memOk s) : memOk (checkRange s w va n k).1 :=
  memOk_of_reads (checkRange_reads ..) hs

theorem writeRange_memOk {w : Who} {va : Nat} {bs : List Byte} (hs : memOk s) : memOk (writeRange s w va bs).1 := writeRange_wf s w va bs hs

theorem State.setHandle_memOk {h : W64} {e : HandleEntry} (hs : memOk s) : memOk (s.setHandle h e) := by
  unfold State.setHandle
  dsimp only
  split
  · exact hs
  · exact storeKey_memOk hs

/-! Traps, frames, grids and courses (Sys2Proof/Machine/Ops.lean). -/

theorem devField_memOk {r off n value : Nat} (hs : memOk s) : memOk (devField s r off n value) := Memory.wf_write _ _ _ hs

theorem orStatus_memOk {r bits : Nat} (hs : memOk s) : memOk (orStatus s r bits) := devField_memOk hs

theorem enterTable_memOk {b i : Nat} (hs : memOk s) : memOk (enterTable s b i) := memOk_of_reads (enterTable_reads ..) hs

theorem leaveTables_memOk {b : Nat} {out : Nat → Bool} (hs : memOk s) : memOk (leaveTables s b out) :=
  memOk_of_reads (leaveTables_reads ..) hs

theorem reseat_memOk {b : Nat} {mems : List Nat} (hs : memOk s) : memOk (reseat s b mems) := memOk_of_reads (reseat_reads ..) hs

theorem debugField_memOk {r off value : Nat} (hs : memOk s) : memOk (debugField s r off value) := by
  unfold debugField
  split
  · exact Memory.wf_write _ _ _ hs
  · exact hs

theorem ringPut_memOk {r die base log wr : Nat} {bytes : List Byte} (hs : memOk s) : memOk (ringPut s r die base log wr bytes).1 := by
  unfold ringPut
  split
  next e => exact fst_memOk e (writeRange_memOk hs)
  next e => exact fst_memOk e (writeRange_memOk hs)

theorem tracePut_memOk {b kind quarter mask icount pc other : Nat} (hs : memOk s) : memOk
    (tracePut s b kind quarter mask icount pc other) := by
  unfold tracePut
  dsimp only
  split
  · exact hs
  · split
    next e => exact fst_memOk e (ringPut_memOk hs)
    next e => exact debugField_memOk (sameMem_memOk (fst_memOk e (ringPut_memOk hs)))

theorem traceJoins_memOk {b : Nat} {placed : List Nat} (hs : memOk s) : memOk (traceJoins s b placed) := by
  unfold traceJoins
  dsimp only
  split
  · exact hs
  · refine foldl_memOk hs fun _ _ ht => foldl_memOk ht fun _ _ ht' => foldl_memOk ht' fun t'' a'' ht'' => ?_
    split
    · exact tracePut_memOk ht''
    · exact ht''

theorem seatBlock_memOk {b : Nat} (hs : memOk s) : memOk (seatBlock s b) := traceJoins_memOk (foldl_memOk hs fun _ _ => enterTable_memOk)

theorem writeLog_memOk {b : Nat} (hs : memOk s) : memOk (writeLog s b) := by
  unfold writeLog
  dsimp only
  split
  · exact hs
  · exact writeRange_memOk hs

theorem freeFrame_memOk {r n : Nat} (hs : memOk s) : memOk (freeFrame s r n) := hs

theorem freeArea_memOk {o base r : Nat} (hs : memOk s) : memOk (freeArea s o base r) := by
  unfold freeArea
  dsimp only
  split <;> exact hs

theorem chargeCore_memOk {b : Nat} (hs : memOk s) : memOk (chargeCore s b) := by
  unfold chargeCore
  dsimp only
  split <;> exact hs

theorem discardBlock_memOk {b : Nat} (hs : memOk s) : memOk (discardBlock s b) := by
  unfold discardBlock
  dsimp only
  refine sameMem_memOk ?_
  split
  · refine freeArea_memOk ?_
    split
    · exact freeFrame_memOk (leaveTables_memOk (chargeCore_memOk (writeLog_memOk hs)))
    · exact leaveTables_memOk (chargeCore_memOk (writeLog_memOk hs))
  · split
    · exact freeFrame_memOk (leaveTables_memOk (chargeCore_memOk (writeLog_memOk hs)))
    · exact leaveTables_memOk (chargeCore_memOk (writeLog_memOk hs))

theorem endGrid_memOk {g status : Nat} (hs : memOk s) : memOk (endGrid s g status) := by
  unfold endGrid
  dsimp only
  split
  · exact foldl_memOk hs fun _ _ => discardBlock_memOk
  · exact sameMem_memOk (foldl_memOk hs fun _ _ => discardBlock_memOk)

theorem faultFields_memOk {r code : Nat} {inHandler : Bool} {blk addr : Nat} (hs : memOk s) : memOk
    (faultFields s r code inHandler blk addr) := devField_memOk (devField_memOk hs)

theorem recordFault_memOk {r code : Nat} {inHandler : Bool} {blk addr : Nat} (hs : memOk s) : memOk
    (recordFault s r code inHandler blk addr) := orStatus_memOk (faultFields_memOk hs)

theorem faultGrid_memOk {b code : Nat} {inHandler : Bool} {addr : Nat} (hs : memOk s) : memOk (faultGrid s b code inHandler addr) :=
  recordFault_memOk (endGrid_memOk hs)

theorem arrivalPut_memOk {b : Nat} {x : Arrival} (hs : memOk s) : memOk (arrivalPut s b x) := by
  unfold arrivalPut
  dsimp only
  split
  · exact sameMem_memOk (writeRange_memOk hs)
  · exact hs

theorem closeCourse_memOk {b : Nat} (hs : memOk s) : memOk (closeCourse s b) := by
  unfold closeCourse
  dsimp only
  split
  · exact writeLog_memOk hs
  · split
    · exact sameMem_memOk (writeLog_memOk hs)
    · exact writeLog_memOk hs

theorem startCourse_memOk {b : Nat} (hs : memOk s) : memOk (startCourse s b) := by
  unfold startCourse
  dsimp only
  split
  · exact hs
  · exact sameMem_memOk (writeRange_memOk hs)

theorem stopBlock_memOk {b : Nat} (hs : memOk s) : memOk (stopBlock s b) := closeCourse_memOk (sameMem_memOk (leaveTables_memOk hs))

theorem startHandler_memOk {H : Block} (hs : memOk s) : memOk (startHandler s H) := enterTable_memOk (flushL1_memOk hs)

theorem deliverFrame_memOk {b : Nat} {t : Trap} (hs : memOk s) : memOk (deliverFrame s b t) := by
  unfold deliverFrame
  dsimp only
  split
  · exact hs
  · split
    next e => exact faultGrid_memOk (fst_memOk e (checkRange_memOk hs))
    next e => exact startHandler_memOk (sameMem_memOk (sameMem_memOk (writeRange_memOk (fst_memOk e (checkRange_memOk hs)))))

theorem deliverAsync_memOk {e : QueueErr} (hs : memOk s) : memOk (deliverAsync s e) := by
  unfold deliverAsync
  split
  · exact hs
  · dsimp only
    split
    · exact hs
    · split
      · exact sameMem_memOk (State.free_memOk (State.free_memOk hs))
      · split
        next e => exact faultFields_memOk (fst_memOk e (writeRange_memOk (State.free_memOk (State.free_memOk hs))))
        next e => exact startHandler_memOk (wakeCore_memOk (sameMem_memOk (fst_memOk e (writeRange_memOk (State.free_memOk
          (State.free_memOk hs))))))

theorem frameFreed_memOk {r : Nat} (hs : memOk s) : memOk (frameFreed s r) := by
  unfold frameFreed
  dsimp only
  split
  · split
    · exact deliverFrame_memOk hs
    · exact hs
  · split
    · exact deliverAsync_memOk hs
    · exact hs

theorem handlerFault_memOk {h : Nat} {hd : Handler} {code addr : Nat} (hs : memOk s) : memOk (handlerFault s h hd code addr) := by
  unfold handlerFault
  dsimp only
  refine frameFreed_memOk (freeFrame_memOk ?_)
  split
  · exact faultGrid_memOk hs
  · exact discardBlock_memOk hs

theorem handlerExit_memOk {h : Nat} {hd : Handler} (hs : memOk s) : memOk (handlerExit s h hd) := by
  unfold handlerExit
  dsimp only
  refine frameFreed_memOk (freeFrame_memOk ?_)
  split
  · exact faultGrid_memOk hs
  · exact discardBlock_memOk hs

theorem endBlock_memOk {b : Nat} (hs : memOk s) : memOk (endBlock s b) := by
  unfold endBlock
  dsimp only
  split
  · split
    · exact handlerExit_memOk hs
    · exact sameMem_memOk (discardBlock_memOk hs)
  · exact hs

theorem clearStep_memOk {b : Nat} {mems : List Nat} (hs : memOk s) : memOk (clearStep s b mems) :=
  foldl_memOk hs fun _ _ => sameMem_memOk

theorem takeTrap_memOk {b : Nat} {t : Trap} (hs : memOk s) : memOk (takeTrap s b t) := by
  unfold takeTrap
  dsimp only
  split
  · split
    · exact handlerFault_memOk hs
    · split
      · split
        · exact faultGrid_memOk (stopBlock_memOk (clearStep_memOk hs))
        · exact deliverFrame_memOk (stopBlock_memOk (clearStep_memOk hs))
      · split
        · exact faultGrid_memOk (stopBlock_memOk hs)
        · exact deliverFrame_memOk (stopBlock_memOk hs)
  · split
    · exact hs
    · exact hs
    · exact hs
    · exact hs
    · exact handlerFault_memOk hs
    · exact faultGrid_memOk hs

theorem reload_memOk {b : Nat} {frame : List Byte} (hs : memOk s) : memOk (reload s b frame) := hs

theorem resumeBlock_memOk {b : Nat} (hs : memOk s) : memOk (resumeBlock s b) := seatBlock_memOk (sameMem_memOk (startCourse_memOk hs))

theorem rebuild_memOk {b : Nat} {frame : List Byte} (hs : memOk s) : memOk (rebuild s b frame) := resumeBlock_memOk (reload_memOk hs)

theorem returnTrap_memOk {h : Nat} {hd : Handler} (hs : memOk s) : memOk (returnTrap s h hd) := by
  unfold returnTrap
  dsimp only
  split
  · exact frameFreed_memOk (freeFrame_memOk (discardBlock_memOk hs))
  · split
    next e => exact handlerFault_memOk (fst_memOk e (readRange_memOk hs))
    next e =>
      have h1 := fst_memOk e (readRange_memOk hs)
      split
      · exact frameFreed_memOk (freeFrame_memOk (rebuild_memOk (discardBlock_memOk h1)))
      · exact handlerFault_memOk h1

/-! Debug records (Sys2Proof/Machine/Debug.lean). -/

theorem traceMoves_memOk {s0 : State} {b : Nat} {mems : List Nat} (hs : memOk s) : memOk (traceMoves s0 s b mems) := by
  unfold traceMoves
  dsimp only
  split
  · exact hs
  · refine traceJoins_memOk ?_
    split
    · exact hs
    · exact foldl_memOk hs fun _ _ => tracePut_memOk

theorem plumbArrive_memOk {b i phase : Nat} (hs : memOk s) : memOk (plumbArrive s b i phase) := by
  unfold plumbArrive
  dsimp only
  split
  · exact hs
  · refine foldl_memOk hs fun t a ht => ?_
    have logged : ∀ {c : Option CourseSlot} {f : CourseSlot → Block},
        memOk (match c with | none => t | some c => t.setBlock b (f c)) := by
      intro c f
      cases c <;> exact ht
    split
    next e => exact fst_memOk e (ringPut_memOk logged)
    next e => exact debugField_memOk (sameMem_memOk (fst_memOk e (ringPut_memOk logged)))

theorem freeNs_memOk {stage : Bool} (hs : memOk s) : memOk (freeNs s stage).1 := by
  unfold freeNs
  split
  · split
    next e => exact snd_memOk e (State.free_memOk hs)
  · exact hs

theorem samplePut_memOk {r die core kind pc blk : Nat} {q : Req} (hs : memOk s) : memOk (samplePut s r die core kind pc blk q) := by
  unfold samplePut
  dsimp only
  split
  next e => exact fst_memOk e (ringPut_memOk (foldl_fst_memOk (freeNs_memOk hs) fun _ _ => freeNs_memOk))
  next e => exact debugField_memOk (sameMem_memOk (fst_memOk e (ringPut_memOk (foldl_fst_memOk (freeNs_memOk hs) fun _ _ => freeNs_memOk))))

theorem sampleNext_memOk {r core : Nat} (hs : memOk s) : memOk (sampleNext s r core).1 := hs

theorem sampleReqs_memOk {r die core pc blk : Nat} {kind : Option Nat} {qs : List Req} (hs : memOk s) : memOk
    (sampleReqs s r die core pc blk kind qs) := by
  unfold sampleReqs
  refine foldl_memOk hs fun t a ht => ?_
  split
  next e' =>
    have h2 := fst_memOk e' (sampleNext_memOk ht)
    split
    · exact samplePut_memOk h2
    · exact h2

theorem sampleEngine_memOk {B : Block} {pc : Nat} (hs : memOk s) : memOk (sampleEngine s B pc) := by
  unfold sampleEngine
  split
  · exact sampleReqs_memOk hs
  · exact hs

theorem nextCourse_memOk {b : Nat} (hs : memOk s) : memOk (nextCourse s b) := seatBlock_memOk (startCourse_memOk (stopBlock_memOk hs))

theorem endCourse_memOk {b : Nat} (hs : memOk s) : memOk (endCourse s b) := by
  unfold endCourse
  split
  · exact nextCourse_memOk hs
  · exact hs

theorem courseCheck_memOk {b : Nat} (hs : memOk s) : memOk (courseCheck s b) := by
  unfold courseCheck
  split <;> exact hs

theorem logSpace_memOk {b n : Nat} (hs : memOk s) : memOk (logSpace s b n) := by
  unfold logSpace
  split
  · exact nextCourse_memOk hs
  · exact hs

theorem sampleLanes_memOk {B : Block} {pc : Nat} (hs : memOk s) : memOk (sampleLanes s B pc) := by
  unfold sampleLanes
  split
  · exact sampleReqs_memOk hs
  · exact hs

theorem afterIssue_memOk {s0 : State} {b : Nat} {mems : List Nat} (hs : memOk s) : memOk (afterIssue s0 s b mems) := by
  unfold afterIssue
  dsimp only
  refine courseCheck_memOk ?_
  split
  · exact sampleReqs_memOk (traceMoves_memOk hs)
  · exact traceMoves_memOk hs

/-! How an issue executes (Sys2Proof/Machine/Issue.lean). -/

theorem withIssue_memOk {k : Issue → State → State} (hs : memOk s) (hk : ∀ is t, memOk t → memOk (k is t)) :
    NextOk (withIssue s k) := by
  unfold withIssue
  split
  · exact nextOk_fault _
  · exact nextOk_next.mpr (afterIssue_memOk (hk _ _ hs))

theorem Acc.start_memOk (hs : memOk s) : memOk (Acc.start s).s := hs

theorem Acc.raise_memOk {a : Acc} {t : Trap} (ha : memOk a.s) : memOk (a.raise t).s := by
  unfold Acc.raise
  split
  · dsimp only
    exact ha
  · split
    · dsimp only
      exact ha
    · exact ha

theorem Acc.retire_memOk {a : Acc} {b i : Nat} {x : Ext} {major : Nat} {m : Member} {pc : Nat} (ha : memOk a.s) : memOk
    (a.retire b i x major m pc).s := ha

theorem appendLog_memOk {region die record : Nat} (hs : memOk s) : memOk (appendLog s region die record) := by
  unfold appendLog
  dsimp only
  split
  · exact devField_memOk hs
  · split
    next e => exact devField_memOk (sameMem_memOk (fst_memOk e (writeRange_memOk hs)))
    next e => exact devField_memOk (sameMem_memOk (fst_memOk e (writeRange_memOk hs)))

theorem Acc.instability_memOk {a : Acc} {b i : Nat} {x : Ext} {major : Nat} {m : Member} {e : NiEvent} (ha : memOk a.s) : memOk
    (a.instability b i x major m e).s := by
  unfold Acc.instability
  dsimp only
  split
  · exact ha
  · split
    · dsimp only
      exact ha
    · split
      · dsimp only
        exact appendLog_memOk ha
      · dsimp only
        exact ha

theorem holdCause_memOk {b i : Nat} {t : Trap} (hs : memOk s) : memOk (holdCause s b i t) := by
  unfold holdCause
  dsimp only
  split
  · exact hs
  · split <;> exact hs

theorem holdAll_memOk {b : Nat} {ts : List (Nat × Trap)} (hs : memOk s) : memOk (holdAll s b ts) :=
  foldl_memOk hs fun _ _ => holdCause_memOk

theorem Acc.finish_memOk {a : Acc} {b : Nat} {mems : List Nat} (ha : memOk a.s) : memOk (a.finish b mems) := by
  unfold Acc.finish
  dsimp only
  split
  · exact takeTrap_memOk (holdAll_memOk (reseat_memOk ha))
  · exact reseat_memOk ha
  · split
    · exact takeTrap_memOk (holdAll_memOk (reseat_memOk ha))
    · exact holdCause_memOk (holdAll_memOk (reseat_memOk ha))

theorem laneStep_memOk {x : Ext} {major : Nat} {lat : Option Nat} {reads : List (Bool × Opnd)} {f : LaneIn → LaneOut} {b i : Nat}
    {is : Issue} {s0 : State} {a : Acc} (ha : memOk a.s) : memOk (laneStep x major lat reads f b is s0 a i).s := by
  unfold laneStep
  dsimp only
  split
  · exact Acc.raise_memOk ha
  · split
    · exact Acc.retire_memOk ha
    · split
      · exact Acc.raise_memOk ha
      · split
        · exact Acc.raise_memOk ha
        · split
          · exact Acc.instability_memOk (Acc.retire_memOk ha)
          · exact Acc.retire_memOk ha

theorem laneRun_memOk {x : Ext} {major : Nat} {lat : Option Nat} {reads : List (Bool × Opnd)} {f : LaneIn → LaneOut} (hs : memOk s) :
    NextOk (laneRun x major lat reads f s) :=
  withIssue_memOk hs fun _ _ ht => Acc.finish_memOk (foldl_keeps Acc.s ht fun _ _ => laneStep_memOk)

theorem capture_memOk {b i : Nat} {x : Ext} {major seq : Nat} {reads : List (Bool × Opnd)} {res : Option (List W64)}
    {w : Option WaitKind} (hs : memOk s) : memOk (capture s b i x major seq reads res w) := hs

/-- What an access does for one member keeps memory canonical. -/
def BodyOk (body : MemIn → State → State × MemRes) : Prop := ∀ l t, memOk t → memOk (body l t).1

theorem memStep_memOk {x : Ext} {major : Nat} {ops : MemOps} {body : MemIn → State → State × MemRes} {b i : Nat} {r : MemAcc}
    (hbody : BodyOk body) (hr : memOk r.a.s) : memOk (memStep x major ops body b r i).a.s := by
  have hb : ∀ {l : MemIn} {t u : State} {y : MemRes}, memOk t → body l t = (u, y) → memOk u := fun ht e => fst_memOk e (hbody _ _ ht)
  unfold memStep
  grind [memOk, Acc.retire_memOk, State.setBlock_memOk]

theorem memComplete_memOk {x : Ext} {major : Nat} {logged : Bool} {dest : Member → Nat → Nat → List Out} {b : Nat} {a : Acc}
    {d : Nat × List Nat × Option NiEvent} (ha : memOk a.s) : memOk (memComplete x major logged dest b a d).s := by
  unfold memComplete
  dsimp only
  split
  · exact Acc.instability_memOk (Acc.retire_memOk ha)
  · exact Acc.retire_memOk ha

theorem MemAcc.finish_memOk {r : MemAcc} {x : Ext} {major : Nat} {ops : MemOps} {logged : Bool} {dest : Member → Nat → Nat → List Out}
    {b : Nat} {mems : List Nat} (hr : memOk r.a.s) : memOk (r.finish x major ops logged dest b mems) := by
  unfold MemAcc.finish
  split
  · refine Acc.finish_memOk (foldl_keeps Acc.s ?_ fun _ _ => memComplete_memOk)
    exact foldl_memOk hr fun _ _ => capture_memOk
  · refine Acc.finish_memOk (foldl_memOk (foldl_memOk (foldl_memOk hr ?_) ?_) ?_)
    all_goals exact fun _ _ => capture_memOk

theorem memIssue_memOk {x : Ext} {major : Nat} {ops : MemOps} {logged : Bool} {dest : Member → Nat → Nat → List Out}
    {body : MemIn → State → State × MemRes} {is : Issue} (hs : memOk s) (hbody : BodyOk body) :
    memOk (memIssue x major ops logged dest body is s) := by
  unfold memIssue
  extract_lets r
  split
  · exact reseat_memOk hs
  · exact MemAcc.finish_memOk (foldl_keeps (fun r : MemAcc => r.a.s) hs fun _ _ => memStep_memOk hbody)

theorem memRun_memOk {x : Ext} {major : Nat} {ops : MemOps} {logged : Bool} {dest : Member → Nat → Nat → List Out}
    {body : MemIn → State → State × MemRes} (hs : memOk s) (hbody : BodyOk body) : NextOk (memRun x major ops logged dest body s) :=
  withIssue_memOk hs fun _ _ ht => memIssue_memOk ht hbody

theorem onceStep_memOk {x : Ext} {major : Nat} {ops : MemOps} {also : Nat → List Nat → State → Nat → State}
    {body : MemIn → State → State × MemRes} {b i : Nat} {r : MemAcc} (halso : ∀ b vs t i, memOk t → memOk (also b vs t i))
    (hbody : BodyOk body) (hr : memOk r.a.s) : memOk (onceStep x major ops also body b r i).a.s := by
  have logged : ∀ {c : Bool} {B : Block}, memOk (if c then r.a.s else r.a.s.setBlock b B) := by
    intro c B
    split <;> exact hr
  unfold onceStep
  extract_lets m replay
  split
  · exact memStep_memOk hbody hr
  · split
    · exact hr
    · exact hr
    · exact halso _ _ _ _ logged
    · exact memStep_memOk hbody hr

theorem onceRun_memOk {x : Ext} {major : Nat} {ops : MemOps} {logged : Bool} {dest : Member → Nat → Nat → List Out}
    {body : MemIn → State → State × MemRes} {also : Nat → List Nat → State → Nat → State} (hs : memOk s) (hbody : BodyOk body)
    (halso : ∀ b vs t i, memOk t → memOk (also b vs t i)) : NextOk (onceRun x major ops logged dest body s also) := by
  refine withIssue_memOk hs fun is t ht => ?_
  extract_lets r
  split
  · exact reseat_memOk ht
  · exact MemAcc.finish_memOk (foldl_keeps (fun r : MemAcc => r.a.s) ht fun _ _ => onceStep_memOk halso hbody)

/-- An instruction accepted once per issue whose outcome changes nothing in the other members. -/
theorem onceRun_noMore_memOk {x : Ext} {major : Nat} {ops : MemOps} {logged : Bool} {dest : Member → Nat → Nat → List Out}
    {body : MemIn → State → State × MemRes} (hs : memOk s) (hbody : BodyOk body) : NextOk (onceRun x major ops logged dest body s) :=
  onceRun_memOk hs hbody fun _ _ _ _ ht => ht

theorem MemAcc.finishDrain_memOk {r : MemAcc} {x : Ext} {major : Nat} {logged : Bool} {dest : Member → Nat → Nat → List Out}
    {b : Nat} {mems : List Nat} (hr : memOk r.a.s) : memOk (r.finishDrain x major logged dest b mems) := by
  refine Acc.finish_memOk (foldl_keeps Acc.s ?_ fun _ _ => Acc.raise_memOk)
  exact foldl_keeps Acc.s hr fun _ _ => memComplete_memOk

theorem drainRun_memOk {x : Ext} {major : Nat} {once : Bool} {ops : MemOps} {logged : Bool} {dest : Member → Nat → Nat → List Out}
    {body : MemIn → State → State × MemRes} (hs : memOk s) (hbody : BodyOk body) :
    NextOk (drainRun x major once ops logged dest body s) := by
  refine withIssue_memOk hs fun is t ht => ?_
  extract_lets r
  split
  · exact reseat_memOk ht
  · refine MemAcc.finishDrain_memOk (foldl_keeps (fun r : MemAcc => r.a.s) ht fun r _ hr => ?_)
    split
    · exact onceStep_memOk (fun _ _ _ _ h => h) hbody hr
    · exact memStep_memOk hbody hr

theorem startIssue_memOk {k : Issue} (hs : memOk s) : memOk (startIssue s k) := by
  unfold startIssue
  dsimp only
  split
  · exact sameMem_memOk (logSpace_memOk hs)
  · exact hs

theorem wakeGroup_memOk {b i : Nat} (hs : memOk s) : memOk (wakeGroup s b i) := by
  unfold wakeGroup
  dsimp only
  split
  · split <;> exact hs
  · exact hs

/-! Control (Sys2Proof/Machine/Control.lean). -/

theorem exitStep_memOk {x : Ext} {b : Nat} {a : Acc} {i : Nat} (ha : memOk a.s) : memOk (exitStep x b a i).s := by
  unfold exitStep
  dsimp only
  split
  · exact Acc.raise_memOk ha
  · split
    · exact Acc.retire_memOk ha
    · dsimp only
      exact sameMem_memOk (Acc.retire_memOk ha)

theorem execExitT_memOk {x : Ext} (hs : memOk s) : NextOk (execExitT x s) :=
  withIssue_memOk hs fun _ _ ht => endBlock_memOk (Acc.finish_memOk (foldl_keeps Acc.s ht fun _ _ => exitStep_memOk))

theorem execYield_memOk {x : Ext} (hs : memOk s) : NextOk (execYield x s) := by
  refine memRun_memOk hs fun l t ht => ?_
  split <;> exact ht

theorem execWaitc_memOk {x : Ext} (hs : memOk s) : NextOk (execWaitc x s) := by
  refine memRun_memOk hs fun l t ht => ?_
  dsimp only
  split <;> exact ht

theorem execWaitcWake_memOk {blk mem : Nat} (hs : memOk s) : NextOk (execWaitcWake blk mem s) := by
  unfold execWaitcWake
  refine nextOk_next.mpr ?_
  split
  · split
    · exact wakeGroup_memOk hs
    · exact hs
  · exact hs

theorem execSpinHintExpiry_memOk {blk mem : Nat} (hs : memOk s) : NextOk (execSpinHintExpiry blk mem s) := by
  unfold execSpinHintExpiry
  refine nextOk_next.mpr ?_
  dsimp only
  split <;> exact hs

/-! Fetch (Sys2Proof/Machine/Fetch.lean). -/

theorem fillLine_memOk {B : Block} {line : Nat} (hs : memOk s) : memOk (fillLine s B line).1 := by
  unfold fillLine
  split
  · exact hs
  · split
    next e => exact fst_memOk e (reach_memOk hs)
    next e => exact foldl_memOk (countReq_memOk (fst_memOk e (reach_memOk hs))) fun _ _ => sameMem_memOk

theorem fetchLine_memOk {B : Block} {pc : Nat} (hs : memOk s) : memOk (fetchLine s B pc).1 := by
  unfold fetchLine
  split
  · exact hs
  · exact fillLine_memOk hs

theorem fetchBytes_memOk {is : Issue} (hs : memOk s) : memOk (fetchBytes s is).1 := by
  unfold fetchBytes
  split
  · exact hs
  · dsimp only
    split
    next e => exact fst_memOk e (fetchLine_memOk hs)
    next e => exact fst_memOk e (fetchLine_memOk hs)

theorem fetchTrap_memOk {is : Issue} {words : List Byte} {f : Flt} (hs : memOk s) : memOk (fetchTrap s is words f) :=
  takeTrap_memOk (reseat_memOk hs)

/-! Loads and stores of a thread (Sys2Proof/Machine/Data.lean). -/

theorem spadWrite_memOk {b off : Nat} {bs : List Byte} (hs : memOk s) : memOk (spadWrite s b off bs) := hs

theorem digitCheck_memOk {b : Nat} {m : Member} {va : Nat} {k : AccKind} (hs : memOk s) : memOk (digitCheck s b m va k).1 := by
  unfold digitCheck
  split
  · exact hs
  · split
    next e => exact fst_memOk e (reach_memOk hs)
    next e => exact fst_memOk e (reach_memOk hs)
  · exact hs

theorem digitStore_memOk {b i : Nat} {pl : Place1 × Option Page} {d : Nat} (hs : memOk s) : memOk (digitStore s b i pl d) := by
  unfold digitStore
  dsimp only
  split
  · exact hs
  · exact spadWrite_memOk hs
  · exact storeKey_memOk hs
  · exact hs

theorem digitLoad_memOk {b : Nat} {m : Member} {pl : Place1 × Option Page} (hs : memOk s) : memOk (digitLoad s b m pl).1 := by
  unfold digitLoad
  split
  · exact hs
  · exact hs
  · split
    next e => exact fst_memOk e (loadKey_memOk hs)
  · exact hs

theorem loadPlace_memOk {b : Nat} {m : Member} {t : Ty} {pl : Place1} (hs : memOk s) : memOk (loadPlace s b m t pl).1 := by
  unfold loadPlace
  dsimp only
  split
  · exact hs
  · exact hs
  · split
    next e => exact fst_memOk e (reach_memOk hs)
    next e =>
      have h1 := fst_memOk e (reach_memOk hs)
      split
      · exact foldl_fst_memOk h1 fun _ _ => loadKey_memOk
      · split
        · split
          next e' => exact fst_memOk e' (digitCheck_memOk h1)
          next e' => exact digitLoad_memOk (loadKey_memOk (fst_memOk e' (digitCheck_memOk h1)))
        · exact loadKey_memOk h1

theorem digitChecks_memOk {b : Nat} {m : Member} {vas : List Nat} (hs : memOk s) : memOk (digitChecks s b m vas).1 := by
  induction vas generalizing s with
  | nil => exact hs
  | cons va vas ih =>
    unfold digitChecks
    grind [! ← digitCheck_memOk]

theorem storePlace_memOk {b i : Nat} {t : Ty} {pl : Place1} {vs : List Nat} (hs : memOk s) : memOk (storePlace s b i t pl vs).1 := by
  unfold storePlace
  extract_lets w m bytes
  split
  · exact sameMem_memOk hs
  · exact spadWrite_memOk hs
  · split
    next e => exact fst_memOk e (reach_memOk hs)
    next e =>
      have h1 := fst_memOk e (reach_memOk hs)
      split
      · dsimp only
        exact foldl_memOk h1 fun _ _ => storeKey_memOk
      · split
        · split
          next e' => exact fst_memOk e' (digitChecks_memOk h1)
          next e' =>
            dsimp only
            exact foldl_memOk (storeKey_memOk (fst_memOk e' (digitChecks_memOk h1))) fun _ _ => digitStore_memOk
        · exact storeKey_memOk h1

theorem dropAhead_memOk {b i : Nat} (hs : memOk s) : memOk (dropAhead s b i) := by
  unfold dropAhead
  dsimp only
  split <;> exact hs

theorem acquireEffect_memOk {b i : Nat} {o : MOrd} {sc : Scope} (hs : memOk s) : memOk (acquireEffect s b i o sc) := by
  unfold acquireEffect
  split
  · dsimp only
    split
    · exact flushL1_memOk (dropAhead_memOk hs)
    · exact dropAhead_memOk hs
  · exact hs

theorem storeEffect_memOk {b : Nat} {o : MOrd} {sc : Scope} (hs : memOk s) : memOk (storeEffect s b o sc) := by
  unfold storeEffect
  split
  · exact flushL1_memOk hs
  · exact hs

theorem logBlockReg_memOk {b i dest parts value : Nat} (hs : memOk s) : memOk (logBlockReg s b i dest parts value) := by
  unfold logBlockReg
  dsimp only
  split
  · exact hs
  · split <;> exact hs

theorem logBlockRead_memOk {b i dest parts value : Nat} (hs : memOk s) : memOk (logBlockRead s b i dest parts value) := by
  unfold logBlockRead
  split
  · exact logBlockReg_memOk hs
  · exact hs

theorem useBuffer_memOk {b i n : Nat} (hs : memOk s) : memOk (useBuffer s b i n).1 := logBlockRead_memOk hs

/-! Memory instructions (Sys2Proof/Machine/MemInstr.lean). -/

theorem resOf_memOk {r : State × Except Flt (List Nat)} (hr : memOk r.1) : memOk (resOf r).1 := by
  obtain ⟨s, _ | _⟩ := r <;> exact hr

theorem resOfStore_memOk {r : State × Option Flt} (hr : memOk r.1) : memOk (resOfStore r).1 := by
  obtain ⟨s, _ | _⟩ := r <;> exact hr

theorem execLd_memOk {x : Ext} (hs : memOk s) : NextOk (execLd x s) := by
  refine memRun_memOk hs fun l t ht => ?_
  split
  next e =>
    have h1 := fst_memOk e (useBuffer_memOk ht)
    split
    · exact h1
    · exact h1
    · dsimp only
      split
      next e' => exact fst_memOk e' (loadPlace_memOk (acquireEffect_memOk h1))
      next e' => exact acquireEffect_memOk (fst_memOk e' (loadPlace_memOk (acquireEffect_memOk h1)))

theorem execSt_memOk {x : Ext} (hs : memOk s) : NextOk (execSt x s) := by
  refine memRun_memOk hs fun l t ht => ?_
  split
  next e =>
    have h1 := fst_memOk e (useBuffer_memOk ht)
    split
    · exact h1
    · exact h1
    · split
      next e' => exact fst_memOk e' (storePlace_memOk h1)
      next e' => exact storeEffect_memOk (fst_memOk e' (storePlace_memOk h1))

theorem bytesAtPlace_memOk {b : Nat} {m : Member} {n : Nat} {pl : Place1} (hs : memOk s) : memOk (bytesAtPlace s b m n pl).1 := by
  unfold bytesAtPlace
  split
  · exact hs
  · exact hs
  · split
    next e => exact fst_memOk e (reach_memOk hs)
    next e =>
      have h1 := fst_memOk e (reach_memOk hs)
      split
      next e' => exact fst_memOk e' (loadKey_memOk h1)

theorem writeBuffer_memOk {b i n : Nat} {r : BitVec 256} (hs : memOk s) : memOk (writeBuffer s b i n r) := logBlockReg_memOk hs

theorem execLdbuf_memOk {x : Ext} (hs : memOk s) : NextOk (execLdbuf x s) := by
  refine onceRun_noMore_memOk hs fun l t ht => ?_
  split
  · exact ht
  · split
    next e => exact fst_memOk e (bytesAtPlace_memOk ht)
    next e =>
      have h1 := fst_memOk e (bytesAtPlace_memOk ht)
      dsimp only
      split
      · exact writeBuffer_memOk h1
      · exact h1

theorem execPrf_memOk {x : Ext} (hs : memOk s) : NextOk (execPrf x s) := by
  refine memRun_memOk hs fun l t ht => ?_
  split
  next e =>
    have h1 := fst_memOk e (useBuffer_memOk ht)
    split
    · split <;> exact h1
    · split
      next e' => exact fst_memOk e' (reach_memOk h1)
      next e' =>
        have h2 := fst_memOk e' (reach_memOk h1)
        split
        · exact loadKey_memOk h2
        · exact h2
    · exact h1

theorem execLdl_memOk {x : Ext} (hs : memOk s) : NextOk (execLdl x s) := by
  refine memRun_memOk hs fun l t ht => ?_
  split
  · exact ht
  · exact resOf_memOk (loadPlace_memOk ht)

theorem execStl_memOk {x : Ext} (hs : memOk s) : NextOk (execStl x s) := by
  refine memRun_memOk hs fun l t ht => ?_
  split
  · exact ht
  · exact resOfStore_memOk (storePlace_memOk ht)

theorem execLds_memOk {x : Ext} (hs : memOk s) : NextOk (execLds x s) := by
  refine memRun_memOk hs fun l t ht => ?_
  split
  · exact ht
  · exact resOf_memOk (loadPlace_memOk (acquireEffect_memOk ht))

theorem execSts_memOk {x : Ext} (hs : memOk s) : NextOk (execSts x s) := by
  refine memRun_memOk hs fun l t ht => ?_
  split
  · exact ht
  · exact resOfStore_memOk (storePlace_memOk ht)

theorem setFull_memOk {b off : Nat} {v : Bool} (hs : memOk s) : memOk (setFull s b off v) := hs

theorem execLdx_memOk {x : Ext} (hs : memOk s) : NextOk (execLdx x s) := by
  refine memRun_memOk hs fun l t ht => ?_
  split <;> exact ht

theorem execLdf_memOk {x : Ext} (hs : memOk s) : NextOk (execLdf x s) := by
  refine memRun_memOk hs fun l t ht => ?_
  split
  · exact ht
  · split
    · exact acquireEffect_memOk (setFull_memOk ht)
    · exact ht

theorem execSte_memOk {x : Ext} (hs : memOk s) : NextOk (execSte x s) := by
  refine memRun_memOk hs fun l t ht => ?_
  split
  · exact ht
  · dsimp only
    split
    · exact ht
    · exact acquireEffect_memOk (setFull_memOk (spadWrite_memOk ht))

theorem execFullEmptyTransition_memOk {blk mem : Nat} (hs : memOk s) : NextOk (execFullEmptyTransition blk mem s) := by
  unfold execFullEmptyTransition
  refine nextOk_next.mpr ?_
  split
  · split
    · exact wakeGroup_memOk hs
    · exact hs
  · split
    · exact hs
    · exact wakeGroup_memOk hs
  · exact hs

theorem tagRun_memOk {x : Ext} {v : Bool} (hs : memOk s) : NextOk (tagRun x v s) := by
  refine memRun_memOk hs fun l t ht => ?_
  dsimp only
  split
  · split
    · exact ht
    · split
      · exact acquireEffect_memOk (foldl_memOk ht fun _ _ => setFull_memOk)
      · exact ht
      · exact ht
      · exact ht
      · exact ht
  · split
    · exact ht
    · split
      · exact acquireEffect_memOk (foldl_memOk ht fun _ _ => setFull_memOk)
      · exact ht
      · exact ht
      · exact ht
      · exact ht

theorem execWalkBind_memOk {x : Ext} (hs : memOk s) : NextOk (execWalkBind x s) := by
  refine memRun_memOk hs fun l t ht => ?_
  dsimp only
  split
  · exact ht
  · split
    · exact ht
    · exact sameMem_memOk (useBuffer_memOk ht)

theorem walkElement_memOk {b : Nat} {m : Member} {w : Walker} {n : Nat} (hs : memOk s) : memOk (walkElement s b m w n).1 := by
  unfold walkElement
  dsimp only
  split
  · exact hs
  · exact hs
  · exact loadPlace_memOk hs

theorem execWalkNext_memOk {x : Ext} (hs : memOk s) : NextOk (execWalkNext x s) := by
  refine memRun_memOk hs fun l t ht => ?_
  dsimp only
  split
  · exact ht
  · split
    · exact ht
    · split
      · exact ht
      · split
        · exact ht
        · split
          next e => exact fst_memOk e (walkElement_memOk ht)
          next e => exact sameMem_memOk (fst_memOk e (walkElement_memOk ht))

theorem execWalkerRunAhead_memOk {blk mem w : Nat} (hs : memOk s) : NextOk (execWalkerRunAhead blk mem w s) := by
  unfold execWalkerRunAhead
  refine nextOk_next.mpr ?_
  dsimp only
  split
  · exact sampleLanes_memOk (sameMem_memOk (walkElement_memOk hs))
  · exact hs

/-! Atomics, synchronisation and owners (Sys2Proof/Machine/Atomic.lean). -/

theorem reachAtomic_memOk {w : Who} {va n planes : Nat} (hs : memOk s) : memOk (reachAtomic s w va n planes).1 := by
  unfold reachAtomic
  split
  next e => exact fst_memOk e (translate_memOk hs)
  next e =>
    have h1 := fst_memOk e (translate_memOk hs)
    split
    · exact reach_memOk h1
    · exact h1

theorem atomAt_memOk {who : Who} {p : Page} {key op : Nat} {t : Ty} {c d : Nat} (hs : memOk s) : memOk (atomAt s who p key op t c d).1 :=
  atomicKey_memOk hs

theorem atomPlace_memOk {b i op : Nat} {t : Ty} {pl : Place1} {cs ds : List Nat} (hs : memOk s) : memOk
    (atomPlace s b i op t pl cs ds).1 := by
  unfold atomPlace
  dsimp only
  split
  · exact hs
  · exact spadWrite_memOk hs
  · split
    next e => exact fst_memOk e (reachAtomic_memOk hs)
    next e =>
      have h1 := fst_memOk e (reachAtomic_memOk hs)
      split
      · refine foldl_fst_memOk h1 fun p' a' hp' => ?_
        split
        · exact atomAt_memOk hp'
        · exact atomicKey_memOk hp'
      · split
        · split
          next e' => exact fst_memOk e' (digitChecks_memOk h1)
          next e' => exact foldl_memOk (atomAt_memOk (fst_memOk e' (digitChecks_memOk h1))) fun _ _ => digitStore_memOk
        · exact atomAt_memOk h1

theorem atomBody_memOk {x : Ext} {l : MemIn} (hs : memOk s) : memOk (atomBody x l s).1 := by
  unfold atomBody
  split
  next e =>
    have h1 := fst_memOk e (useBuffer_memOk hs)
    split
    · exact h1
    · exact h1
    · dsimp only
      split
      next e' => exact fst_memOk e' (atomPlace_memOk (acquireEffect_memOk h1))
      next e' => exact acquireEffect_memOk (fst_memOk e' (atomPlace_memOk (acquireEffect_memOk h1)))

theorem execAtom_memOk {x : Ext} (hs : memOk s) : NextOk (execAtom x s) := memRun_memOk hs fun _ _ ht => atomBody_memOk ht

theorem execRed_memOk {x : Ext} (hs : memOk s) : NextOk (execRed x s) := memRun_memOk hs fun _ _ ht => atomBody_memOk ht

theorem execFence_memOk {x : Ext} (hs : memOk s) : NextOk (execFence x s) := by
  refine memRun_memOk hs fun l t ht => ?_
  dsimp only
  refine acquireEffect_memOk ?_
  split
  · exact ht
  · exact dropAhead_memOk ht

theorem syncReach_memOk {who : Who} {va : Int} {k : AccKind} (hs : memOk s) : memOk (syncReach s who va k).1 := by
  unfold syncReach
  split
  · exact hs
  · dsimp only
    split <;> exact countReq_memOk (checkTarget_memOk hs)

theorem syncWrite_memOk {key v : Nat} (hs : memOk s) : memOk (syncWrite s key v) := Memory.wf_write _ _ _ hs

theorem traceArrive_memOk {x : Ext} (hs : memOk s) : memOk (traceArrive x s) := by
  unfold traceArrive
  split
  · exact hs
  · split
    · dsimp only
      split
      · exact hs
      · exact tracePut_memOk hs

theorem execBarArrive_memOk {x : Ext} (hs : memOk s) : NextOk (execBarArrive x s) := by
  refine memRun_memOk (traceArrive_memOk hs) fun l t ht => ?_
  split
  next e => exact fst_memOk e (syncReach_memOk ht)
  next e =>
    have h1 := fst_memOk e (syncReach_memOk ht)
    split
    · exact h1
    · exact plumbArrive_memOk (syncWrite_memOk h1)

theorem traceRelease_memOk {x : Ext} {is : Issue} {s0 : State} (hs : memOk s) : memOk (traceRelease x is s0 s) := by
  unfold traceRelease
  dsimp only
  split
  · exact hs
  · exact tracePut_memOk hs

theorem execBarWait_memOk {x : Ext} (hs : memOk s) : NextOk (execBarWait x s) := by
  refine withIssue_memOk hs fun is t ht => traceRelease_memOk (memIssue_memOk ht fun l t ht => ?_)
  split
  next e => exact fst_memOk e (syncReach_memOk ht)
  next e =>
    have h1 := fst_memOk e (syncReach_memOk ht)
    dsimp only
    split
    · exact h1
    · split
      · exact h1
      · exact acquireEffect_memOk h1

theorem execSyncop_memOk {x : Ext} (hs : memOk s) : NextOk (execSyncop x s) := by
  refine memRun_memOk hs fun l t ht => ?_
  dsimp only
  split
  next e => exact fst_memOk e (syncReach_memOk (acquireEffect_memOk ht))
  next e =>
    have h1 := fst_memOk e (syncReach_memOk (acquireEffect_memOk ht))
    split
    · exact h1
    · refine acquireEffect_memOk ?_
      split
      · exact h1
      · exact syncWrite_memOk h1

theorem tagWait_memOk {x : Ext} {all : Bool} (hs : memOk s) : NextOk (tagWait x all s) := by
  refine memRun_memOk hs fun l t ht => ?_
  dsimp only
  split
  · exact ht
  · split
    · exact ht
    · split
      · split
        · exact acquireEffect_memOk ht
        · exact ht
      · split
        · exact acquireEffect_memOk ht
        · exact ht

theorem execTfirst_memOk {x : Ext} (hs : memOk s) : NextOk (execTfirst x s) := by
  refine memRun_memOk hs fun l t ht => ?_
  dsimp only
  split
  · exact ht
  · split
    · exact acquireEffect_memOk ht
    · exact ht

theorem setOwner_memOk {b n : Nat} {o : Owner} (hs : memOk s) : memOk (setOwner s b n o) := hs

theorem execOwnGive_memOk {x : Ext} (hs : memOk s) : NextOk (execOwnGive x s) := by
  refine drainRun_memOk hs fun l t ht => ?_
  dsimp only
  split
  · exact ht
  · split
    · exact setOwner_memOk ht
    · exact ht

theorem execOwnTake_memOk {x : Ext} (hs : memOk s) : NextOk (execOwnTake x s) := by
  refine onceRun_noMore_memOk hs fun l t ht => ?_
  dsimp only
  split
  · exact ht
  · split
    · exact ht
    · exact setOwner_memOk ht

theorem execBlockedThreadWake_memOk {blk mem : Nat} (hs : memOk s) : NextOk (execBlockedThreadWake blk mem s) := by
  unfold execBlockedThreadWake
  refine nextOk_next.mpr ?_
  split
  · split
    · exact wakeGroup_memOk hs
    · exact hs
  · exact hs

/-! The copy engine (Sys2Proof/Machine/Engine.lean). -/

theorem engineRead_memOk {w : Who} {blk : Option Nat} {va : Int} {n : Nat} (hs : memOk s) : memOk (engineRead s w blk va n).1 := by
  unfold engineRead
  refine foldl_fst_memOk hs fun p a hp => ?_
  split
  · exact hp
  · split
    · exact hp
    · exact hp
    · split
      next e' => exact fst_memOk e' (reach_memOk hp)
      next e' =>
        have h2 := fst_memOk e' (reach_memOk hp)
        split
        next e'' => exact fst_memOk e'' (loadKey_memOk h2)
    · exact hp

theorem enginePut_memOk {w : Who} {blk : Option Nat} {pl : Place1 × Option Page} {b : Byte} (hs : memOk s) : memOk
    (enginePut s w blk pl b) := by
  unfold enginePut
  split
  · exact hs
  · exact storeKey_memOk hs
  · exact hs

theorem engineDigit_memOk {w : Who} {blk : Option Nat} {base va : Nat} (hs : memOk s) : memOk (engineDigit s w blk base va).1 := by
  unfold engineDigit
  dsimp only
  split
  · exact hs
  · split
    next e => exact fst_memOk e (reach_memOk hs)
    next e => exact fst_memOk e (reach_memOk hs)
  · exact hs

theorem engineDigits_memOk {w : Who} {blk : Option Nat} {base : Nat} {vas : List Nat} (hs : memOk s) :
    memOk (engineDigits w blk base vas s).1 := by
  induction vas generalizing s with
  | nil => exact hs
  | cons va vas ih =>
    unfold engineDigits
    grind [! ← engineDigit_memOk]

theorem engineWritePiece_memOk {w : Who} {blk : Option Nat} {dig : Option (Nat × Nat)} {va : Nat} {bs : List Byte} (hs : memOk s) :
    memOk (engineWritePiece s w blk dig va bs).1 := by
  unfold engineWritePiece
  split
  · exact hs
  · exact hs
  · split
    next e => exact fst_memOk e (reach_memOk hs)
    next e =>
      have h1 := fst_memOk e (reach_memOk hs)
      dsimp only
      split
      next e' => exact fst_memOk e' (engineDigits_memOk h1)
      next e' => exact foldl_memOk (foldl_memOk (fst_memOk e' (engineDigits_memOk h1)) fun _ _ => storeKey_memOk) fun _ _ => enginePut_memOk
  · exact hs

theorem engineWrite_memOk {w : Who} {blk : Option Nat} {dig : Option (Nat × Nat)} {va : Nat} {bs : List Byte} (hs : memOk s) : memOk
    (engineWrite s w blk dig va bs).1 := by
  unfold engineWrite
  refine foldl_fst_memOk hs fun p a hp => ?_
  split
  · exact hp
  · split
    next e' => exact fst_memOk e' (engineWritePiece_memOk hp)
    next e' => exact fst_memOk e' (engineWritePiece_memOk hp)

theorem tagClear_memOk {b tag : Nat} (hs : memOk s) : memOk (tagClear s b tag) := hs

theorem tagDone_memOk {b tag : Nat} {status : BitVec 128} (hs : memOk s) : memOk (tagDone s b tag status) := hs

theorem engineBits_memOk {w : Who} {blk : Option Nat} {bit : Int} {n : Nat} (hs : memOk s) : memOk (engineBits s w blk bit n).1 := by
  unfold engineBits
  dsimp only
  split
  next e => exact fst_memOk e (engineRead_memOk hs)
  next e => exact fst_memOk e (engineRead_memOk hs)

theorem copyElems_memOk {d : CopyDesc} {w : Who} {blk : Option Nat} {ns : List Nat} (hs : memOk s) : memOk (copyElems d w blk s ns).1 := by
  induction ns generalizing s with
  | nil => exact hs
  | cons n ns ih =>
    unfold copyElems
    grind [! ← engineBits_memOk]

theorem copyBlock_memOk {d : CopyDesc} {w : Who} {blk : Option Nat} {x : CopyRead} {bl : List Nat} (hx : memOk x.s) : memOk
    (copyBlock d w blk x bl).s := by
  unfold copyBlock
  grind [! ← copyElems_memOk, ! ← engineBits_memOk]

theorem engineWriteMap_memOk {w : Who} {blk : Option Nat} {dig : Option (Nat × Nat)} {m : SMap (Nat × Nat)} (hs : memOk s) : memOk
    (engineWriteMap s w blk dig m).1 := by
  unfold engineWriteMap
  dsimp only
  refine foldl_fst_memOk hs fun p a hp => ?_
  split
  · exact hp
  · exact engineWrite_memOk hp

theorem runCopy_memOk {d : CopyDesc} {w : Who} {blk digest : Option Nat} (hs : memOk s) : memOk (runCopy s d w blk digest).1 := by
  unfold runCopy
  dsimp only
  split
  · exact hs
  · split
    · exact hs
    · split
      · exact hs
      · split
        · exact foldl_keeps CopyRead.s hs fun _ _ => copyBlock_memOk
        · split
          · exact foldl_keeps CopyRead.s hs fun _ _ => copyBlock_memOk
          · exact engineWriteMap_memOk (foldl_keeps CopyRead.s hs fun _ _ => copyBlock_memOk)

theorem acceptCopy_memOk {b i tag off : Nat} (hs : memOk s) : memOk (acceptCopy s b i tag off) := by
  unfold acceptCopy
  dsimp only
  exact tagClear_memOk (foldl_memOk (sameMem_memOk (State.free_memOk hs)) fun _ _ => setOwner_memOk)

theorem execXcopy_memOk {x : Ext} (hs : memOk s) : NextOk (execXcopy x s) := by
  refine onceRun_noMore_memOk hs fun l t ht => ?_
  dsimp only
  split
  · exact ht
  · split
    · exact ht
    · exact acceptCopy_memOk ht

theorem performCopy_memOk {op : CopyOp} (hs : memOk s) : memOk (performCopy s op).1 := by
  unfold performCopy
  dsimp only
  split
  · exact hs
  · split
    · exact hs
    · split
      · exact hs
      · exact runCopy_memOk hs

theorem execCopyComplete_memOk {die idx : Nat} (hs : memOk s) : NextOk (execCopyComplete die idx s) := by
  unfold execCopyComplete
  refine nextOk_next.mpr ?_
  split
  · exact hs
  · dsimp only
    refine tagDone_memOk (sameMem_memOk (foldl_memOk ?_ fun _ _ => setOwner_memOk))
    split
    · exact sameMem_memOk (sampleEngine_memOk (performCopy_memOk hs))
    · exact sampleEngine_memOk (performCopy_memOk hs)

/-! Queues (Sys2Proof/Machine/Queues.lean). -/

theorem setQueue_memOk {die e q : Nat} {v : QueueSt} (hs : memOk s) : memOk (setQueue s die e q v) := hs

theorem qCount_memOk {die pa kind : Nat} (hs : memOk s) : memOk (qCount s die pa kind) := sameMem_memOk (countReq_memOk hs)

theorem qPut_memOk {die pa off n v : Nat} (hs : memOk s) : memOk (qPut s die pa off n v) := by
  unfold qPut
  split
  · exact Memory.wf_write _ _ _ hs
  · exact qCount_memOk hs

theorem qSetState_memOk {die pa v : Nat} (hs : memOk s) : memOk (qSetState s die pa v) := qPut_memOk hs

theorem qOff_memOk {die pa : Nat} (hs : memOk s) : memOk (qOff s die pa) := by
  unfold qOff
  split
  · exact qSetState_memOk hs
  · exact Memory.wf_write _ _ _ hs

theorem queueOff_memOk {die e q : Nat} (hs : memOk s) : memOk (queueOff s die e q) := setQueue_memOk (qOff_memOk hs)

theorem samplePacket_memOk {die e r : Nat} (hs : memOk s) : memOk (samplePacket s die e r) := by
  unfold samplePacket
  split
  · exact sampleReqs_memOk hs
  · exact hs

theorem queueError_memOk {die e pa record : Nat} {bad : Option (Nat × Nat)} (hs : memOk s) : memOk (queueError s die e pa record bad) :=
  deliverAsync_memOk (samplePacket_memOk (qSetState_memOk hs))

theorem packetCopy_memOk {w : Who} {d : CopyDesc} (hs : memOk s) : memOk (packetCopy s w d).1 := by
  unfold packetCopy
  split
  · exact hs
  · split
    · exact hs
    · exact runCopy_memOk hs

theorem packetSignal_memOk {w : Who} {addr value : Nat} {add : Bool} (hs : memOk s) : memOk (packetSignal s w addr value add).1 := by
  unfold packetSignal
  dsimp only
  split
  · split
    next e => exact fst_memOk e (syncReach_memOk hs)
    next e => exact syncWrite_memOk (fst_memOk e (syncReach_memOk hs))
  · split
    · exact hs
    · split
      · split
        next e => exact fst_memOk e (reachAtomic_memOk hs)
        next e => exact foldl_memOk (fst_memOk e (reachAtomic_memOk hs)) fun _ _ => atomicKey_memOk
      · split
        next e => exact fst_memOk e (engineWrite_memOk hs)
        next e => exact fst_memOk e (engineWrite_memOk hs)

theorem performPacket_memOk {w : Who} {e t : Nat} {p : List Byte} (hs : memOk s) : memOk (performPacket s w e t p).1 := by
  unfold performPacket
  dsimp only
  split
  · exact hs
  · split
    · exact hs
    · exact packetCopy_memOk hs
    · split
      next e => exact fst_memOk e (engineRead_memOk hs)
      next e =>
        have h1 := fst_memOk e (engineRead_memOk hs)
        split
        next e' => exact fst_memOk e' (engineWrite_memOk (packetCopy_memOk h1))
        next e' => exact fst_memOk e' (engineWrite_memOk (packetCopy_memOk h1))
    · split
      · exact hs
      · split
        next e => exact fst_memOk e (engineWrite_memOk hs)
        next e => exact fst_memOk e (engineWrite_memOk hs)
    · exact packetSignal_memOk hs

theorem packetFinish_memOk {die e q pa t : Nat} {crec hfault : Bool} {r : PacketEnd} (hs : memOk s) : memOk
    (packetFinish s die e q pa t crec hfault r) := by
  unfold packetFinish
  grind [! ← writeRange_memOk, qPut_memOk, queueError_memOk, queueOff_memOk, samplePacket_memOk]

theorem nextPacket_memOk {die pa : Nat} (hs : memOk s) : memOk (nextPacket s die pa).1 := readRange_memOk hs

theorem serveQueue_memOk {die e q : Nat} {want : Option Nat} (hs : memOk s) : memOk (serveQueue s die e q want) := by
  unfold serveQueue
  dsimp only
  split
  · exact hs
  · split
    next e => exact packetFinish_memOk (fst_memOk e (nextPacket_memOk (qCount_memOk hs)))
    · exact hs
    · exact hs
    next e =>
      have h1 := fst_memOk e (nextPacket_memOk (qCount_memOk hs))
      split
      · exact hs
      · refine packetFinish_memOk ?_
        split
        · exact h1
        · exact performPacket_memOk h1

theorem execQueueRegionEnded_memOk {die eng q : Nat} (hs : memOk s) : NextOk (execQueueRegionEnded die eng q s) := by
  unfold execQueueRegionEnded
  refine nextOk_next.mpr ?_
  dsimp only
  split
  · exact queueOff_memOk hs
  · exact hs

theorem execQueueResume_memOk {die eng q : Nat} (hs : memOk s) : NextOk (execQueueResume die eng q s) := by
  unfold execQueueResume
  refine nextOk_next.mpr ?_
  dsimp only
  split
  · split
    · exact qSetState_memOk (qPut_memOk (qCount_memOk hs))
    · exact qPut_memOk (qCount_memOk hs)
  · exact hs

theorem writeQtab_memOk {die e q : Nat} {value : W64} (hs : memOk s) : memOk (writeQtab s die e q value) := by
  unfold writeQtab
  dsimp only
  split
  · split
    · exact hs
    · exact queueOff_memOk hs
  · split
    · exact setQueue_memOk hs
    · split
      · exact setQueue_memOk (qSetState_memOk (qCount_memOk hs))
      · exact setQueue_memOk (qOff_memOk (qCount_memOk hs))

theorem execQueueEnable_memOk {die eng q : Nat} {value : BitVec 64} (hs : memOk s) : NextOk (execQueueEnable die eng q value s) := by
  unfold execQueueEnable
  refine nextOk_next.mpr ?_
  split
  · exact writeQtab_memOk hs
  · exact hs

theorem execQueueDisable_memOk {die eng q : Nat} {value : BitVec 64} (hs : memOk s) : NextOk (execQueueDisable die eng q value s) := by
  unfold execQueueDisable
  refine nextOk_next.mpr ?_
  split
  · exact writeQtab_memOk hs
  · exact hs

/-! Streams (Sys2Proof/Machine/Stream.lean). -/

theorem State.setRecv_memOk {m tc : Nat} {v : RecvStream} (hs : memOk s) : memOk (s.setRecv m tc v) := hs

theorem transmit_memOk {port : Nat} {f : Flit} (hs : memOk s) : memOk (transmit s port f) := by
  unfold transmit
  split <;> exact hs

theorem holdPort_memOk {p : Nat} (hs : memOk s) : memOk (holdPort s p) := by
  unfold holdPort
  split <;> exact hs

theorem sendFlit_memOk {m tc kind plen grid : Nat} {p : Packet} (hs : memOk s) : memOk (sendFlit s m tc kind plen grid p).1 := by
  unfold sendFlit
  dsimp only
  refine transmit_memOk (sameMem_memOk (holdPort_memOk ?_))
  split <;> exact hs

theorem postFlit_memOk {m tc kind plen grid : Nat} {p : Packet} (hs : memOk s) : memOk (postFlit s m tc kind plen grid p) := by
  unfold postFlit
  split
  · exact sendFlit_memOk hs
  · exact hs

theorem drainSend_memOk {m tc fuel : Nat} (hs : memOk s) : memOk (drainSend m tc fuel s) := by
  induction fuel generalizing s with
  | zero => exact hs
  | succ fuel ih =>
    unfold drainSend
    extract_lets S
    split
    · exact hs
    · split
      · exact ih (sendFlit_memOk hs)
      · exact hs

theorem drainSends_memOk (hs : memOk s) : memOk (drainSends s) := foldl_memOk hs fun _ _ => drainSend_memOk

theorem sendPacket_memOk {m tc kind grid : Nat} {p : Packet} (hs : memOk s) : memOk (sendPacket s m tc kind grid p) := by
  unfold sendPacket
  split
  · exact hs
  · exact postFlit_memOk hs

theorem sendInvoke_memOk {m grid : Nat} {p : Packet} {i : Invocation} (hs : memOk s) : memOk (sendInvoke s m grid p i) := by
  unfold sendInvoke
  extract_lets t
  have ht : memOk t := sendPacket_memOk hs
  split
  · exact ht
  · exact foldl_memOk ht fun _ _ => postFlit_memOk

theorem freePacket_memOk {kind port : Nat} (hs : memOk s) : memOk (freePacket s kind port).1 := hs

theorem drainRecv_memOk {src tc fuel : Nat} (hs : memOk s) : memOk (drainRecv src tc fuel s) := by
  induction fuel generalizing s with
  | zero => exact hs
  | succ fuel ih =>
    unfold drainRecv
    grind [! ← freePacket_memOk, State.setRecv_memOk]

theorem drainAll_memOk (hs : memOk s) : memOk (drainAll s) := by
  refine foldl_memOk hs fun t kv ht => ?_
  split
  · exact ht
  · exact drainRecv_memOk ht

theorem ackStores_memOk {fs : List Flit} (hs : memOk s) : memOk (ackStores s fs) := by
  unfold ackStores
  refine foldl_memOk hs fun t a ht => ?_
  split
  · split
    · dsimp only
      refine sameMem_memOk ?_
      split
      · refine samplePut_memOk ?_
        split
        · exact flushL1_memOk ht
        · exact ht
      · split
        · exact flushL1_memOk ht
        · exact ht
    · exact ht
  · exact ht

theorem takeAck_memOk {m tc ack : Nat} (hs : memOk s) : memOk (takeAck s m tc ack) := by
  unfold takeAck
  dsimp only
  split
  · exact hs
  · split
    · refine drainSends_memOk ?_
      split
      · exact sameMem_memOk (ackStores_memOk hs)
      · exact sameMem_memOk (sameMem_memOk (ackStores_memOk hs))
    · refine drainAll_memOk (sameMem_memOk (drainSends_memOk ?_))
      split
      · exact sameMem_memOk (ackStores_memOk hs)
      · exact sameMem_memOk (sameMem_memOk (ackStores_memOk hs))

theorem noteRoutes_memOk {s0 : State} (hs : memOk s) : memOk (noteRoutes s0 s) := hs

theorem failPort_memOk {p : Nat} (hs : memOk s) : memOk (failPort s p) := by
  unfold failPort
  split
  · exact hs
  · exact noteRoutes_memOk hs

theorem takeNak_memOk {m tc e : Nat} (hs : memOk s) : memOk (takeNak s m tc e) := by
  unfold takeNak
  dsimp only
  split
  · exact hs
  · split
    · exact failPort_memOk (foldl_memOk hs fun _ _ => transmit_memOk)
    · exact foldl_memOk hs fun _ _ => transmit_memOk

theorem noteGap_memOk {src tc : Nat} {before : RecvStream} (hs : memOk s) : memOk (noteGap s src tc before) := by
  unfold noteGap
  dsimp only
  split <;> exact hs

theorem takeData_memOk {port src tc kind seq : Nat} (hs : memOk s) : memOk (takeData s port src tc kind seq) := by
  unfold takeData
  dsimp only
  split
  · exact noteGap_memOk (drainRecv_memOk hs)
  · split
    · exact hs
    · split
      · exact transmit_memOk hs
      · exact hs

theorem execFlitReceive_memOk {port : Nat} {flit : List (BitVec 8)} (hs : memOk s) : NextOk (execFlitReceive port flit s) := by
  unfold execFlitReceive
  refine nextOk_next.mpr ?_
  dsimp only
  split
  · exact hs
  · split
    · split
      · exact takeAck_memOk (wakeDie_memOk hs)
      · exact wakeDie_memOk hs
    · split
      · refine takeNak_memOk ?_
        split
        · exact takeAck_memOk (wakeDie_memOk hs)
        · exact wakeDie_memOk hs
      · refine takeData_memOk ?_
        split
        · exact takeAck_memOk (wakeDie_memOk hs)
        · exact wakeDie_memOk hs

theorem sendControl_memOk {m tc kind ack : Nat} (hs : memOk s) : memOk (sendControl s m tc kind ack) := by
  unfold sendControl
  split
  · exact hs
  · dsimp only
    refine transmit_memOk ?_
    split <;> exact hs

theorem execAckTimer_memOk {src tc : Nat} (hs : memOk s) : NextOk (execAckTimer src tc s) := by
  unfold execAckTimer
  refine nextOk_next.mpr ?_
  dsimp only
  split
  · exact sendControl_memOk hs
  · exact hs

theorem execKeepaliveAck_memOk {src : Nat} (hs : memOk s) : NextOk (execKeepaliveAck src s) := by
  unfold execKeepaliveAck
  refine nextOk_next.mpr ?_
  split
  · exact sendControl_memOk hs
  · exact hs

theorem execGapTimeout_memOk {src tc : Nat} (hs : memOk s) : NextOk (execGapTimeout src tc s) := by
  unfold execGapTimeout
  refine nextOk_next.mpr ?_
  dsimp only
  split
  · exact sendControl_memOk hs
  · exact hs

theorem execAckProgressTimeout_memOk {port : Nat} (hs : memOk s) : NextOk (execAckProgressTimeout port s) := by
  unfold execAckProgressTimeout
  refine nextOk_next.mpr ?_
  split
  · exact failPort_memOk hs
  · exact hs

theorem castle_memOk {key : Nat} (hs : memOk s) : memOk (castle s key) := by
  unfold castle
  dsimp only
  split
  · exact hs
  · exact drainSends_memOk (foldl_memOk (sameMem_memOk (holdPort_memOk hs)) fun _ _ => transmit_memOk)

theorem castlePort_memOk {p : Nat} (hs : memOk s) : memOk (castlePort s p) := by
  unfold castlePort
  refine foldl_memOk hs fun t a ht => ?_
  split
  · exact castle_memOk ht
  · exact ht

theorem execCastling_memOk {port : Nat} (hs : memOk s) : NextOk (execCastling port s) := by
  unfold execCastling
  refine nextOk_next.mpr ?_
  split
  · exact hs
  · exact castlePort_memOk hs

/-! Handles (Sys2Proof/Machine/Handle.lean). -/

theorem allocArea_memOk {r n : Nat} (hs : memOk s) : memOk (allocArea s r n).1 := by
  unfold allocArea
  dsimp only
  split
  · exact hs
  · split
    · exact State.free_memOk hs
    · split
      · exact State.free_memOk hs
      · split
        · exact State.free_memOk hs
        · exact sameMem_memOk (State.free_memOk hs)

theorem dropArea_memOk {o base n r : Nat} (hs : memOk s) : memOk (dropArea s o base n r) := by
  unfold dropArea
  split
  · exact hs
  · exact freeArea_memOk hs

theorem killCallee_memOk {h : W64} (hs : memOk s) : memOk (killCallee s h) := by
  unfold killCallee
  split
  · split
    · exact hs
    · exact endGrid_memOk hs
  · exact hs

theorem freeResult_memOk {h : W64} (hs : memOk s) : memOk (freeResult s h) := by
  unfold freeResult
  split
  · split
    · exact sameMem_memOk (dropArea_memOk hs)
    · exact hs
  · exact hs

theorem sendNotice_memOk {m : Nat} {h : W64} {st cause rdev rlen raddr region grid : Nat} (hs : memOk s) : memOk
    (sendNotice s m h st cause rdev rlen raddr region grid) := sendPacket_memOk hs

theorem tellCallee_memOk {m : Nat} {h : W64} {st cause : Nat} (hs : memOk s) : memOk (tellCallee s m h st cause) := by
  unfold tellCallee
  split
  · exact hs
  · split
    · split
      · exact freeResult_memOk hs
      · exact killCallee_memOk hs
    · exact sendNotice_memOk hs

theorem invoke_memOk {m blk : Nat} {p : Packet} {i : Invocation} (hs : memOk s) : memOk (invoke s m blk p i) := by
  unfold invoke
  split
  · exact sendPacket_memOk hs
  · exact sendInvoke_memOk hs

theorem forward_memOk {m : Nat} {i : Invocation} (hs : memOk s) : memOk (forward s m i) := by
  unfold forward
  dsimp only
  split
  · exact State.setHandle_memOk (invoke_memOk hs)
  · exact invoke_memOk hs

theorem applyHandle_memOk {fuel : Nat} {h : W64} {st cause rdev rlen raddr : Nat} (hs : memOk s) :
    memOk (applyHandle fuel s h st cause rdev rlen raddr) := by
  induction fuel generalizing s h st cause rdev rlen raddr with
  | zero => exact hs
  | succ fuel ih =>
    unfold applyHandle
    grind [sendNotice_memOk, tellCallee_memOk, State.setHandle_memOk, forward_memOk, foldl_memOk]

theorem handleEvent_memOk {h : W64} {st cause rdev rlen raddr : Nat} (hs : memOk s) : memOk (handleEvent s h st cause rdev rlen raddr) :=
  applyHandle_memOk hs

theorem breakHandle_memOk {h : W64} {cause : Nat} (hs : memOk s) : memOk (breakHandle s h cause) := handleEvent_memOk hs

theorem freeDie_memOk {d : Nat} (hs : memOk s) : memOk (freeDie s d) := by
  unfold freeDie
  refine foldl_memOk hs fun t a ht => ?_
  dsimp only
  split
  · exact tellCallee_memOk (State.setHandle_memOk ht)
  · exact ht

theorem freeHandles_memOk (hs : memOk s) : memOk (freeHandles s) := foldl_memOk hs fun _ _ => freeDie_memOk

theorem allocHandle_memOk {die region exec via : Nat} (hs : memOk s) : memOk (allocHandle s die region exec via).1 := by
  unfold allocHandle
  split
  · exact hs
  · exact State.setHandle_memOk hs

/-! Launches and blocks (Sys2Proof/Machine/Launch.lean). -/

theorem signalWrite_memOk {region die kind caddr value status count : Nat} (hs : memOk s) : memOk
    (signalWrite s region die kind caddr value status count) := by
  unfold signalWrite
  dsimp only
  split
  · split
    next e => exact recordFault_memOk (fst_memOk e (syncReach_memOk hs))
    next e => exact syncWrite_memOk (fst_memOk e (syncReach_memOk hs))
  · split
    · exact recordFault_memOk (writeRange_memOk hs)
    · exact writeRange_memOk hs
  · split
    · exact recordFault_memOk (writeRange_memOk hs)
    · exact writeRange_memOk hs
  · exact hs

theorem signal_memOk {region die kind caddr cvalue status count : Nat} {res : Option (Nat × Nat × Nat)} (hs : memOk s) : memOk
    (signal s region die kind caddr cvalue status count res) := by
  unfold signal
  split
  · dsimp only
    split
    · exact hs
    · split
      · exact handleEvent_memOk hs
      · exact breakHandle_memOk hs
  · exact signalWrite_memOk hs

theorem launch_memOk {launcher : Option Nat} {die : Nat} {r : LaunchRec} {arena : Option Nat} (hs : memOk s) : memOk
    (launch s launcher die r arena).1 := by
  unfold launch
  grind [memOk, ! ← readRange_memOk, ! ← checkRange_memOk, signal_memOk]

theorem captureRecord_memOk {b : Nat} {m : Member} {pl : Place1} (hs : memOk s) : memOk (captureRecord s b m pl).1 := by
  unfold captureRecord
  split
  · exact hs
  · exact hs
  · split
    next e => exact fst_memOk e (readRange_memOk hs)
    next e => exact fst_memOk e (readRange_memOk hs)

theorem execDlaunch_memOk {x : Ext} (hs : memOk s) : NextOk (execDlaunch x s) := by
  refine onceRun_noMore_memOk hs fun l t ht => ?_
  dsimp only
  split
  · exact ht
  · split
    next e => exact fst_memOk e (captureRecord_memOk ht)
    next e => exact launch_memOk (fst_memOk e (captureRecord_memOk ht))

theorem runInvocation_memOk {die : Nat} {i : Invocation} (hs : memOk s) : memOk (runInvocation s die i) := by
  unfold runInvocation
  dsimp only
  split
  · exact breakHandle_memOk hs
  · split
    next e => exact breakHandle_memOk (fst_memOk e (readRange_memOk hs))
    next e =>
      have h1 := fst_memOk e (readRange_memOk hs)
      split
      next e' => exact breakHandle_memOk (fst_memOk e' (allocArea_memOk h1))
      next e' =>
        have h2 := fst_memOk e' (allocArea_memOk h1)
        split
        next e'' => exact breakHandle_memOk (dropArea_memOk (fst_memOk e'' (allocArea_memOk h2)))
        next e'' =>
          have h3 := fst_memOk e'' (allocArea_memOk h2)
          split
          · exact breakHandle_memOk (freeArea_memOk (dropArea_memOk (writeRange_memOk (writeRange_memOk h3))))
          · split
            next e''' => exact handleEvent_memOk (sameMem_memOk (fst_memOk e''' (launch_memOk (writeRange_memOk (writeRange_memOk h3)))))
            next e''' => exact freeArea_memOk (dropArea_memOk (fst_memOk e''' (launch_memOk (writeRange_memOk (writeRange_memOk h3)))))

theorem prepay_memOk {r : Nat} (hs : memOk s) : memOk (prepay s r) := hs

theorem takeTurn_memOk {c r : Nat} (hs : memOk s) : memOk (takeTurn s c r) := hs

theorem attachDebug_memOk {b : Nat} (hs : memOk s) : memOk (attachDebug s b) := by
  unfold attachDebug
  dsimp only
  split
  · exact hs
  · split
    · exact hs
    · split
      · exact debugField_memOk hs
      · exact startCourse_memOk hs

theorem gangStart_memOk {g : Nat} (hs : memOk s) : memOk (gangStart s g) := by
  unfold gangStart
  refine foldl_memOk hs fun t a ht => ?_
  split
  · exact resumeBlock_memOk ht
  · exact ht
  · exact ht

theorem createBlock_memOk {grid stage core spad : Nat} {places : List Place} (hs : memOk s) : memOk
    (createBlock s grid stage core spad places) := by
  unfold createBlock
  dsimp only
  split
  next e => exact recordFault_memOk (endGrid_memOk (fst_memOk e (readRange_memOk (takeTurn_memOk hs))))
  next e =>
    have h1 := fst_memOk e (readRange_memOk (takeTurn_memOk hs))
    refine attachDebug_memOk (sameMem_memOk (sameMem_memOk (sameMem_memOk (prepay_memOk (flushL1_memOk ?_)))))
    split <;> exact h1

theorem releaseQueue_memOk {g die : Nat} (hs : memOk s) : memOk (releaseQueue s g die) := by
  unfold releaseQueue
  dsimp only
  refine foldl_memOk hs fun t a ht => ?_
  split
  · exact runInvocation_memOk ht
  · exact breakHandle_memOk ht

theorem completeGrid_memOk {grid : Nat} (hs : memOk s) : memOk (completeGrid s grid) := by
  unfold completeGrid
  dsimp only
  refine freeHandles_memOk (releaseQueue_memOk ?_)
  split
  · exact freeArea_memOk (signal_memOk (sameMem_memOk (sameMem_memOk (State.free_memOk hs))))
  · exact signal_memOk (sameMem_memOk (sameMem_memOk (State.free_memOk hs)))

theorem execGridComplete_memOk {grid : Nat} (hs : memOk s) : NextOk (execGridComplete grid s) := by
  unfold execGridComplete
  refine nextOk_next.mpr ?_
  split
  · exact hs
  · exact completeGrid_memOk hs

/-! Calls (Sys2Proof/Machine/Call.lean). -/

theorem takeDelivered_memOk {src tc n : Nat} {p : Packet} {t : State} (h : takeDelivered s src tc = some (n, p, t)) (hs : memOk s) :
    memOk t := by
  unfold takeDelivered at h
  dsimp only at h
  split at h
  · cases h
  · cases h
    exact sameMem_memOk hs

theorem sendReply_memOk {src tc seq : Nat} {p : Packet} (hs : memOk s) : memOk (sendReply s src tc seq p) := by
  unfold sendReply
  split
  · exact sendPacket_memOk hs
  · split
    next e => exact sameMem_memOk (fst_memOk e (sendFlit_memOk hs))

theorem callBody_memOk {atHandle : Bool} {l : MemIn} (hs : memOk s) : memOk (callBody atHandle l s).1 := by
  unfold callBody
  grind [! ← allocHandle_memOk, State.setHandle_memOk, invoke_memOk]

theorem execCallr_memOk {x : Ext} (hs : memOk s) : NextOk (execCallr x s) := onceRun_noMore_memOk hs fun _ _ ht => callBody_memOk ht

theorem execCallh_memOk {x : Ext} (hs : memOk s) : NextOk (execCallh x s) := onceRun_noMore_memOk hs fun _ _ ht => callBody_memOk ht

theorem invocationAt_memOk {die : Nat} {i : Invocation} (hs : memOk s) : memOk (invocationAt s die i) := by
  unfold invocationAt
  split
  · exact runInvocation_memOk hs
  · split
    · exact breakHandle_memOk hs
    · dsimp only
      split
      · exact hs
      · split
        · exact runInvocation_memOk hs
        · exact breakHandle_memOk hs

theorem takeNotice_memOk {h : W64} {st cause rdev rlen raddr region : Nat} (hs : memOk s) : memOk
    (takeNotice s h st cause rdev rlen raddr region) := by
  unfold takeNotice
  split
  · split
    · split
      · exact State.setHandle_memOk hs
      · exact hs
    · split
      · exact hs
      · exact handleEvent_memOk hs
  · split
    · exact freeResult_memOk hs
    · split
      · exact killCallee_memOk hs
      · exact hs

theorem execInvokeReceive_memOk {src : Nat} (hs : memOk s) : NextOk (execInvokeReceive src s) := by
  refine nextOk_next.mpr ?_
  split
  next e =>
    split
    · refine freeHandles_memOk ?_
      have ht := takeDelivered_memOk e hs
      split
      · exact invocationAt_memOk (sameMem_memOk ht)
      · exact sendReply_memOk (invocationAt_memOk (sameMem_memOk ht))
    · exact hs
  next e => exact freeHandles_memOk (takeNotice_memOk (takeDelivered_memOk e hs))
  · exact hs

theorem callhAt_memOk {i : Invocation} {h : W64} (hs : memOk s) : memOk (callhAt s i h) := by
  unfold callhAt
  dsimp only
  split
  · exact breakHandle_memOk hs
  · split
    · exact breakHandle_memOk hs
    · split
      · exact State.setHandle_memOk hs
      · refine forward_memOk ?_
        split
        · exact hs
        · exact State.setHandle_memOk hs

theorem execCallhAtHome_memOk {src : Nat} (hs : memOk s) : NextOk (execCallhAtHome src s) := by
  refine nextOk_next.mpr ?_
  grind [memOk, takeDelivered_memOk, callhAt_memOk, sendReply_memOk, freeHandles_memOk]

theorem foreignWord_memOk {settled : Bool} (hs : memOk s) : memOk (foreignWord s settled).1 := hs

theorem acquireToo_memOk {b i : Nat} {vs : List Nat} (hs : memOk s) : memOk (acquireToo b vs s i) := acquireEffect_memOk hs

theorem execWaith_memOk {x : Ext} (hs : memOk s) : NextOk (execWaith x s) := by
  refine onceRun_memOk hs (fun l t ht => ?_) fun _ _ _ _ => acquireToo_memOk
  dsimp only
  split
  · split
    · exact acquireEffect_memOk (foreignWord_memOk ht)
    · exact ht
  · split
    · exact ht
    · exact acquireEffect_memOk ht

theorem execHstat_memOk {x : Ext} (hs : memOk s) : NextOk (execHstat x s) := by
  refine onceRun_memOk hs (fun l t ht => ?_) fun _ _ _ _ ht => ?_
  · grind [! ← foreignWord_memOk, ! ← State.free_memOk, acquireEffect_memOk]
  · grind [acquireToo_memOk]

theorem dropRun_memOk {x : Ext} {f : State → W64 → State} {st : Nat} (hs : memOk s) (hf : ∀ t h, memOk t → memOk (f t h)) :
    NextOk (dropRun x f st s) := by
  refine drainRun_memOk hs fun l t ht => ?_
  grind [sendNotice_memOk]

theorem execDrophBreak_memOk {x : Ext} (hs : memOk s) : NextOk (execDrophBreak x s) :=
  dropRun_memOk hs fun _ _ ht => freeHandles_memOk (breakHandle_memOk ht)

theorem execDrophRelease_memOk {x : Ext} (hs : memOk s) : NextOk (execDrophRelease x s) :=
  dropRun_memOk hs fun _ _ ht => freeHandles_memOk (State.setHandle_memOk ht)

/-! Remote accesses (Sys2Proof/Machine/Remote.lean). -/

theorem remoteReach_memOk {w : Who} {r : Remote} {va n : Nat} {k : AccKind} (hs : memOk s) : memOk (remoteReach s w r va n k).1 := by
  unfold remoteReach
  split
  · split
    · split
      next e => exact fst_memOk e (translate_memOk hs)
      next e => split <;> exact fst_memOk e (translate_memOk hs)
    · exact hs
  · split
    · exact reachAtomic_memOk hs
    · exact reach_memOk hs

theorem remoteDigits_memOk {w : Who} {r : Remote} {k : AccKind} {as : List Nat} (hs : memOk s) : memOk (remoteDigits s w r k as).1 := by
  induction as generalizing s with
  | nil => exact hs
  | cons a as ih =>
    unfold remoteDigits
    grind [! ← remoteReach_memOk]

theorem performRemote_memOk {src : Nat} {core : Option Nat} {r : Remote} (hs : memOk s) : memOk (performRemote s src core r).1 := by
  unfold performRemote
  dsimp only
  split
  next e => exact fst_memOk e (remoteReach_memOk hs)
  next e =>
    have h1 := fst_memOk e (remoteReach_memOk hs)
    split
    next e' => exact fst_memOk e' (remoteDigits_memOk h1)
    next e' =>
      have h2 := fst_memOk e' (remoteDigits_memOk h1)
      split
      · split
        · exact foldl_fst_memOk h2 fun _ _ => loadKey_memOk
        · split
          · exact loadKey_memOk (loadKey_memOk h2)
          · exact loadKey_memOk h2
      · split
        · split
          · exact foldl_memOk h2 fun _ _ => storeKey_memOk
          · exact foldl_memOk (storeKey_memOk h2) fun _ _ => storeKey_memOk
        · split
          · refine foldl_fst_memOk h2 fun p a hp => ?_
            split
            · exact atomAt_memOk hp
            · exact atomicKey_memOk hp
          · exact foldl_memOk (atomAt_memOk h2) fun _ _ => storeKey_memOk

theorem answerSelf_memOk {r : Remote} {res : Except Flt (List Nat)} (hs : memOk s) : memOk (answerSelf s r res) := by
  unfold answerSelf
  split <;> exact sendPacket_memOk hs

theorem sendRequest_memOk {l : MemIn} {x : Ext} {major kind dev addr : Nat} (hs : memOk s) : memOk
    (sendRequest s l x major kind dev addr).1 := by
  unfold sendRequest
  grind [memOk, ! ← sampleNext_memOk, ! ← performRemote_memOk, State.setRecv_memOk, answerSelf_memOk, sendPacket_memOk]

theorem remoteBody_memOk {x : Ext} {kind : Nat} {l : MemIn} (hs : memOk s) : memOk (remoteBody x kind l s).1 := by
  unfold remoteBody
  grind [State.setMember_memOk, ! ← sendRequest_memOk, storeEffect_memOk]

theorem acquireReplied_memOk {x : Ext} (hs : memOk s) : memOk (acquireReplied x s) := by
  unfold acquireReplied
  split
  · exact hs
  · refine foldl_memOk hs fun t a ht => ?_
    split
    · exact acquireEffect_memOk ht
    · exact ht

theorem execRld_memOk {x : Ext} (hs : memOk s) : NextOk (execRld x s) :=
  memRun_memOk (acquireReplied_memOk hs) fun _ _ => remoteBody_memOk

theorem execRst_memOk {x : Ext} (hs : memOk s) : NextOk (execRst x s) := memRun_memOk hs fun _ _ ht => remoteBody_memOk ht

theorem execRatom_memOk {x : Ext} (hs : memOk s) : NextOk (execRatom x s) :=
  memRun_memOk (acquireReplied_memOk hs) fun _ _ => remoteBody_memOk

theorem storeDone_memOk {src n : Nat} (hs : memOk s) : memOk (storeDone s src n) := by
  unfold storeDone
  split <;> exact hs

theorem execRemoteRequestReceive_memOk {src : Nat} (hs : memOk s) : NextOk (execRemoteRequestReceive src s) := by
  refine nextOk_next.mpr ?_
  split
  next e =>
    have ht := takeDelivered_memOk e hs
    split
    · exact hs
    · dsimp only
      split
      · split
        · exact storeDone_memOk (performRemote_memOk (sameMem_memOk ht))
        · exact sendReply_memOk (performRemote_memOk (sameMem_memOk ht))
      · split
        · exact sendPacket_memOk (storeDone_memOk (performRemote_memOk (sameMem_memOk ht)))
        · exact sendReply_memOk (performRemote_memOk (sameMem_memOk ht))
  · exact hs

theorem remoteStoreFault_memOk {o : Outstanding} {addr code : Nat} (hs : memOk s) : memOk (remoteStoreFault s o addr code) := by
  unfold remoteStoreFault
  dsimp only
  split
  · exact holdCause_memOk hs
  · split
    · exact recordFault_memOk hs
    · exact faultGrid_memOk hs

theorem replyToEntry_memOk {w : Who} {m : Member} {e : Nat} {result : Option (List W64)} {fault : Option (Nat × Nat)} (hs : memOk s) :
    memOk (replyToEntry s w m e result fault) := by
  unfold replyToEntry
  dsimp only
  split
  · split
    next e => exact writeRange_memOk (fst_memOk e (readRange_memOk (foldl_memOk hs fun _ _ => writeRange_memOk)))
    next e => exact fst_memOk e (readRange_memOk (foldl_memOk hs fun _ _ => writeRange_memOk))
  · exact foldl_memOk hs fun _ _ => writeRange_memOk

theorem replyToFrame_memOk {b i : Nat} {c : Captured} {result : Option (List W64)} {fault : Option (Nat × Nat)} (hs : memOk s) : memOk
    (replyToFrame s b i c result fault) := by
  unfold replyToFrame
  dsimp only
  split
  · split
    · exact replyToEntry_memOk hs
    · exact hs
  · split
    next e => exact fst_memOk e (readRange_memOk hs)
    next e =>
      have h1 := fst_memOk e (readRange_memOk hs)
      split
      next e' =>
        have h2 := fst_memOk e' (readRange_memOk (replyToEntry_memOk h1))
        split
        · exact writeRange_memOk h2
        · exact h2
      next e' => exact fst_memOk e' (readRange_memOk (replyToEntry_memOk h1))
  · exact hs

theorem deliverReply_memOk {o : Outstanding} {result : Option (List W64)} {fault : Option (Nat × Nat)} (hs : memOk s) : memOk
    (deliverReply s o result fault) := by
  unfold deliverReply
  dsimp only
  split
  · exact hs
  · split
    · exact hs
    · split
      · exact arrivalPut_memOk (replyToFrame_memOk hs)
      · exact replyToFrame_memOk hs
      · split
        · exact wakeGroup_memOk hs
        · exact hs
      · exact hs

theorem pruneSend_memOk {m tc : Nat} (hs : memOk s) : memOk (pruneSend s m tc) := drainSends_memOk hs

theorem completeOut_memOk {o : Outstanding} {result : List W64} {fault : Option (Nat × Nat)} (hs : memOk s) : memOk
    (completeOut s o result fault) := by
  unfold completeOut
  grind [memOk, samplePut_memOk, remoteStoreFault_memOk, deliverReply_memOk]

theorem execRemoteReplyReceive_memOk {src : Nat} (hs : memOk s) : NextOk (execRemoteReplyReceive src s) := by
  refine nextOk_next.mpr ?_
  grind [memOk, takeDelivered_memOk, State.setRecv_memOk, completeOut_memOk, pruneSend_memOk, freeHandles_memOk]

theorem loseRequests_memOk {m : Nat} {hit : Outstanding → Bool} (hs : memOk s) : memOk (loseRequests s m hit) := by
  unfold loseRequests
  refine foldl_memOk hs fun t a ht => ?_
  dsimp only
  split
  · exact breakHandle_memOk (completeOut_memOk ht)
  · exact completeOut_memOk ht

theorem loseHandles_memOk {m : Nat} (hs : memOk s) : memOk (loseHandles s m) :=
  foldl_memOk (foldl_memOk hs fun _ _ => State.setHandle_memOk) fun _ _ ht => foldl_memOk ht fun _ _ => breakHandle_memOk

/-! Collectives and lost modules (Sys2Proof/Machine/Coll.lean). -/

theorem deviceRead_memOk {w : Who} {va n : Nat} (hs : memOk s) : memOk (deviceRead s w va n).1 := by
  unfold deviceRead
  refine foldl_fst_memOk hs fun p a hp => ?_
  split
  · exact hp
  · split
    · exact hp
    · split
      next e' => exact fst_memOk e' (reach_memOk hp)
      next e' =>
        have h2 := fst_memOk e' (reach_memOk hp)
        split
        · exact h2
        · split
          next e'' => exact fst_memOk e'' (loadKey_memOk h2)

theorem groupOf_memOk {o : CollOp} {w : Who} (hs : memOk s) : memOk (groupOf s o w).1 := by
  unfold groupOf
  split
  next e => exact fst_memOk e (deviceRead_memOk hs)
  next e =>
    have h1 := fst_memOk e (deviceRead_memOk hs)
    dsimp only
    split
    · exact h1
    · split
      next e' => exact fst_memOk e' (deviceRead_memOk h1)
      next e' => split <;> exact fst_memOk e' (deviceRead_memOk h1)

theorem collElems_memOk {o : CollOp} {w : Who} (hs : memOk s) : memOk (collElems s o w).1 := by
  unfold collElems
  dsimp only
  split
  next e => exact fst_memOk e (engineRead_memOk hs)
  next e => exact fst_memOk e (engineRead_memOk hs)

theorem acceptColl_memOk {b i tag off : Nat} (hs : memOk s) : memOk (acceptColl s b i tag off) := by
  unfold acceptColl
  dsimp only
  refine tagClear_memOk (sameMem_memOk (sampleEngine_memOk ?_))
  split
  · exact useBuffer_memOk (useBuffer_memOk hs)
  · split
    · exact useBuffer_memOk (useBuffer_memOk hs)
    · split
      next e => exact fst_memOk e (groupOf_memOk (useBuffer_memOk (useBuffer_memOk hs)))
      next e =>
        have h1 := fst_memOk e (groupOf_memOk (useBuffer_memOk (useBuffer_memOk hs)))
        split
        next e' => exact fst_memOk e' (collElems_memOk h1)
        next e' => exact fst_memOk e' (collElems_memOk h1)

theorem execColl_memOk {x : Ext} (hs : memOk s) : NextOk (execColl x s) := by
  refine onceRun_noMore_memOk hs fun l t ht => ?_
  dsimp only
  split
  · exact ht
  · split
    · exact ht
    · exact acceptColl_memOk ht

theorem spadArrive_memOk {b off : Nat} {bs : List Byte} (hs : memOk s) : memOk (spadArrive s b off bs) := by
  unfold spadArrive
  dsimp only
  split
  · exact arrivalPut_memOk hs
  · exact hs
  · exact hs
  · exact hs

theorem tagArrive_memOk {b tag : Nat} {status : BitVec 128} (hs : memOk s) : memOk (tagArrive s b tag status) := by
  unfold tagArrive
  dsimp only
  split
  · exact arrivalPut_memOk (tagDone_memOk hs)
  · exact tagDone_memOk hs

theorem collEnd_memOk {die : Nat} {o : CollOp} {code nanc : Nat} {fin : Bool} (hs : memOk s) : memOk (collEnd s die o code nanc fin) := by
  unfold collEnd
  dsimp only
  refine tagArrive_memOk ?_
  split
  · exact spadArrive_memOk hs
  · exact hs

theorem collWrite_memOk {o : CollOp} {w : Who} {bs : List Byte} (hs : memOk s) : memOk (collWrite s o w bs).1 := by
  unfold collWrite
  split
  · exact spadArrive_memOk hs
  · split
    next e => exact fst_memOk e (engineWrite_memOk hs)

theorem collResult_memOk {die : Nat} {o : CollOp} {ps : List CollPeer} (hs : memOk s) : memOk (collResult s die o ps) := by
  unfold collResult
  split
  · exact hs
  · split
    · exact collEnd_memOk hs
    · dsimp only
      split
      · exact collEnd_memOk (sampleEngine_memOk hs)
      next e => exact collEnd_memOk (sampleEngine_memOk (fst_memOk e (collWrite_memOk hs)))

theorem execCollComplete_memOk {die idx : Nat} {outcome : CollOutcome} (hs : memOk s) : NextOk (execCollComplete die idx outcome s) := by
  unfold execCollComplete
  refine nextOk_next.mpr ?_
  split
  · exact hs
  · dsimp only
    split
    · exact collEnd_memOk hs
    · split
      · exact hs
      · split
        · split
          · exact collEnd_memOk hs
          · exact hs
        · exact collResult_memOk hs

theorem execCollTimeout_memOk {die idx : Nat} (hs : memOk s) : NextOk (execCollTimeout die idx s) := by
  unfold execCollTimeout
  refine nextOk_next.mpr ?_
  split
  · exact hs
  · split
    · exact collEnd_memOk hs
    · exact hs

theorem loseColls_memOk {hit : CollOp → Bool} (hs : memOk s) : memOk (loseColls s hit) := by
  unfold loseColls
  refine foldl_memOk hs fun _ _ ht => foldl_memOk ht fun t' a' ht' => ?_
  split
  · exact collEnd_memOk ht'
  · exact ht'

theorem markLost_memOk {m : Nat} (hs : memOk s) : memOk (markLost s m) := hs

theorem dropStream_memOk {m tc : Nat} (hs : memOk s) : memOk (dropStream s m tc) := hs

theorem loseStream_memOk {m tc : Nat} (hs : memOk s) : memOk (loseStream s m tc) := by
  unfold loseStream
  dsimp only
  refine freeHandles_memOk ?_
  split
  · exact loseRequests_memOk (dropStream_memOk (markLost_memOk hs))
  · split
    · exact loseRequests_memOk (loseHandles_memOk (dropStream_memOk (markLost_memOk hs)))
    · split
      · exact loseColls_memOk (dropStream_memOk (markLost_memOk hs))
      · exact dropStream_memOk (markLost_memOk hs)

theorem execStreamLost_memOk {dst tc : Nat} (hs : memOk s) : NextOk (execStreamLost dst tc s) := by
  unfold execStreamLost
  refine nextOk_next.mpr ?_
  split
  · exact loseStream_memOk hs
  · exact hs

theorem execReplyStreamLost_memOk {target : Nat} (hs : memOk s) : NextOk (execReplyStreamLost target s) := by
  unfold execReplyStreamLost
  refine nextOk_next.mpr ?_
  split
  · exact freeHandles_memOk (loseRequests_memOk (loseHandles_memOk (dropStream_memOk (markLost_memOk hs))))
  · exact hs

/-! Stage pipelines (Sys2Proof/Machine/Pipe.lean). -/

theorem setStageQueue_memOk {g q : Nat} {Q : StageQueue} (hs : memOk s) : memOk (setStageQueue s g q Q) := hs

theorem execEnq_memOk {x : Ext} (hs : memOk s) : NextOk (execEnq x s) := by
  refine onceRun_noMore_memOk hs fun l t ht => ?_
  split
  · exact ht
  · split
    · exact ht
    · dsimp only
      split
      next e => exact fst_memOk e (writeRange_memOk ht)
      next e => exact setStageQueue_memOk (fst_memOk e (writeRange_memOk ht))

theorem execDeq_memOk {x : Ext} (hs : memOk s) : NextOk (execDeq x s) := by
  refine onceRun_memOk hs (fun l t ht => ?_) fun _ _ _ _ => acquireEffect_memOk
  grind [setStageQueue_memOk, ! ← readRange_memOk, spadWrite_memOk, acquireEffect_memOk]

theorem giveBack_memOk {g q i : Nat} (hs : memOk s) : memOk (giveBack s g q i) := by
  unfold giveBack
  split
  · exact hs
  · exact sameMem_memOk (setStageQueue_memOk hs)

theorem exitBlock_memOk {b : Nat} (hs : memOk s) : memOk (exitBlock s b) := by
  unfold exitBlock
  dsimp only
  refine foldl_memOk ?_ fun _ _ => giveBack_memOk
  split
  · exact sameMem_memOk (discardBlock_memOk hs)
  · exact endBlock_memOk hs

theorem reviewStage_memOk {g k : Nat} (hs : memOk s) : memOk (reviewStage g s k) := by
  unfold reviewStage
  dsimp only
  split
  · exact hs
  · split
    · exact hs
    · split
      · split
        · exact hs
        · exact exitBlock_memOk hs
      · exact hs

theorem execStageReview_memOk {grid : Nat} (hs : memOk s) : NextOk (execStageReview grid s) := by
  unfold execStageReview
  refine nextOk_next.mpr ?_
  dsimp only
  split
  · exact hs
  · exact foldl_memOk hs fun _ _ => reviewStage_memOk

theorem execPipelineQuiesce_memOk {grid : Nat} (hs : memOk s) : NextOk (execPipelineQuiesce grid s) := by
  unfold execPipelineQuiesce
  refine nextOk_next.mpr ?_
  dsimp only
  split
  · exact hs
  · exact sameMem_memOk (foldl_memOk hs fun _ _ => exitBlock_memOk)

/-! The selection engine (Sys2Proof/Machine/Select.lean). -/

theorem selRead_memOk {o : SelOp} {who : Who} {triad : Bool} {x : Int} (hs : memOk s) : memOk (selRead s o who triad x).1 := by
  unfold selRead
  dsimp only
  split
  · exact hs
  · exact hs
  · exact hs
  · split
    next e => exact fst_memOk e (reach_memOk hs)
    next e =>
      have h1 := fst_memOk e (reach_memOk hs)
      split
      · exact foldl_fst_memOk h1 fun _ _ => loadKey_memOk
      · split
        · split
          next e' => exact fst_memOk e' (engineRead_memOk (loadKey_memOk h1))
          next e' => exact fst_memOk e' (engineRead_memOk (loadKey_memOk h1))
        · exact loadKey_memOk h1

theorem selRow_memOk {o : SelOp} {who : Who} {triad : Bool} {r : Nat} (hs : memOk s) : memOk (selRow s o who triad r).1 := by
  unfold selRow
  refine foldl_fst_memOk hs fun p a hp => ?_
  split
  · exact hp
  · split
    next e' => exact fst_memOk e' (selRead_memOk hp)
    next e' => exact fst_memOk e' (selRead_memOk hp)

theorem selWrite_memOk {o : SelOp} {who : Who} {r : Nat} {x : SelOut} (hs : memOk s) : memOk (selWrite s o who r x).1 := by
  unfold selWrite
  split
  · dsimp only
    split
    · exact hs
    · exact engineWrite_memOk hs
  · split <;> exact hs

theorem sampRow_memOk {o : SelOp} {who : Who} {blk r : Nat} {es : List SelElem} (hs : memOk s) : memOk (sampRow s o who blk r es).1 := by
  unfold sampRow
  dsimp only
  split
  · exact hs
  · split
    · split
      next e => exact fst_memOk e (engineRead_memOk hs)
      next e => exact fst_memOk e (engineRead_memOk hs)
    · exact hs

theorem selRows_memOk {o : SelOp} {who : Who} {triad : Bool} {blk fuel r : Nat} {t : SelStat} (hs : memOk s) :
    memOk (selRows o who triad blk fuel r s t).1 := by
  induction fuel generalizing s r t with
  | zero => exact hs
  | succ fuel ih =>
    unfold selRows
    grind [! ← selRow_memOk, ! ← sampRow_memOk, ! ← selWrite_memOk, ! ← foldl_fst_memOk]

theorem acceptSel_memOk {kind : SelKind} {x : Ext} {b i off : Nat} (hs : memOk s) : memOk (acceptSel s kind x b i off) := by
  unfold acceptSel
  grind [memOk, sameMem_memOk, ! ← useBuffer_memOk, tagClear_memOk, State.setBlock_memOk, State.setCore_memOk]

theorem selRun_memOk {kind : SelKind} {x : Ext} (hs : memOk s) : NextOk (selRun kind x s) := by
  refine onceRun_noMore_memOk hs fun l t ht => ?_
  split
  · exact ht
  · split
    · exact ht
    · exact acceptSel_memOk ht

theorem execSelectionComplete_memOk {core : Nat} (hs : memOk s) : NextOk (execSelectionComplete core s) := by
  unfold execSelectionComplete
  refine nextOk_next.mpr ?_
  split
  · exact hs
  · dsimp only
    split
    · refine tagDone_memOk ?_
      split <;> exact hs
    · refine tagDone_memOk ?_
      split
      · exact sameMem_memOk (sampleEngine_memOk (selRows_memOk hs))
      · exact sampleEngine_memOk (selRows_memOk hs)

/-! Shapes (Sys2Proof/Machine/Shape.lean). -/

theorem execShape_memOk {x : Ext} (hs : memOk s) : NextOk (execShape x s) := drainRun_memOk hs fun _ _ ht => ht

theorem useShape_memOk {b i n : Nat} (hs : memOk s) : memOk (useShape s b i n).1 := logBlockRead_memOk hs

theorem execShget_memOk {x : Ext} (hs : memOk s) : NextOk (execShget x s) := by
  refine drainRun_memOk hs fun l t ht => ?_
  split
  · exact ht
  · split
    next e => exact fst_memOk e (useShape_memOk ht)

/-! The matrix engine (Sys2Proof/Machine/Matrix.lean). -/

theorem setSlot_memOk {c n : Nat} {v : CofferSlot} (hs : memOk s) : memOk (setSlot s c n v) := hs

theorem matDone_memOk {o : MatOp} {code : Nat} {t : MatStat} (hs : memOk s) : memOk (matDone s o code t) := by
  unfold matDone
  dsimp only
  refine tagDone_memOk ?_
  split <;> exact hs

theorem dequeueMat_memOk {c idx : Nat} (hs : memOk s) : memOk (dequeueMat s c idx) := hs

theorem strictCause_memOk {o : MatOp} (hs : memOk s) : memOk (strictCause s o) := by
  unfold strictCause
  dsimp only
  split
  · exact hs
  · exact holdCause_memOk hs

theorem activateSlot_memOk {c : Nat} {o : MatOp} (hs : memOk s) : memOk (activateSlot s c o) := by
  unfold activateSlot
  split
  · exact hs
  · exact setSlot_memOk hs

theorem logMatx_memOk {o : MatOp} (hs : memOk s) : memOk (logMatx s o) := by
  unfold logMatx
  split
  · exact logSpace_memOk hs
  · exact hs

theorem completeMatx_memOk {c : Nat} {o : MatOp} (hs : memOk s) : memOk (completeMatx s c o) := by
  unfold completeMatx
  dsimp only
  split
  · exact matDone_memOk (activateSlot_memOk hs)
  · split
    · split
      · exact strictCause_memOk (matDone_memOk hs)
      · exact matDone_memOk hs
    · split
      · exact matDone_memOk hs
      · split
        · exact matDone_memOk hs
        · split
          · exact strictCause_memOk (matDone_memOk (setSlot_memOk hs))
          · exact matDone_memOk (setSlot_memOk hs)

theorem completeEntry_memOk {c idx : Nat} {kind : MatKind} {f : State → MatOp → State} (hs : memOk s) (hf : ∀ o, memOk (f s o)) :
    memOk (completeEntry s c idx kind f) := by
  unfold completeEntry
  grind

theorem execMatxComplete_memOk {core idx : Nat} (hs : memOk s) : NextOk (execMatxComplete core idx s) :=
  nextOk_next.mpr (completeEntry_memOk hs fun _ => courseCheck_memOk (completeMatx_memOk (dequeueMat_memOk (logMatx_memOk hs))))

theorem acceptMat_memOk {o : MatOp} (hs : memOk s) : memOk (acceptMat s o) := hs

theorem execMatx_memOk {x : Ext} (hs : memOk s) : NextOk (execMatx x s) := by
  refine onceRun_noMore_memOk hs fun l t ht => ?_
  dsimp only
  split
  · exact ht
  · split
    · exact ht
    · split
      · exact ht
      · refine acceptMat_memOk ?_
        split
        · exact useBuffer_memOk (useBuffer_memOk (useShape_memOk ht))
        · exact useShape_memOk ht

theorem execMstat_memOk {x : Ext} (hs : memOk s) : NextOk (execMstat x s) := by
  refine drainRun_memOk hs fun l t ht => ?_
  dsimp only
  split
  · exact ht
  · split <;> exact ht

theorem execCfzero_memOk {x : Ext} (hs : memOk s) : NextOk (execCfzero x s) := by
  refine onceRun_noMore_memOk hs fun l t ht => ?_
  split
  · exact ht
  · split
    · exact ht
    · exact acceptMat_memOk ht

theorem execCfzeroComplete_memOk {core idx : Nat} (hs : memOk s) : NextOk (execCfzeroComplete core idx s) := by
  refine nextOk_next.mpr (completeEntry_memOk hs fun o => ?_)
  dsimp only
  split
  · exact matDone_memOk (dequeueMat_memOk hs)
  · exact matDone_memOk (setSlot_memOk (dequeueMat_memOk hs))

theorem execCfread_memOk {x : Ext} (hs : memOk s) : NextOk (execCfread x s) := by
  refine drainRun_memOk hs fun l t ht => ?_
  dsimp only
  split <;> exact ht

theorem execFold_memOk {x : Ext} (hs : memOk s) : NextOk (execFold x s) := by
  refine onceRun_noMore_memOk hs fun l t ht => ?_
  split
  · exact ht
  · split
    · exact ht
    · dsimp only
      exact acceptMat_memOk ht

theorem trowelScan_memOk {w : Who} {blk base len epoch fuel off : Nat} {t : TrowelScan} (hs : memOk s) :
    memOk (trowelScan w blk base len epoch fuel off t s).1 := by
  induction fuel generalizing s off t with
  | zero => exact hs
  | succ fuel ih =>
    unfold trowelScan
    grind [! ← engineRead_memOk]

theorem readRecords_memOk {w : Who} {blk base : Nat} {rs : List TrowelRec} (hs : memOk s) : memOk (readRecords w blk base rs s).1 := by
  induction rs generalizing s with
  | nil => exact hs
  | cons r rs ih =>
    unfold readRecords
    grind [! ← engineRead_memOk]

theorem tryFold_memOk {c : Nat} {o : MatOp} (hs : memOk s) : memOk (tryFold s c o).1 := by
  unfold tryFold
  dsimp only
  split
  · exact hs
  · split
    · exact hs
    · split
      · exact hs
      · split
        next e => exact fst_memOk e (trowelScan_memOk hs)
        next e =>
          have h1 := fst_memOk e (trowelScan_memOk hs)
          split
          · exact h1
          · split
            · exact h1
            · split
              next e' => exact fst_memOk e' (readRecords_memOk h1)
              next e' => exact fst_memOk e' (readRecords_memOk h1)

theorem execFoldComplete_memOk {core idx : Nat} (hs : memOk s) : NextOk (execFoldComplete core idx s) := by
  refine nextOk_next.mpr (completeEntry_memOk hs fun o => ?_)
  split
  · exact hs
  next e =>
    have h1 := fst_memOk e (tryFold_memOk hs)
    dsimp only
    refine matDone_memOk ?_
    split
    · exact setSlot_memOk (dequeueMat_memOk (sampleEngine_memOk h1))
    · exact dequeueMat_memOk (sampleEngine_memOk h1)

theorem execFoldTimeout_memOk {core idx : Nat} (hs : memOk s) : NextOk (execFoldTimeout core idx s) := by
  refine nextOk_next.mpr (completeEntry_memOk hs fun o => ?_)
  dsimp only
  split
  · exact hs
  next e =>
    have h1 := fst_memOk e (tryFold_memOk hs)
    split
    · exact matDone_memOk (dequeueMat_memOk (sampleEngine_memOk h1))
    · exact hs

theorem execDrain_memOk {x : Ext} (hs : memOk s) : NextOk (execDrain x s) := by
  refine onceRun_noMore_memOk hs fun l t ht => ?_
  split
  · exact ht
  · split
    · exact ht
    · split
      next e => exact acceptMat_memOk (fst_memOk e (useBuffer_memOk ht))

theorem drainWrite_memOk {o : MatOp} {k : CofferSlot} (hs : memOk s) : memOk (drainWrite s o k).1 := by
  unfold drainWrite
  dsimp only
  refine foldl_fst_memOk hs fun p a hp => ?_
  split
  · exact hp
  · split
    next e' => exact fst_memOk e' (engineRead_memOk hp)
    next e' =>
      have h2 := fst_memOk e' (engineRead_memOk hp)
      split
      next e'' => exact fst_memOk e'' (engineWrite_memOk h2)
      next e'' => exact fst_memOk e'' (engineWrite_memOk h2)

theorem execDrainComplete_memOk {core idx : Nat} (hs : memOk s) : NextOk (execDrainComplete core idx s) := by
  refine nextOk_next.mpr (completeEntry_memOk hs fun o => ?_)
  dsimp only
  split
  · exact matDone_memOk (sameMem_memOk (dequeueMat_memOk hs))
  · split
    · exact matDone_memOk (sameMem_memOk (dequeueMat_memOk hs))
    · split
      · split
        · exact matDone_memOk (sampleEngine_memOk (drainWrite_memOk (sameMem_memOk (dequeueMat_memOk hs))))
        · exact matDone_memOk (setSlot_memOk (sampleEngine_memOk (drainWrite_memOk (sameMem_memOk (dequeueMat_memOk hs)))))
      · exact matDone_memOk (setSlot_memOk (sameMem_memOk (dequeueMat_memOk hs)))

theorem mqStart_memOk {x : Ext} (hs : memOk s) : NextOk (mqStart x s) := memRun_memOk hs fun _ _ ht => ht

theorem execMicroStep_memOk {blk mem : Nat} (hs : memOk s) : NextOk (execMicroStep blk mem s) := by
  refine nextOk_next.mpr ?_
  dsimp only
  split
  · split
    · exact hs
    · split
      · refine afterIssue_memOk (Acc.finish_memOk (foldl_keeps Acc.s hs fun a j ha => ?_))
        split
        · exact memComplete_memOk ha
        · exact ha
      · split
        · refine foldl_fst_memOk hs fun p j hp => ?_
          grind [memOk, State.setMember_memOk]
        · exact takeTrap_memOk hs
  · exact hs

theorem mqAbort_memOk {b i : Nat} (hs : memOk s) : memOk (mqAbort s b i) := by
  unfold mqAbort
  dsimp only
  split
  · exact traceJoins_memOk (Acc.finish_memOk (Acc.retire_memOk (Acc.start_memOk hs)))
  · exact hs

theorem abortMat_memOk {c : Nat} {o : MatOp} (hs : memOk s) : memOk (abortMat s c o) := by
  unfold abortMat
  dsimp only
  refine matDone_memOk ?_
  split
  · exact sameMem_memOk (logMatx_memOk hs)
  · split
    · exact hs
    · exact setSlot_memOk hs

theorem matReset_memOk {c : Nat} (hs : memOk s) : memOk (matReset s c) := by
  unfold matReset
  dsimp only
  refine foldl_memOk (foldl_memOk hs fun _ _ => abortMat_memOk) fun t a ht => ?_
  split
  · exact foldl_memOk ht fun _ _ => mqAbort_memOk
  · exact ht

theorem handlerOnly_memOk {x : Ext} {major : Nat} {f : State → Result} (hs : memOk s) (hf : NextOk (f s)) :
    NextOk (handlerOnly x major f s) := by
  unfold handlerOnly
  grind [memOk, nextOk_next, nextOk_fault, fetchTrap_memOk]

theorem execMreset_memOk {x : Ext} (hs : memOk s) : NextOk (execMreset x s) :=
  handlerOnly_memOk hs (drainRun_memOk hs fun _ _ ht => matReset_memOk ht)

theorem execMatrixWatchdog_memOk {core : Nat} (hs : memOk s) : NextOk (execMatrixWatchdog core s) := by
  unfold execMatrixWatchdog
  refine nextOk_next.mpr ?_
  split
  · exact matReset_memOk hs
  · exact hs

/-! Trap instructions and handler-only instructions (Sys2Proof/Machine/System.lean). -/

theorem trapStep_memOk {x : Ext} {cause : Cause} {b : Nat} {a : Acc} {i : Nat} (ha : memOk a.s) : memOk (trapStep x cause b a i).s := by
  unfold trapStep
  dsimp only
  split
  · exact Acc.raise_memOk ha
  · split
    · exact Acc.retire_memOk ha
    · dsimp only
      exact Acc.retire_memOk ha

theorem execTrap_memOk {x : Ext} (hs : memOk s) : NextOk (execTrap x s) :=
  withIssue_memOk hs fun _ _ ht => Acc.finish_memOk (foldl_keeps Acc.s ht fun _ _ => trapStep_memOk)

theorem execBkpt_memOk {x : Ext} (hs : memOk s) : NextOk (execBkpt x s) :=
  withIssue_memOk hs fun _ _ ht => Acc.finish_memOk (foldl_keeps Acc.s ht fun _ _ => trapStep_memOk)

theorem execRett_memOk {x : Ext} (hs : memOk s) : NextOk (execRett x s) := by
  refine handlerOnly_memOk hs (withIssue_memOk hs fun is t ht => ?_)
  split
  · exact returnTrap_memOk ht
  · exact ht

theorem clearDieFault_memOk {d v : Nat} (hs : memOk s) : memOk (clearDieFault s d v) := hs

theorem clearCounters_memOk {d : Nat} (hs : memOk s) : memOk (clearCounters s d) := hs

theorem freezeCounters_memOk {d : Nat} {f : Bool} (hs : memOk s) : memOk (freezeCounters s d f) := hs

theorem writeCntctl_memOk {d v : Nat} (hs : memOk s) : memOk (writeCntctl s d v) := by
  unfold writeCntctl
  split
  · exact hs
  · refine freezeCounters_memOk ?_
    split
    · exact clearCounters_memOk hs
    · exact hs

theorem diePageWrite_memOk {d off v : Nat} (hs : memOk s) : memOk (diePageWrite s d off v) := by
  unfold diePageWrite
  split
  · exact writeCntctl_memOk hs
  · split
    · exact clearDieFault_memOk hs
    · exact hs

theorem privRead_memOk {b x : Nat} (hs : memOk s) : memOk (privRead s b x).1 := by
  unfold privRead
  split
  · exact hs
  · dsimp only
    split
    · exact hs
    · split
      · exact hs
      · split
        · split
          next e => exact fst_memOk e (readRange_memOk hs)
          next e => exact fst_memOk e (readRange_memOk hs)
        · split
          · exact hs
          · split
            · split <;> exact hs
            · exact hs

theorem execFrd_memOk {x : Ext} (hs : memOk s) : NextOk (execFrd x s) := by
  refine handlerOnly_memOk hs (drainRun_memOk hs fun l t ht => ?_)
  split
  next e => exact fst_memOk e (privRead_memOk ht)
  next e => exact fst_memOk e (privRead_memOk ht)

theorem execFwr_memOk {x : Ext} (hs : memOk s) : NextOk (execFwr x s) := by
  refine handlerOnly_memOk hs (drainRun_memOk hs fun l t ht => ?_)
  dsimp only
  split
  · exact ht
  · split
    · exact ht
    · split
      · exact diePageWrite_memOk ht
      · exact ht

theorem grpEdit_memOk {w : Who} {frame mod : Nat} {ks : List Nat} (hs : memOk s) : memOk (grpEdit w frame mod ks s).1 := by
  induction ks generalizing s with
  | nil => exact hs
  | cons k ks ih =>
    unfold grpEdit
    grind [! ← readRange_memOk, ! ← writeRange_memOk]

theorem execGrpctl_memOk {x : Ext} (hs : memOk s) : NextOk (execGrpctl x s) := by
  refine handlerOnly_memOk hs (drainRun_memOk hs fun l t ht => ?_)
  split
  · exact ht
  · split
    · exact ht
    · dsimp only
      split
      next e => exact fst_memOk e (grpEdit_memOk ht)
      next e => exact fst_memOk e (grpEdit_memOk ht)

theorem tlbInvalidate_memOk {region : Nat} {range : Option (Nat × Nat)} (hs : memOk s) : memOk (tlbInvalidate s region range) := by
  unfold tlbInvalidate
  dsimp only
  split <;> exact hs

theorem execTlbi_memOk {x : Ext} (hs : memOk s) : NextOk (execTlbi x s) :=
  handlerOnly_memOk hs (drainRun_memOk hs fun _ _ ht => tlbInvalidate_memOk ht)

theorem execHandlerLimit_memOk {blk : Nat} (hs : memOk s) : NextOk (execHandlerLimit blk s) := by
  unfold execHandlerLimit
  refine nextOk_next.mpr ?_
  split
  · dsimp only
    split
    · exact hs
    · refine frameFreed_memOk (freeFrame_memOk ?_)
      split
      · exact faultGrid_memOk hs
      · exact discardBlock_memOk hs
  · exact hs

/-! The scheduler (Sys2Proof/Machine/Sched.lean). -/

theorem tickDie_memOk {d n : Nat} (hs : memOk s) : memOk (tickDie s d n) := by
  unfold tickDie
  dsimp only
  split <;> exact hs

theorem takePending_memOk {c q : Nat} (hs : memOk s) : memOk (takePending c q s) := by
  unfold takePending
  dsimp only
  split
  · exact hs
  · refine foldl_memOk (foldl_memOk hs fun t a ht => ?_) fun _ _ => traceJoins_memOk
    split
    · exact enterTable_memOk ht
    · exact ht

theorem retryFrames_memOk (hs : memOk s) : memOk (retryFrames s) := by
  unfold retryFrames
  split
  · exact frameFreed_memOk hs
  · split
    · exact frameFreed_memOk hs
    · exact hs

theorem releaseHeld_memOk {b : Nat} (hs : memOk s) : memOk (releaseHeld s b) := by
  unfold releaseHeld
  dsimp only
  split <;> exact hs

theorem tickAll_memOk {d n : Nat} (hs : memOk s) : memOk (tickAll s d n) := by
  unfold tickAll
  split
  · exact hs
  · exact sameMem_memOk (sameMem_memOk (tickDie_memOk hs))

theorem elapse_memOk {die least : Nat} (hs : memOk s) : memOk (elapse s die least) := by
  unfold elapse
  split
  next e => exact sameMem_memOk (sameMem_memOk (sameMem_memOk (foldl_memOk (snd_memOk e (State.free_memOk hs)) fun _ _ => tickAll_memOk)))

theorem raiseHeld_memOk {b i : Nat} (hs : memOk s) : memOk (raiseHeld s b i) := by
  unfold raiseHeld
  dsimp only
  split
  · exact hs
  · exact takeTrap_memOk hs

theorem openCycle_memOk {core quarter : Nat} (hs : memOk s) : memOk (openCycle s core quarter) :=
  sameMem_memOk (foldl_memOk (takePending_memOk hs) fun _ _ ht => fetchLine_memOk (releaseHeld_memOk ht))

theorem issueEntry_memOk {core quarter : Nat} {e : Entry} {ready : List Nat} (hs : memOk s) : memOk (issueEntry s core quarter e ready) :=
  by
  unfold issueEntry
  dsimp only
  split
  · exact raiseHeld_memOk hs
  · split
    · exact nextCourse_memOk hs
    · exact hs

theorem execIssueCycle_memOk {core quarter : Nat} (hs : memOk s) : NextOk (execIssueCycle core quarter s) := by
  unfold execIssueCycle
  refine nextOk_next.mpr ?_
  dsimp only
  split
  · exact retryFrames_memOk (elapse_memOk hs)
  · split
    · exact openCycle_memOk (retryFrames_memOk (elapse_memOk hs))
    · exact issueEntry_memOk (openCycle_memOk (retryFrames_memOk (elapse_memOk hs)))

theorem execEntryIdleTimeout_memOk {core quarter entry : Nat} (hs : memOk s) : NextOk (execEntryIdleTimeout core quarter entry s) := by
  unfold execEntryIdleTimeout
  refine nextOk_next.mpr ?_
  dsimp only
  split
  · split <;> exact hs
  · exact hs

theorem execVariableLatencyComplete_memOk {blk mem sib reg : Nat} (hs : memOk s) : NextOk
    (execVariableLatencyComplete blk mem sib reg s) := by
  unfold execVariableLatencyComplete
  refine nextOk_next.mpr ?_
  dsimp only
  split <;> exact hs

theorem execIcacheFill_memOk {blk va : Nat} (hs : memOk s) : NextOk (execIcacheFill blk va s) := by
  unfold execIcacheFill
  refine nextOk_next.mpr ?_
  dsimp only
  split
  · exact sameMem_memOk (fillLine_memOk hs)
  · exact hs

theorem updateSlice_memOk {r : Nat} (hs : memOk s) : memOk (updateSlice s r) := by
  unfold updateSlice
  dsimp only
  split
  · exact orStatus_memOk (devField_memOk hs)
  · exact hs

theorem execSliceEnd_memOk {blk : Nat} (hs : memOk s) : NextOk (execSliceEnd blk s) := by
  unfold execSliceEnd
  refine nextOk_next.mpr ?_
  dsimp only
  split <;> exact hs

theorem saveOne_memOk {b : Nat} {forced : Bool} (hs : memOk s) : ∀ t ∈ saveOne s b forced, memOk t := by
  unfold saveOne
  grind [stopBlock_memOk, chargeCore_memOk, ! ← allocArea_memOk, ! ← writeRange_memOk, State.setBlock_memOk]

theorem saveAll_memOk {forced : Bool} {bs : List Nat} (hs : memOk s) : ∀ t ∈ saveAll s forced bs, memOk t := by
  induction bs generalizing s with
  | nil => exact fun t ht => Option.some.inj ht ▸ hs
  | cons b bs ih =>
    intro t ht
    obtain ⟨u, hu, ht⟩ := Option.bind_eq_some_iff.mp ht
    exact ih (saveOne_memOk hs u hu) t ht

theorem execBlockEvict_memOk {blk : Nat} (hs : memOk s) : NextOk (execBlockEvict blk s) := by
  have saved : ∀ {bs : List Nat}, memOk ((saveAll { s with reqs := [] } false bs).getD s) := getD_memOk hs (saveAll_memOk hs)
  refine nextOk_next.mpr ?_
  grind [memOk]

theorem stopForSave_memOk {b : Nat} (hs : memOk s) : memOk (stopForSave s b) := by
  unfold stopForSave
  split
  · exact sameMem_memOk (stopBlock_memOk hs)
  · exact hs

theorem runOn_memOk {b : Nat} (hs : memOk s) : memOk (runOn s b) := by
  unfold runOn
  split
  · exact resumeBlock_memOk hs
  · exact hs

theorem forceSave_memOk {bs : List Nat} (hs : memOk s) : memOk (forceSave s bs) := by
  unfold forceSave
  split
  · split
    next e => exact saveAll_memOk hs _ e
    · exact foldl_memOk hs fun _ _ => runOn_memOk
  · exact foldl_memOk hs fun _ _ => stopForSave_memOk

theorem execGraceExpiry_memOk {blk : Nat} (hs : memOk s) : NextOk (execGraceExpiry blk s) := by
  have saved : ∀ {bs : List Nat}, memOk ((saveAll { s with reqs := [] } false bs).getD s) := getD_memOk hs (saveAll_memOk hs)
  refine nextOk_next.mpr ?_
  grind [memOk, forceSave_memOk]

theorem loseBlock_memOk {b area : Nat} (hs : memOk s) : memOk (loseBlock s b area) := by
  unfold loseBlock
  dsimp only
  split
  · exact orStatus_memOk (endGrid_memOk (sameMem_memOk (devField_memOk (devField_memOk (devField_memOk hs)))))
  · exact sameMem_memOk (devField_memOk (devField_memOk (devField_memOk hs)))

theorem putBack_memOk {b core spad o area : Nat} {bytes : List Byte} {late : List Arrival} (hs : memOk s) : memOk
    (putBack s b core spad o area bytes late) := by
  unfold putBack
  extract_lets B paid s1 C1 s2 C2 s3 tags s4 s5 s6
  have h1 : memOk s1 := prepay_memOk (takeTurn_memOk hs)
  have h2 : memOk s2 := ite_memOk h1 (sameMem_memOk h1)
  have h3 : memOk s3 := ite_memOk h2 (sameMem_memOk h2)
  have h4 : memOk s4 := sameMem_memOk (flushL1_memOk h3)
  have h5 : memOk s5 := reload_memOk h4
  have h6 : memOk s6 := sameMem_memOk h5
  split
  next e =>
    have h7 := snd_memOk e (State.free_memOk (freeArea_memOk h6))
    exact ite_memOk (sameMem_memOk (updateSlice_memOk (sameMem_memOk h7))) (resumeBlock_memOk (updateSlice_memOk (sameMem_memOk h7)))

theorem restoreAt_memOk {b core spad o area : Nat} (hs : memOk s) : memOk (restoreAt s b core spad o area) := by
  unfold restoreAt
  dsimp only
  split
  next e => exact loseBlock_memOk (fst_memOk e (readRange_memOk hs))
  next e =>
    have h1 := fst_memOk e (readRange_memOk hs)
    split
    · exact loseBlock_memOk h1
    · split
      · exact loseBlock_memOk h1
      · exact putBack_memOk h1

theorem planStep_memOk {g : Nat} {acc : Option State} {p : Planned} (hacc : ∀ t ∈ acc, memOk t) :
    ∀ t ∈ planStep g acc p, memOk t := by
  intro t ht
  obtain ⟨u, hu, ht⟩ := Option.bind_eq_some_iff.mp ht
  have := hacc u hu
  grind [createBlock_memOk, restoreAt_memOk]

theorem gangPlace_memOk {g : Nat} {p : Planned} (hs : memOk s) : memOk (gangPlace s g p) := by
  unfold gangPlace
  extract_lets plan G t
  split
  · split
    next e =>
      have planned : ∀ u ∈ plan.foldl (planStep g) (some t), memOk u :=
        List.foldlRecOn (motive := fun o => ∀ u ∈ o, memOk u) _ _ (fun u hu => Option.some.inj hu ▸ sameMem_memOk hs)
          fun _ ho _ _ => planStep_memOk ho
      exact gangStart_memOk (planned _ e)
    · exact sameMem_memOk hs
  · split
    · exact hs
    · exact sameMem_memOk hs

theorem execBlockCreate_memOk {grid stage core spad : Nat} {places : List Place} (hs : memOk s) : NextOk
    (execBlockCreate grid stage core spad places s) := by
  unfold execBlockCreate
  refine nextOk_next.mpr ?_
  dsimp only
  split
  · exact hs
  · split
    · exact gangPlace_memOk hs
    · split
      · exact createBlock_memOk hs
      · exact seatBlock_memOk (createBlock_memOk hs)

theorem restoreTo_memOk {b core spad : Nat} {places : List Place} {o area : Nat} (hs : memOk s) : memOk
    (restoreTo s b core spad places o area) := by
  unfold restoreTo
  split
  · exact gangPlace_memOk hs
  · exact restoreAt_memOk hs

theorem execBlockRestore_memOk {blk core spad : Nat} {places : List Place} (hs : memOk s) : NextOk
    (execBlockRestore blk core spad places s) := by
  unfold execBlockRestore
  refine nextOk_next.mpr ?_
  split
  · split
    · exact restoreTo_memOk hs
    · exact hs
  · exact hs

theorem execStreamerMove_memOk {blk core spad : Nat} {places : List Place} (hs : memOk s) : NextOk
    (execStreamerMove blk core spad places s) := by
  unfold execStreamerMove
  refine nextOk_next.mpr ?_
  split
  · dsimp only
    split
    · exact restoreTo_memOk hs
    · exact hs
  · exact hs

theorem execForwardingEntryExpiry_memOk {core entry : Nat} (hs : memOk s) : NextOk (execForwardingEntryExpiry core entry s) := by
  unfold execForwardingEntryExpiry
  refine nextOk_next.mpr ?_
  dsimp only
  split
  · split <;> exact hs
  · exact hs

theorem execFrequencyStepChange_memOk {die step : Nat} (hs : memOk s) : NextOk (execFrequencyStepChange die step s) := by
  unfold execFrequencyStepChange
  refine nextOk_next.mpr ?_
  dsimp only
  split <;> exact hs

theorem execRelockDone_memOk {die : Nat} (hs : memOk s) : NextOk (execRelockDone die s) := by
  unfold execRelockDone
  refine nextOk_next.mpr ?_
  dsimp only
  split
  · split <;> exact hs
  · exact hs

theorem execPowerStateEnter_memOk {part : Part} {state : Nat} (hs : memOk s) : NextOk (execPowerStateEnter part state s) := by
  unfold execPowerStateEnter
  refine nextOk_next.mpr ?_
  dsimp only
  split <;> split <;> exact hs

theorem execPowerStateExit_memOk {part : Part} (hs : memOk s) : NextOk (execPowerStateExit part s) := by
  unfold execPowerStateExit
  refine nextOk_next.mpr ?_
  split <;> split <;> exact hs

/-! Stop requests (Sys2Proof/Machine/Stop.lean). -/

theorem debugBytes_memOk {r off n value : Nat} (hs : memOk s) : memOk (debugBytes s r off n value) := by
  unfold debugBytes
  split
  · exact Memory.wf_write _ _ _ hs
  · exact hs

theorem reexecute_memOk {B : Block} {c : Course} {q : StopReq} {snap log : List Byte} (hs : memOk s) : memOk
    (reexecute s B c q snap log).1 := by
  unfold reexecute
  split
  · exact hs
  · split
    next e => exact sameMem_memOk (snd_memOk e (State.free_memOk hs))

theorem stopStatus_memOk {r v : Nat} (hs : memOk s) : memOk (stopStatus s r v) := debugBytes_memOk (debugBytes_memOk hs)

theorem holdBlock_memOk {b : Nat} (hs : memOk s) : memOk (holdBlock s b) := by
  unfold holdBlock
  split
  · exact sameMem_memOk (leaveTables_memOk hs)
  · exact hs
  · exact hs
  · exact hs

theorem wakeReplies_memOk {b : Nat} (hs : memOk s) : memOk (wakeReplies s b) := by
  unfold wakeReplies
  dsimp only
  refine foldl_memOk hs fun t a ht => ?_
  split
  · split
    · exact wakeGroup_memOk ht
    · exact ht
  · exact ht

theorem unholdBlock_memOk {b : Nat} (hs : memOk s) : memOk (unholdBlock s b) := by
  unfold unholdBlock
  dsimp only
  split
  · exact wakeReplies_memOk (seatBlock_memOk hs)
  · exact hs
  · exact hs
  · exact resumeBlock_memOk hs
  · exact hs

theorem endStop_memOk {region : Nat} (hs : memOk s) : memOk (endStop s region) := by
  unfold endStop
  dsimp only
  split
  · exact unholdBlock_memOk hs
  · exact hs

theorem refuseStop_memOk {region : Nat} (hs : memOk s) : memOk (refuseStop s region) := stopStatus_memOk (endStop_memOk hs)

theorem runStop_memOk {region b n : Nat} {q : StopReq} {c : Course} (hs : memOk s) : memOk (runStop s region b n q c) := by
  unfold runStop
  dsimp only
  split
  next e => exact refuseStop_memOk (fst_memOk e (readRange_memOk hs))
  next e =>
    have h1 := fst_memOk e (readRange_memOk hs)
    split
    next e' => exact refuseStop_memOk (fst_memOk e' (readRange_memOk h1))
    next e' =>
      have h2 := fst_memOk e' (readRange_memOk h1)
      split
      next e'' => exact refuseStop_memOk (fst_memOk e'' (readRange_memOk h2))
      next e'' =>
        have h3 := fst_memOk e'' (readRange_memOk h2)
        split
        · exact stopStatus_memOk (reexecute_memOk h3)
        · split
          next e''' => exact refuseStop_memOk (fst_memOk e''' (writeRange_memOk (reexecute_memOk h3)))
          next e''' => exact stopStatus_memOk (debugBytes_memOk (sameMem_memOk (sameMem_memOk (fst_memOk e''' (writeRange_memOk
            (reexecute_memOk h3))))))

theorem stopHold_memOk {region b : Nat} (hs : memOk s) : memOk (stopHold s region b) := by
  unfold stopHold
  split
  · exact sameMem_memOk (writeLog_memOk (holdBlock_memOk hs))
  · exact sameMem_memOk (writeLog_memOk (holdBlock_memOk hs))
  · exact sameMem_memOk (writeLog_memOk (holdBlock_memOk hs))
  · exact hs

theorem stopOnce_memOk {region : Nat} {q : StopReq} (hs : memOk s) : memOk (stopOnce s region q) := by
  unfold stopOnce
  grind [memOk, refuseStop_memOk, stopHold_memOk, runStop_memOk]

theorem execStopRequest_memOk {region : Nat} (hs : memOk s) : NextOk (execStopRequest region s) := by
  unfold execStopRequest
  refine nextOk_next.mpr ?_
  split
  · exact hs
  · split
    · exact hs
    · exact stopOnce_memOk hs

theorem startStop_memOk {region : Nat} (hs : memOk s) : memOk (startStop s region) := by
  unfold startStop
  split
  · exact hs
  · exact stopOnce_memOk (stopStatus_memOk hs)

theorem execStopRelease_memOk {region : Nat} (hs : memOk s) : NextOk (execStopRelease region s) := by
  unfold execStopRelease
  refine nextOk_next.mpr ?_
  dsimp only
  split
  · exact hs
  · split
    · exact frameFreed_memOk (freeFrame_memOk (stopStatus_memOk (endStop_memOk hs)))
    · exact stopStatus_memOk (endStop_memOk hs)

/-! Regions (Sys2Proof/Machine/Regions.lean). -/

theorem clearDevice_memOk {r : Nat} (hs : memOk s) : memOk (clearDevice s r) := foldl_write_wf hs

theorem clearRootSet_memOk (hs : memOk s) : memOk (clearRootSet s) := hs

theorem updateSlices_memOk {r : Nat} (hs : memOk s) : memOk (updateSlices s r) := by
  unfold updateSlices
  refine foldl_memOk hs fun t a ht => ?_
  split
  · exact updateSlice_memOk ht
  · exact ht

theorem registerRegion_memOk {pa id : Nat} (hs : memOk s) : memOk (registerRegion s pa id).1 := by
  unfold registerRegion
  dsimp only
  split
  · exact hs
  · split
    · exact hs
    · split
      · exact hs
      · exact updateSlice_memOk (sameMem_memOk (clearRootSet_memOk (clearDevice_memOk (State.free_memOk hs))))

theorem updateRegion_memOk {pa id : Nat} (hs : memOk s) : memOk (updateRegion s pa id).1 := by
  unfold updateRegion
  dsimp only
  split
  · exact hs
  · split
    · exact hs
    · exact updateSlices_memOk (clearRootSet_memOk hs)

theorem dropOps_memOk {g : Nat} (hs : memOk s) : memOk (dropOps s g) := hs

theorem abortGrid_memOk {g : Nat} (hs : memOk s) : memOk (abortGrid s g) := by
  unfold abortGrid
  split
  · exact hs
  · exact completeGrid_memOk (sameMem_memOk (endGrid_memOk (dropOps_memOk hs)))

theorem emptySlots_memOk {hit : Nat → Bool} (hs : memOk s) : memOk (emptySlots s hit) := hs

theorem dropHandles_memOk {r : Nat} (hs : memOk s) : memOk (dropHandles s r) := by
  unfold dropHandles
  refine foldl_memOk hs fun _ _ ht => foldl_memOk ht fun t' a' ht' => ?_
  dsimp only
  split
  · exact tellCallee_memOk (State.setHandle_memOk ht')
  · exact ht'

theorem closeRegion_memOk {r : Nat} (hs : memOk s) : memOk (closeRegion s r) := by
  unfold closeRegion
  dsimp only
  refine orStatus_memOk (sameMem_memOk (sameMem_memOk (sameMem_memOk (dropHandles_memOk (foldl_memOk hs fun t a ht => ?_)))))
  split
  · exact discardBlock_memOk ht
  · exact ht

theorem endRegion_memOk {r : Nat} (hs : memOk s) : memOk (endRegion s r) := by
  unfold endRegion
  dsimp only
  refine foldl_memOk (emptySlots_memOk (foldl_memOk hs fun t a ht => ?_)) fun _ _ => closeRegion_memOk
  split
  · exact abortGrid_memOk ht
  · exact ht

theorem dropCourses_memOk {r : Nat} (hs : memOk s) : memOk (dropCourses s r) := hs

theorem clearDebug_memOk {id : Nat} (hs : memOk s) : memOk (clearDebug s id) := by
  unfold clearDebug
  dsimp only
  refine sameMem_memOk (dropCourses_memOk ?_)
  split
  · exact frameFreed_memOk (freeFrame_memOk (endStop_memOk hs))
  · exact endStop_memOk hs

theorem registerDebug_memOk {pa id : Nat} (hs : memOk s) : memOk (registerDebug s pa id).1 := by
  unfold registerDebug
  extract_lets D
  split
  · exact hs
  · split
    · exact hs
    · exact foldl_write_wf (clearDebug_memOk hs)

theorem updateDebug_memOk {pa id : Nat} (hs : memOk s) : memOk (updateDebug s pa id).1 := by
  unfold updateDebug
  dsimp only
  split
  · exact hs
  · split
    · exact hs
    · split
      · exact startStop_memOk hs
      · exact sameMem_memOk (dropCourses_memOk hs)

theorem removeDebug_memOk {id : Nat} (hs : memOk s) : memOk (removeDebug s id).1 := by
  unfold removeDebug
  split
  · exact hs
  · exact sameMem_memOk (sameMem_memOk (clearDebug_memOk hs))

theorem setArena_memOk {pa id : Nat} (hs : memOk s) : memOk (setArena s pa id).1 := by
  unfold setArena
  dsimp only
  split
  · exact hs
  · split
    · exact hs
    · split <;> exact hs

theorem regCommand_memOk {op pa : Nat} (hs : memOk s) : memOk (regCommand s op pa) := by
  unfold regCommand
  dsimp only
  refine sameMem_memOk ?_
  split
  · exact registerRegion_memOk hs
  · exact updateRegion_memOk hs
  · split
    · exact endRegion_memOk hs
    · exact hs
  · exact registerDebug_memOk hs
  · exact updateDebug_memOk hs
  · exact removeDebug_memOk hs
  · exact setArena_memOk hs
  · exact hs

theorem hostLaunch_memOk {value : Nat} (hs : memOk s) : memOk (hostLaunch s value) := by
  unfold hostLaunch
  dsimp only
  exact sameMem_memOk (launch_memOk hs)

/-! Fences (Sys2Proof/Machine/Fence.lean). -/

theorem fenceStatus_memOk {v : W64} {st : Nat} (hs : memOk s) : memOk (fenceStatus s v st) := hs

theorem fenceFault_memOk {g : Nat} (hs : memOk s) : memOk (fenceFault s g) := orStatus_memOk (endGrid_memOk hs)

theorem fenceSave_memOk {row : Bool} {b : Nat} (hs : memOk s) : memOk (fenceSave row s b) := by
  unfold fenceSave
  split
  · exact hs
  · dsimp only
    split
    · exact hs
    · split
      · exact foldl_memOk hs fun _ _ => stopForSave_memOk
      · split
        next e => exact saveAll_memOk hs _ e
        · split
          · exact foldl_memOk hs fun _ _ => runOn_memOk
          · exact fenceFault_memOk hs

theorem fenceCores_memOk {row : Bool} {cs : List Nat} (hs : memOk s) : memOk (fenceCores s row cs) :=
  foldl_memOk hs fun _ _ ht => foldl_memOk ht fun _ _ => fenceSave_memOk

theorem gangRooms_memOk (hs : memOk s) : memOk (gangRooms s) := by
  unfold gangRooms
  refine foldl_memOk hs fun t a ht => ?_
  dsimp only
  split
  · split
    · exact fenceFault_memOk ht
    · exact ht
  · split
    · exact fenceFault_memOk ht
    · exact ht

theorem fencePort_memOk {p : Nat} (hs : memOk s) : memOk (fencePort s p) := castlePort_memOk (noteRoutes_memOk hs)

theorem stopQueues_memOk {d : Nat} (hs : memOk s) : memOk (stopQueues s d) := by
  unfold stopQueues
  refine foldl_memOk hs fun t a ht => ?_
  split
  · exact queueOff_memOk ht
  · exact ht

theorem fenceOnce_memOk {q : FenceReq} (hs : memOk s) : memOk (fenceOnce s q).1 := by
  unfold fenceOnce
  split
  · dsimp only
    split
    · exact gangRooms_memOk (sameMem_memOk (fenceCores_memOk hs))
    · exact fenceCores_memOk hs
  · dsimp only
    split
    · exact gangRooms_memOk (sameMem_memOk (fenceCores_memOk hs))
    · exact fenceCores_memOk hs
  · exact fencePort_memOk hs
  · extract_lets c D marked stopped powered hit ended D' fenced
    have hstopped : memOk stopped := fenceCores_memOk (stopQueues_memOk (sameMem_memOk hs))
    have hpowered : memOk powered := gangRooms_memOk (foldl_memOk hstopped fun _ _ => sameMem_memOk)
    have hfenced : memOk fenced := sameMem_memOk (foldl_memOk hpowered fun _ _ => endRegion_memOk)
    clear_value fenced powered stopped
    split
    · exact hstopped
    · split
      · exact hpowered
      · dsimp only
        exact foldl_memOk hfenced fun _ _ => fencePort_memOk

theorem execFencePart_memOk {value : BitVec 64} (hs : memOk s) : NextOk (execFencePart value s) := by
  unfold execFencePart
  refine nextOk_next.mpr ?_
  dsimp only
  split
  · split
    · exact fenceStatus_memOk hs
    · exact fenceStatus_memOk (fenceOnce_memOk hs)
  · split
    · exact fenceStatus_memOk hs
    · exact fenceStatus_memOk (fenceOnce_memOk hs)

theorem returnOnce_memOk {q : FenceReq} (hs : memOk s) : memOk (returnOnce s q) := by
  unfold returnOnce
  dsimp only
  split
  · exact hs
  · exact hs
  · exact hs
  · split
    · refine foldl_memOk (sameMem_memOk (foldl_memOk hs fun t a ht => ?_)) fun _ _ => sameMem_memOk
      split <;> exact ht
    · refine sameMem_memOk (foldl_memOk hs fun t a ht => ?_)
      split <;> exact ht

theorem execReturnPart_memOk {value : BitVec 64} {selfTest : Bool} (hs : memOk s) : NextOk (execReturnPart value selfTest s) := by
  unfold execReturnPart
  refine nextOk_next.mpr ?_
  dsimp only
  split
  · exact hs
  · split
    · exact fenceStatus_memOk hs
    · exact fenceStatus_memOk (returnOnce_memOk hs)

/-! The host window (Sys2Proof/Machine/Window.lean). -/

theorem writeDevid_memOk {v : Nat} (hs : memOk s) : memOk (writeDevid s v) := by
  unfold writeDevid
  dsimp only
  split
  · exact hs
  · refine sameMem_memOk (loseColls_memOk (foldl_memOk hs fun t a ht => ?_))
    split
    · exact ht
    · exact loseStream_memOk ht

theorem writeTlbicmd_memOk {d : Nat} {v : W64} (hs : memOk s) : memOk (writeTlbicmd s d v) := by
  unfold writeTlbicmd
  dsimp only
  split
  · exact tlbInvalidate_memOk hs
  · exact hs

theorem execHostTlbInvalidate_memOk {die : Nat} {value : BitVec 64} (hs : memOk s) : NextOk (execHostTlbInvalidate die value s) := by
  unfold execHostTlbInvalidate
  refine nextOk_next.mpr ?_
  split
  · exact writeTlbicmd_memOk hs
  · exact hs

theorem execCounterClear_memOk {die : Nat} (hs : memOk s) : NextOk (execCounterClear die s) := by
  unfold execCounterClear
  refine nextOk_next.mpr ?_
  split
  · exact clearCounters_memOk hs
  · exact hs

theorem execCounterFreeze_memOk {die : Nat} {freeze : Bool} (hs : memOk s) : NextOk (execCounterFreeze die freeze s) := by
  unfold execCounterFreeze
  refine nextOk_next.mpr ?_
  split
  · exact freezeCounters_memOk hs
  · exact hs

theorem writeHovf_memOk {d : Nat} {count : Bool} {v : Nat} (hs : memOk s) : memOk (writeHovf s d count v) := by
  unfold writeHovf
  dsimp only
  split
  · exact hs
  · split
    · split <;> exact hs
    · exact hs

theorem execHandleOverflowConfig_memOk {die : Nat} {count : Bool} {value : BitVec 64} (hs : memOk s) : NextOk
    (execHandleOverflowConfig die count value s) := by
  unfold execHandleOverflowConfig
  refine nextOk_next.mpr ?_
  split
  · exact writeHovf_memOk hs
  · exact hs

theorem writeRoute_memOk {m v : Nat} (hs : memOk s) : memOk (writeRoute s m v) := by
  unfold writeRoute
  split
  · exact noteRoutes_memOk hs
  · exact hs

theorem execDiefaultClear_memOk {die : Nat} {value : BitVec 64} (hs : memOk s) : NextOk (execDiefaultClear die value s) := by
  unfold execDiefaultClear
  refine nextOk_next.mpr ?_
  split
  · exact clearDieFault_memOk hs
  · exact hs

theorem writeFencectl_memOk {v : W64} (hs : memOk s) : memOk (writeFencectl s v) := by
  unfold writeFencectl
  split
  · exact hs
  · extract_lets r
    have answer : NextOk r := by
      unfold r
      split
      · exact nextOk_next.mpr (fenceStatus_memOk hs)
      · split
        · exact execReturnPart_memOk hs
        · exact execFencePart_memOk hs
    clear_value r
    cases r with
    | next t => exact nextOk_next.mp answer
    | _ => exact hs

theorem writeWindow_memOk {off : Nat} {v : W64} (hs : memOk s) : memOk (writeWindow s off v) := by
  unfold writeWindow
  dsimp only
  split
  · split
    · exact diePageWrite_memOk hs
    · split
      · exact hs
      · split
        · exact writeTlbicmd_memOk hs
        · split
          · exact writeHovf_memOk hs
          · split
            · exact writeQtab_memOk hs
            · exact hs
  · split
    · exact writeDevid_memOk hs
    · split
      · exact hs
      · split
        · exact writeFencectl_memOk hs
        · split
          · exact hostLaunch_memOk hs
          · split
            · exact hs
            · split
              · split
                · exact regCommand_memOk hs
                · exact hs
              · split
                · exact writeRoute_memOk hs
                · exact hs

theorem answered_memOk {unsupported : Bool} (hs : memOk s) : memOk (answered s unsupported) := hs

theorem execRegisterWrite_memOk {offset : Nat} {value : BitVec 64} (hs : memOk s) : NextOk (execRegisterWrite offset value s) := by
  unfold execRegisterWrite
  refine nextOk_next.mpr ?_
  split
  · exact answered_memOk hs
  · refine writeWindow_memOk (answered_memOk ?_)
    split
    · exact wakeDie_memOk hs
    · exact wakePackage_memOk hs

theorem execLinkRetrain_memOk {port : Nat} (hs : memOk s) : NextOk (execLinkRetrain port s) := by
  unfold execLinkRetrain
  refine nextOk_next.mpr ?_
  split <;> exact hs

theorem execSwitchFailure_memOk {ports : List Nat} (hs : memOk s) : NextOk (execSwitchFailure ports s) :=
  nextOk_next.mpr (foldl_memOk hs fun _ _ => failPort_memOk)

theorem execAccessTableUpdate_memOk {target entry : Nat} {value : BitVec 128} (hs : memOk s) : NextOk
    (execAccessTableUpdate target entry value s) := by
  unfold execAccessTableUpdate
  refine nextOk_next.mpr ?_
  split <;> exact hs

theorem hostPiece_memOk {pa n : Nat} {write : Option (List Byte)} (hs : memOk s) : memOk (hostPiece s pa n write).1 := by
  unfold hostPiece
  split
  · split
    · exact Memory.wf_write _ _ _ hs
    · exact hs
  · split
    · exact hs
    · split
      next e => exact fst_memOk e (checkTarget_memOk hs)
      · dsimp only
        split
        next e' => exact countReq_memOk (Memory.wf_write _ _ _ (fst_memOk e' (checkTarget_memOk hs)))
        next e' => exact countReq_memOk (fst_memOk e' (checkTarget_memOk hs))

theorem execHostMemoryAccess_memOk {pa n : Nat} {write : Option (List (BitVec 8))} (hs : memOk s) : NextOk
    (execHostMemoryAccess pa n write s) := by
  unfold execHostMemoryAccess
  refine nextOk_next.mpr ?_
  dsimp only
  split
  · exact foldl_fst_memOk hs fun _ _ => hostPiece_memOk
  · exact sameMem_memOk (foldl_fst_memOk hs fun _ _ => hostPiece_memOk)

/-! Starts (Sys2Proof/Machine/Start.lean). -/

theorem restarted_memOk {warm : Bool} (hs : memOk s) : memOk (restarted s warm) := Memory.wf_filter _ _ hs

theorem mailbox_memOk {state step : Nat} (hs : memOk s) : memOk (mailbox s state step) := hs

theorem finishStart_memOk {warm : Bool} {image : List Byte} {fail : Option Nat} (hs : memOk s) :
    memOk (finishStart s warm image fail) := by
  have kept : Memory.wf (keptMemory warm s.mem) = true := Memory.wf_filter _ _ hs
  unfold finishStart
  split
  · exact hs
  · split <;> exact kept

theorem start_memOk {warm : Bool} {env : StartEnv} (hs : memOk s) : memOk (start s warm env) := by
  unfold start
  dsimp only
  split
  · split
    · exact mailbox_memOk (restarted_memOk hs)
    · split
      · exact mailbox_memOk (restarted_memOk hs)
      · exact finishStart_memOk (restarted_memOk hs)
  · split
    · exact finishStart_memOk (restarted_memOk hs)
    · exact mailbox_memOk (restarted_memOk hs)

theorem execRecoveryImage_memOk {image : List (BitVec 8)} (hs : memOk s) : NextOk (execRecoveryImage image s) := by
  unfold execRecoveryImage
  refine nextOk_next.mpr ?_
  split
  · exact finishStart_memOk hs
  · exact hs

theorem execAttestationReport_memOk {nonce : List (BitVec 8)} (hs : memOk s) : NextOk (execAttestationReport nonce s) := by
  unfold execAttestationReport
  refine nextOk_next.mpr ?_
  split <;> exact hs

/-! Steps (Sys2Proof/Machine/Dispatch.lean, Sys2Proof/Machine/Step.lean). -/

/-- What any instruction word or event leaves; the lane instructions come first. -/
theorem exec_memOk {i : Instr} (hs : memOk s) : NextOk (exec i s) := by
  cases i with
  | iadd _ | iaddBase _ | isub _ | isubBase _ | imul _ | imulBase _ | imulh _ | imad _ | imadBase _ | idiv _ | idivBase _ | irem _
  | imin _ | iminBase _ | imax _ | iabs _ | iabsBase _ | ineg _ | andL _ | andBase _ | orL _ | xorL _ | andn _ | notL _ | shl _
  | shlBase _ | shr _ | sar _ | rot _ | bfx _ | bfxBase _ | bfi _ | popc _ | popcBase _ | clz _ | brev _ | perm _ | permBase _ | icmp _
  | icmpBase _ | isel _ | iselBase _ | plop _ | mov _ | movBase _ | movi _ | movk _ | movs _ | getc _ | setc _ | fadd _ | faddBase _
  | fsub _ | fmul _ | fmulBase _ | ffma _ | ffmaBase _ | fmin _ | fminBase _ | fmax _ | fdiv _ | fdivBase _ | fsqrt _ | fsqrtBase _
  | fcmp _ | fcmpBase _ | fclass _ | fcvt _ | fcvti _ | icvtf _ | dig _ | digBase _ | sibg _ | dmean _ | rand _ | randBase _ | frcp _
  | frcpBase _ | frsq _ | fex2 _ | fex2Base _ | flg2 _ | fsin _ | fsinBase _ | fcos _ | bra _ | braBase _ | jmp _ | call _ | callBase _
  | ret _ | elect _ | electBase _ | vote _ | nop _ | nopBase _ | hint _ | qcvt _ | qcvtBase _ | dqcvt _ | plpack _
    => exact laneRun_memOk hs
  | exitT _ | exitBase _ => exact execExitT_memOk hs
  | yield _ | yieldBase _ => exact execYield_memOk hs
  | waitc _ => exact execWaitc_memOk hs
  | waitcWake _ _ => exact execWaitcWake_memOk hs
  | spinHintExpiry _ _ => exact execSpinHintExpiry_memOk hs
  | shape _ | shapeBase _ => exact execShape_memOk hs
  | shget _ => exact execShget_memOk hs
  | matx _ | matxBase _ => exact execMatx_memOk hs
  | matxComplete _ _ => exact execMatxComplete_memOk hs
  | mstat _ => exact execMstat_memOk hs
  | mreset _ => exact execMreset_memOk hs
  | matrixWatchdog _ => exact execMatrixWatchdog_memOk hs
  | cfzero _ | cfzeroBase _ => exact execCfzero_memOk hs
  | cfzeroComplete _ _ => exact execCfzeroComplete_memOk hs
  | cfread _ => exact execCfread_memOk hs
  | fold _ => exact execFold_memOk hs
  | foldComplete _ _ => exact execFoldComplete_memOk hs
  | foldTimeout _ _ => exact execFoldTimeout_memOk hs
  | drain _ => exact execDrain_memOk hs
  | drainComplete _ _ => exact execDrainComplete_memOk hs
  | mq16 _ | mq16Base _ | mq32 _ => exact mqStart_memOk hs
  | microStep _ _ => exact execMicroStep_memOk hs
  | selk _ | selkBase _ | smax _ | samp _ | redb _ => exact selRun_memOk hs
  | selectionComplete _ => exact execSelectionComplete_memOk hs
  | ld _ | ldBase _ => exact execLd_memOk hs
  | st _ => exact execSt_memOk hs
  | ldbuf _ => exact execLdbuf_memOk hs
  | prf _ => exact execPrf_memOk hs
  | ldl _ | ldlBase _ => exact execLdl_memOk hs
  | stl _ => exact execStl_memOk hs
  | lds _ | ldsBase _ => exact execLds_memOk hs
  | sts _ => exact execSts_memOk hs
  | ldx _ => exact execLdx_memOk hs
  | ldf _ | ldfBase _ => exact execLdf_memOk hs
  | ste _ => exact execSte_memOk hs
  | fullEmptyTransition _ _ => exact execFullEmptyTransition_memOk hs
  | tagset _ | tagclr _ => exact tagRun_memOk hs
  | walkBind _ | walkBindBase _ => exact execWalkBind_memOk hs
  | walkNext _ => exact execWalkNext_memOk hs
  | walkerRunAhead _ _ _ => exact execWalkerRunAhead_memOk hs
  | atom _ | atomBase _ => exact execAtom_memOk hs
  | red _ => exact execRed_memOk hs
  | fence _ => exact execFence_memOk hs
  | barArrive _ => exact execBarArrive_memOk hs
  | barWait _ => exact execBarWait_memOk hs
  | syncop _ => exact execSyncop_memOk hs
  | xcopy _ | xcopyBase _ => exact execXcopy_memOk hs
  | copyComplete _ _ => exact execCopyComplete_memOk hs
  | ownGive _ => exact execOwnGive_memOk hs
  | ownTake _ => exact execOwnTake_memOk hs
  | twaitany _ | twaitanyBase _ | twaitall _ => exact tagWait_memOk hs
  | tfirst _ => exact execTfirst_memOk hs
  | blockedThreadWake _ _ => exact execBlockedThreadWake_memOk hs
  | queueNop _ _ _ | queueCopy _ _ _ | queueQuantise _ _ _ | queueFill _ _ _ | queueSignal _ _ _ | queueBadtype _ _ _
  | queueHeaderFault _ _ _ => exact nextOk_next.mpr (serveQueue_memOk hs)
  | queueRegionEnded _ _ _ => exact execQueueRegionEnded_memOk hs
  | queueResume _ _ _ => exact execQueueResume_memOk hs
  | queueEnable _ _ _ _ => exact execQueueEnable_memOk hs
  | queueDisable _ _ _ _ => exact execQueueDisable_memOk hs
  | dlaunch _ => exact execDlaunch_memOk hs
  | enq _ | enqBase _ => exact execEnq_memOk hs
  | deq _ => exact execDeq_memOk hs
  | issueCycle core quarter => exact (execIssueCycle_memOk hs : NextOk (execIssueCycle core quarter s))
  | entryIdleTimeout _ _ _ => exact execEntryIdleTimeout_memOk hs
  | variableLatencyComplete _ _ _ _ => exact execVariableLatencyComplete_memOk hs
  | icacheFill _ _ => exact execIcacheFill_memOk hs
  | l1LineExpiry _ _ => exact nextOk_next.mpr hs
  | blockCreate _ _ _ _ _ => exact execBlockCreate_memOk hs
  | sliceEnd _ => exact execSliceEnd_memOk hs
  | blockEvict _ => exact execBlockEvict_memOk hs
  | graceExpiry _ => exact execGraceExpiry_memOk hs
  | blockRestore _ _ _ _ => exact execBlockRestore_memOk hs
  | streamerMove _ _ _ _ => exact execStreamerMove_memOk hs
  | forwardingEntryExpiry _ _ => exact execForwardingEntryExpiry_memOk hs
  | stageReview _ => exact execStageReview_memOk hs
  | pipelineQuiesce _ => exact execPipelineQuiesce_memOk hs
  | gridComplete _ => exact execGridComplete_memOk hs
  | frequencyStepChange _ _ => exact execFrequencyStepChange_memOk hs
  | relockDone _ => exact execRelockDone_memOk hs
  | powerStateEnter _ _ => exact execPowerStateEnter_memOk hs
  | powerStateExit _ => exact execPowerStateExit_memOk hs
  | rld _ | rldBase _ => exact execRld_memOk hs
  | rst _ => exact execRst_memOk hs
  | ratom _ => exact execRatom_memOk hs
  | remoteRequestReceive _ => exact execRemoteRequestReceive_memOk hs
  | remoteReplyReceive _ => exact execRemoteReplyReceive_memOk hs
  | coll _ | collBase _ => exact execColl_memOk hs
  | collComplete _ _ _ => exact execCollComplete_memOk hs
  | collTimeout _ _ => exact execCollTimeout_memOk hs
  | callr _ => exact execCallr_memOk hs
  | callh _ => exact execCallh_memOk hs
  | invokeReceive _ => exact execInvokeReceive_memOk hs
  | callhAtHome _ => exact execCallhAtHome_memOk hs
  | waith _ => exact execWaith_memOk hs
  | hstat _ => exact execHstat_memOk hs
  | drophBreak _ => exact execDrophBreak_memOk hs
  | drophRelease _ => exact execDrophRelease_memOk hs
  | flitReceive _ _ => exact execFlitReceive_memOk hs
  | ackTimer _ _ => exact execAckTimer_memOk hs
  | keepaliveAck _ => exact execKeepaliveAck_memOk hs
  | gapTimeout _ _ => exact execGapTimeout_memOk hs
  | laneLockLoss _ => exact nextOk_next.mpr (failPort_memOk hs)
  | ackProgressTimeout _ => exact execAckProgressTimeout_memOk hs
  | castling _ => exact execCastling_memOk hs
  | streamLost _ _ => exact execStreamLost_memOk hs
  | replyStreamLost _ => exact execReplyStreamLost_memOk hs
  | trap _ | trapBase _ => exact execTrap_memOk hs
  | bkpt _ => exact execBkpt_memOk hs
  | rett _ => exact execRett_memOk hs
  | frd _ => exact execFrd_memOk hs
  | fwr _ => exact execFwr_memOk hs
  | grpctl _ => exact execGrpctl_memOk hs
  | tlbi _ => exact execTlbi_memOk hs
  | handlerLimit _ => exact execHandlerLimit_memOk hs
  | courseEnd _ => exact nextOk_next.mpr (endCourse_memOk hs)
  | stopRequest _ => exact execStopRequest_memOk hs
  | stopRelease _ => exact execStopRelease_memOk hs
  | registerRegion _ | updateRegion _ | endRegion _ | registerDebugDescriptor _ | updateDebugDescriptor _ | removeDebugDescriptor _
  | setArena _ => exact nextOk_next.mpr (regCommand_memOk hs)
  | hostLaunch _ => exact nextOk_next.mpr (hostLaunch_memOk hs)
  | devidWrite _ => exact nextOk_next.mpr (writeDevid_memOk hs)
  | fencePart _ => exact execFencePart_memOk hs
  | returnPart _ _ => exact execReturnPart_memOk hs
  | hostTlbInvalidate _ _ => exact execHostTlbInvalidate_memOk hs
  | counterClear _ => exact execCounterClear_memOk hs
  | counterFreeze _ _ => exact execCounterFreeze_memOk hs
  | handleOverflowConfig _ _ _ => exact execHandleOverflowConfig_memOk hs
  | routeTableWrite _ _ => exact nextOk_next.mpr (writeRoute_memOk hs)
  | diefaultClear _ _ => exact execDiefaultClear_memOk hs
  | registerWrite _ _ => exact execRegisterWrite_memOk hs
  | hostMemoryAccess _ _ _ => exact execHostMemoryAccess_memOk hs
  | coldStart _ | warmStart _ => exact nextOk_next.mpr (start_memOk hs)
  | recoveryImage _ => exact execRecoveryImage_memOk hs
  | attestationReport _ => exact execAttestationReport_memOk hs
  | linkRetrain _ => exact execLinkRetrain_memOk hs
  | switchFailure _ => exact execSwitchFailure_memOk hs
  | accessTableUpdate _ _ _ => exact execAccessTableUpdate_memOk hs

theorem runIssue_memOk {is : Issue} (hs : memOk s) : NextOk (runIssue is s) := by
  unfold runIssue
  split
  next e => exact nextOk_next.mpr (fetchTrap_memOk (fst_memOk e (fetchBytes_memOk hs)))
  next e =>
    have h := fst_memOk e (fetchBytes_memOk hs)
    extract_lets len
    split
    · exact nextOk_next.mpr (fetchTrap_memOk h)
    · split
      · exact nextOk_next.mpr (fetchTrap_memOk h)
      · exact exec_memOk h

theorem runEvent_memOk {i : Instr} (hs : memOk s) : NextOk (runEvent i s) := by
  unfold runEvent
  split
  · exact exec_memOk hs
  · exact nextOk_next.mpr hs

theorem step_memOk (hs : memOk s) : NextOk (step s) := by
  unfold step
  split
  · exact runIssue_memOk hs
  · split
    · exact nextOk_next.mpr (startIssue_memOk (sameMem_memOk hs))
    · exact nextOk_next.mpr (endCourse_memOk (sameMem_memOk hs))
    · exact runEvent_memOk (sameMem_memOk hs)
    · exact runEvent_memOk (sameMem_memOk hs)

end

/-- Settles O32: a step fetches and executes an issue, takes a waiting task or takes an event, and each keeps memory canonical. -/
theorem memoryStaysCanonical : Obligations.MemoryStaysCanonical := by
  unfold Obligations.MemoryStaysCanonical
  exact fun _ t hs ht => step_memOk hs t ht

end Sys2Proof.Machine
end

section
/-!
Proof of O60: the host's window and starts. Each part says once what an operation of Sys2Proof/Machine/Fence.lean, Window.lean or Start.lean
does; the theorem at the end puts the parts together.
-/
namespace Sys2Proof.Machine

/-! Bits of register values. -/

theorem bitN_eq_testBit (w i : Nat) : bitN w i = w.testBit i := by
  unfold bitN
  rw [Nat.testBit_eq_decide_div_mod_eq]
  rfl

theorem testBit_bitsAt (w lo n i : Nat) : (bitsAt w lo n).testBit i = (decide (i < n) && w.testBit (lo + i)) := by
  unfold bitsAt
  rw [Nat.testBit_mod_two_pow, Nat.testBit_div_two_pow, Nat.add_comm]

theorem bitsAt_or (a b lo n : Nat) : bitsAt (a ||| b) lo n = bitsAt a lo n ||| bitsAt b lo n := by
  refine Nat.eq_of_testBit_eq fun i => ?_
  simp only [testBit_bitsAt, Nat.testBit_or, Bool.and_or_distrib_left]

theorem bitsAt_and (a b lo n : Nat) : bitsAt (a &&& b) lo n = bitsAt a lo n &&& bitsAt b lo n := by
  refine Nat.eq_of_testBit_eq fun i => ?_
  simp only [testBit_bitsAt, Nat.testBit_and]
  cases decide (i < n) <;> simp

theorem bitN_or (a b i : Nat) : bitN (a ||| b) i = (bitN a i || bitN b i) := by
  simp only [bitN_eq_testBit, Nat.testBit_or]

/-- Subtracting the bits that a number shares with another clears them. -/
theorem testBit_sub_and (a b i : Nat) : (a - (a &&& b)).testBit i = (a.testBit i && !b.testBit i) := by
  have hhalf : (a &&& b) / 2 = a / 2 &&& b / 2 := Nat.and_div_two
  have hodd : (a &&& b) % 2 = 1 ↔ a % 2 = 1 ∧ b % 2 = 1 := Nat.and_mod_two_eq_one
  have hle : a / 2 &&& b / 2 ≤ a / 2 := Nat.and_le_left
  induction i generalizing a b with
  | zero =>
    have h : (a - (a &&& b)) % 2 = 1 ↔ a % 2 = 1 ∧ ¬ b % 2 = 1 := by omega
    simp only [Nat.testBit_zero, h, Bool.decide_and, decide_not]
  | succ i ih =>
    have h : (a - (a &&& b)) / 2 = a / 2 - (a / 2 &&& b / 2) := by omega
    rw [Nat.testBit_add_one, Nat.testBit_add_one, Nat.testBit_add_one, h]
    exact ih _ _ Nat.and_div_two Nat.and_mod_two_eq_one Nat.and_le_left

/-! What a run of steps leaves as it was, given by `μ`. -/

theorem foldl_same {α β γ : Type} (μ : β → γ) {f : β → α → β} (h : ∀ p a, μ (f p a) = μ p) (l : List α) (p : β) :
    μ (l.foldl f p) = μ p :=
  List.foldlRecOn (motive := fun q => μ q = μ p) l f rfl fun q hq a _ => (h q a).trans hq

/-! Fences of cores and array rows: what the end of another grid leaves of a core (18 R332). -/

/-- What a core's service is: whether it is fenced, its power state and its fenced array rows. -/
def State.service (s : State) (c : Nat) : Bool × Nat × List Nat := ((s.core c).fenced, (s.core c).power, (s.core c).rowsFenced)

theorem service_of_cores {s t : State} (h : t.cores = s.cores) : t.service = s.service := by
  unfold State.service State.core
  rw [h]

theorem Tables.service {s t : State} (h : Tables s t) : t.service = s.service := by
  funext c
  unfold State.service
  rw [h.core c]

theorem wakeDie_cores (s : State) (d : Nat) : (wakeDie s d).cores = s.cores := by
  have h : (wakePackage s).cores = s.cores := by
    unfold wakePackage
    split <;> rfl
  unfold wakeDie
  dsimp only
  split
  · exact h
  · exact h

theorem bump_cores (s : State) (d off : Nat) : (bump s d off).cores = s.cores := by
  unfold bump
  dsimp only
  split <;> rfl

theorem countReq_cores (s : State) (w : Who) (p : Page) (key kind : Nat) : (countReq s w p key kind).cores = s.cores := by
  unfold countReq
  dsimp only
  repeat' split
  all_goals simp only [bump_cores]

theorem checkTarget_cores (s : State) (w : Who) (place key n va : Nat) (k : AccKind) :
    (checkTarget s w place key n va k).1.cores = s.cores := by
  have h := wakeDie_cores s ((keyTarget place key).2.getD 0)
  unfold checkTarget
  dsimp only
  repeat' split
  all_goals exact h

/-- An access of no core fills no core's TLB. -/
theorem placeLeaf_cores (s : State) {w : Who} (hw : w.core = none) (e : TlbEntry) (n : Nat) : (placeLeaf s w e n).cores = s.cores := by
  unfold placeLeaf
  rw [hw]
  dsimp only
  repeat' split
  all_goals rfl

theorem translate_cores (s : State) {w : Who} (hw : w.core = none) (va n : Nat) (k : AccKind) :
    (translate s w va n k).1.cores = s.cores := by
  unfold translate
  split
  · rfl
  · dsimp only
    repeat' split
    · rfl
    · rfl
    · exact placeLeaf_cores s hw ..

/-- An access of no core changes no core. -/
theorem reach_cores (s : State) {w : Who} (hw : w.core = none) (va n : Nat) (k : AccKind) (planes : Nat) :
    (reach s w va n k planes).1.cores = s.cores := by
  have h := translate_cores s hw va n k
  unfold reach
  split
  · next e => rw [e] at h; exact h
  · next t p e =>
    rw [e] at h
    dsimp only
    refine Eq.trans ?_ h
    split
    all_goals
      refine foldl_same (μ := fun p : State × Option Flt => p.1.cores) (fun a key => ?_) _ _
      have hc := checkTarget_cores a.1 w p.place key n va k
      split
      · rfl
      · split
        · next e => rw [e] at hc; exact (countReq_cores ..).trans hc
        · next e => rw [e] at hc; exact hc

theorem storeKey_cores (s : State) {w : Who} (hw : w.core = none) (p : Page) (key : Nat) (bs : List Byte) :
    (storeKey s w p key bs).cores = s.cores := by
  unfold storeKey
  rw [hw]
  exact countReq_cores ..

theorem writeRange_cores (s : State) {w : Who} (hw : w.core = none) (va : Nat) (bs : List Byte) :
    (writeRange s w va bs).1.cores = s.cores := by
  unfold writeRange
  refine foldl_same (μ := fun p : State × Option Flt => p.1.cores) (fun a pc => ?_) _ _
  dsimp only
  split
  · rfl
  · split
    · rfl
    · have h := reach_cores a.1 hw pc.1 pc.2 .write 3
      split
      · next e => rw [e] at h; exact h
      · next e =>
        rw [e] at h
        exact (foldl_same State.cores (fun t key => storeKey_cores t hw ..) _ _).trans h

theorem writeLog_cores (s : State) (b : Nat) : (writeLog s b).cores = s.cores := by
  unfold writeLog
  dsimp only
  split
  · rfl
  · exact writeRange_cores _ rfl ..

theorem chargeCore_cores (s : State) (b : Nat) : (chargeCore s b).cores = s.cores := by
  unfold chargeCore
  dsimp only
  split <;> rfl

theorem leaveTables_service (s : State) (b : Nat) (out : Nat → Bool) : (leaveTables s b out).service = s.service := by
  unfold leaveTables
  exact (Tables.setCore _ _ _ rfl).service

theorem freeArea_cores (s : State) (o base r : Nat) : (freeArea s o base r).cores = s.cores := by
  unfold freeArea
  dsimp only
  split <;> rfl

theorem discardBlock_service (s : State) (b : Nat) : (discardBlock s b).service = s.service := by
  have h : (leaveTables (chargeCore (writeLog s b) b) b fun _ => true).service = s.service :=
    (leaveTables_service ..).trans (service_of_cores ((chargeCore_cores ..).trans (writeLog_cores ..)))
  unfold discardBlock
  extract_lets left B unframed freed
  have hunframed : unframed.cores = left.cores := by
    dsimp only [unframed]
    split <;> rfl
  have hfreed : freed.cores = unframed.cores := by
    dsimp only [freed]
    split
    · exact freeArea_cores ..
    · rfl
  exact (service_of_cores (hfreed.trans hunframed)).trans h

theorem endGrid_service (s : State) (g status : Nat) : (endGrid s g status).service = s.service := by
  have h : ((gridBlocks s g).foldl discardBlock s).service = s.service := foldl_same State.service discardBlock_service _ _
  unfold endGrid
  dsimp only
  split <;> exact h

theorem fenceFault_service (s : State) (g : Nat) : (fenceFault s g).service = s.service := endGrid_service s g 6

theorem gangRooms_service (s : State) : (gangRooms s).service = s.service := by
  unfold gangRooms
  refine foldl_same State.service (fun t kv => ?_) _ _
  extract_lets G needs
  split
  · exact fenceFault_service ..
  · rfl

/-- A core's service stays what it was set to before the GANG grids without room end. -/
theorem gangRooms_setCore (s : State) (c : Nat) (C : CoreSt) : ((gangRooms (s.setCore c C)).core c).fenced = C.fenced ∧
    ((gangRooms (s.setCore c C)).core c).power = C.power ∧ ((gangRooms (s.setCore c C)).core c).rowsFenced = C.rowsFenced := by
  have h := congrFun (gangRooms_service (s.setCore c C)) c
  unfold State.service at h
  rw [State.setCore_core, if_pos rfl] at h
  simpa only [Prod.mk.injEq] using h

theorem coreBlocks_of_residents {s : State} {c : Nat} (h : residents s c = []) : coreBlocks s c = [] := by
  simp only [residents, coreBlocks, List.map_eq_nil_iff, List.filter_eq_nil_iff] at h ⊢
  intro kv hkv hb
  exact h kv hkv (Bool.and_eq_true_iff.mp hb).1

/-- A core where no block is resident has nothing to save. -/
theorem fenceCores_of_residents {s : State} {c : Nat} {row : Bool} (h : residents s c = []) :
    fenceCores s row [c] = { s with reqs := [] } := by
  have hc : coreBlocks { s with reqs := [] } c = [] := coreBlocks_of_residents h
  unfold fenceCores
  rw [List.foldl_cons, List.foldl_nil, hc, List.foldl_nil]

theorem coreEmpty_of_residents {s : State} {c : Nat} (h : residents s c = []) : coreEmpty { s with reqs := [] } c = true :=
  List.isEmpty_iff.mpr h

/-- A fence of a core where no block is resident is done at once. -/
theorem fenceOnce_core {s : State} {q : FenceReq} (hk : q.kind = 0) (h : residents s (64 * q.die + q.core) = []) :
    ((fenceOnce s q).1.core (64 * q.die + q.core)).fenced = true ∧ ((fenceOnce s q).1.core (64 * q.die + q.core)).power = 2 ∧
      (fenceOnce s q).2 = true := by
  unfold fenceOnce
  rw [hk]
  dsimp only
  generalize 64 * q.die + q.core = c at h ⊢
  have hr : residents (s.setCore c { s.core c with fenced := true }) c = [] := h
  rw [fenceCores_of_residents hr, if_pos (coreEmpty_of_residents hr)]
  obtain ⟨hfenced, hpower, -⟩ := gangRooms_setCore { s.setCore c { s.core c with fenced := true } with reqs := [] } c
    { (s.setCore c { s.core c with fenced := true }).core c with power := 2 }
  refine ⟨hfenced.trans ?_, hpower, rfl⟩
  rw [State.setCore_core, if_pos rfl]

/-- A fence of an array row on a core where no block is resident is done at once. -/
theorem fenceOnce_row {s : State} {q : FenceReq} (hk : q.kind = 1) (h : residents s (64 * q.die + q.core) = []) :
    ((fenceOnce s q).1.core (64 * q.die + q.core)).rowsFenced.contains q.row = true ∧ (fenceOnce s q).2 = true := by
  unfold fenceOnce
  simp only [hk]
  generalize 64 * q.die + q.core = c at h ⊢
  rw [fenceCores_of_residents h, if_pos (coreEmpty_of_residents h)]
  refine ⟨?_, rfl⟩
  rw [(gangRooms_setCore ..).2.2]
  split
  · assumption
  · simp

/-! Fences of ports (16 R288; 18 R332): the castling of streams leaves a port fenced. -/

/-- Whether a port is fenced. -/
def State.portFenced (s : State) (p : Nat) : Bool := (s.port p).fenced

theorem holdPort_portFenced (s : State) (p : Nat) : (holdPort s p).portFenced = s.portFenced := by
  unfold holdPort
  split
  · rfl
  · funext k
    unfold State.portFenced
    rw [State.setPort_port]
    split
    · next h => rw [h]
    · rfl

theorem transmit_portFenced (s : State) (p : Nat) (f : Flit) : (transmit s p f).portFenced = s.portFenced := by
  unfold transmit
  split <;> rfl

theorem sendFlit_portFenced (s : State) (m tc kind plen grid : Nat) (p : Packet) :
    (sendFlit s m tc kind plen grid p).1.portFenced = s.portFenced := by
  unfold sendFlit
  extract_lets S port R f held sent
  have hheld : held.portFenced = s.portFenced := by
    refine (holdPort_portFenced ..).trans ?_
    split <;> rfl
  exact (transmit_portFenced ..).trans hheld

theorem drainSend_portFenced (m tc n : Nat) (s : State) : (drainSend m tc n s).portFenced = s.portFenced := by
  induction n generalizing s with
  | zero => rfl
  | succ n ih =>
    unfold drainSend
    dsimp only
    split
    · rfl
    · split
      · exact (ih _).trans (sendFlit_portFenced ..)
      · rfl

theorem drainSends_portFenced (s : State) : (drainSends s).portFenced = s.portFenced := by
  unfold drainSends
  exact foldl_same State.portFenced (fun t kv => drainSend_portFenced ..) _ _

theorem castle_portFenced (s : State) (key : Nat) : (castle s key).portFenced = s.portFenced := by
  unfold castle
  dsimp only
  split
  · rfl
  · next p e =>
    refine (drainSends_portFenced _).trans ((foldl_same State.portFenced (fun t f => transmit_portFenced ..) _ _).trans ?_)
    exact holdPort_portFenced ..

theorem castlePort_portFenced (s : State) (p : Nat) : (castlePort s p).portFenced = s.portFenced := by
  unfold castlePort
  refine foldl_same State.portFenced (fun t kv => ?_) _ _
  split
  · exact castle_portFenced ..
  · rfl

theorem fenceOnce_port {s : State} {q : FenceReq} (hk : q.kind = 2) : fenceOnce s q =
    (castlePort (noteRoutes s (s.setPort (16 * q.die + q.port) { s.port (16 * q.die + q.port) with fenced := true }))
      (16 * q.die + q.port), true) := by
  unfold fenceOnce
  rw [hk]
  rfl

/-- A fenced port carries nothing. -/
theorem fenceOnce_port_stops {s : State} {q : FenceReq} (hk : q.kind = 2) :
    portWorks (fenceOnce s q).1 (16 * q.die + q.port) = false := by
  rw [fenceOnce_port hk]
  generalize 16 * q.die + q.port = p
  have h : (castlePort (noteRoutes s (s.setPort p { s.port p with fenced := true })) p).portFenced p = true := by
    rw [castlePort_portFenced]
    unfold State.portFenced
    exact (congrArg PortSt.fenced (State.setPort_port ..)).trans (by rw [if_pos rfl])
  unfold State.portFenced at h
  simp [portWorks, h]

/-! FENCE_PART and RETURN_PART (18 R331, R332). -/

theorem exec_fencePart_refused {s : State} {value : BitVec 64}
    (h : (FenceReq.of (if fenceBusy s then s.host.fenceReq else value).toNat).op ≠ 1 ∨
      (FenceReq.of (if fenceBusy s then s.host.fenceReq else value).toNat).ok = false) :
    exec (.fencePart value) s = .next (fenceStatus s (if fenceBusy s then s.host.fenceReq else value) 3) := by
  refine congrArg Host.Outcome.next ((if_pos ?_).trans rfl)
  simpa using h

theorem exec_fencePart_taken {s : State} {value : BitVec 64}
    (hop : (FenceReq.of (if fenceBusy s then s.host.fenceReq else value).toNat).op = 1)
    (hok : (FenceReq.of (if fenceBusy s then s.host.fenceReq else value).toNat).ok = true) :
    let v := if fenceBusy s then s.host.fenceReq else value
    let r := fenceOnce { s with host := { s.host with fenceReq := v } } (FenceReq.of v.toNat)
    exec (.fencePart value) s = .next (fenceStatus r.1 (if fenceBusy s then r.1.host.fenceCtl else v) (if r.2 then 2 else 1)) := by
  refine congrArg Host.Outcome.next ((if_neg ?_).trans rfl)
  simp [hop, hok]

theorem exec_returnPart_busy {s : State} {value : BitVec 64} {ok : Bool} (h : fenceBusy s = true) :
    exec (.returnPart value ok) s = .next s := congrArg Host.Outcome.next (if_pos h)

theorem exec_returnPart_refused {s : State} {value : BitVec 64} {ok : Bool} (hb : fenceBusy s = false)
    (h : (FenceReq.of value.toNat).op ≠ 2 ∨ (FenceReq.of value.toNat).ok = false ∨ ok = false) :
    exec (.returnPart value ok) s = .next (fenceStatus s value 3) := by
  refine congrArg Host.Outcome.next ((if_neg (by simp [hb])).trans (if_pos ?_))
  simpa [or_assoc] using h

theorem exec_returnPart_taken {s : State} {value : BitVec 64} (hb : fenceBusy s = false) (hop : (FenceReq.of value.toNat).op = 2)
    (hok : (FenceReq.of value.toNat).ok = true) :
    exec (.returnPart value true) s = .next (fenceStatus (returnOnce s (FenceReq.of value.toNat)) value 2) := by
  refine congrArg Host.Outcome.next ((if_neg (by simp [hb])).trans (if_neg ?_))
  simp [hop, hok]

theorem returnOnce_core {s : State} {q : FenceReq} (hk : q.kind = 0) :
    returnOnce s q = s.setCore (64 * q.die + q.core) { s.core (64 * q.die + q.core) with fenced := false, power := 0 } := by
  unfold returnOnce
  simp only [hk]

theorem returnOnce_port {s : State} {q : FenceReq} (hk : q.kind = 2) :
    returnOnce s q = s.setPort (16 * q.die + q.port) { s.port (16 * q.die + q.port) with fenced := false } := by
  unfold returnOnce
  simp only [hk]

/-- The state in which a die's unfenced cores have full power again. -/
def powerUp (s : State) (d : Nat) : State :=
  (dieCores d).foldl (fun s c => if (s.core c).fenced then s else s.setCore c { s.core c with power := 0 }) s

theorem powerUp_dies (s : State) (d : Nat) : (powerUp s d).dies = s.dies := by
  refine foldl_same State.dies (fun t c => ?_) _ _
  split <;> rfl

theorem powerUp_ports (s : State) (d : Nat) : (powerUp s d).ports = s.ports := by
  refine foldl_same State.ports (fun t c => ?_) _ _
  split <;> rfl

theorem powerUp_die (s : State) (d e : Nat) : (powerUp s d).die e = s.die e := by
  unfold State.die
  rw [powerUp_dies]

theorem returnOnce_compute {s : State} {q : FenceReq} (hk : q.kind = 3) : returnOnce s q = (powerUp s q.die).setDie q.die
    { s.die q.die with fencedCompute := false, fencedFull := (s.die q.die).fencedFull } := by
  rw [← powerUp_die s q.die q.die]
  unfold returnOnce
  simp only [hk]
  rw [if_neg (by decide), show ((3 : Nat) != 4) = true from rfl, Bool.and_true]
  rfl

theorem returnOnce_whole {s : State} {q : FenceReq} (hk : q.kind = 4) : returnOnce s q =
    (List.range 16).foldl (fun s i => s.setPort (16 * q.die + i) { s.port (16 * q.die + i) with fenced := false })
      ((powerUp s q.die).setDie q.die { s.die q.die with fencedCompute := false, fencedFull := false }) := by
  rw [← powerUp_die s q.die q.die]
  unfold returnOnce
  simp only [hk]
  rw [if_pos (by decide), show ((4 : Nat) != 4) = false from rfl, Bool.and_false]
  rfl

/-- A return of a die's compute part leaves its full fence and every port. -/
theorem returnOnce_compute_parts {s : State} {q : FenceReq} (hk : q.kind = 3) :
    ((returnOnce s q).die q.die).fencedCompute = false ∧ ((returnOnce s q).die q.die).fencedFull = (s.die q.die).fencedFull ∧
      ∀ p, (returnOnce s q).port p = s.port p := by
  rw [returnOnce_compute hk, State.setDie_die, if_pos rfl]
  refine ⟨rfl, rfl, fun p => ?_⟩
  simp only [State.port, State.setDie_ports, powerUp_ports]

theorem unfencePorts_dies (s : State) (d : Nat) (l : List Nat) :
    (l.foldl (fun s i => s.setPort (16 * d + i) { s.port (16 * d + i) with fenced := false }) s).dies = s.dies :=
  foldl_same State.dies (f := fun s i => s.setPort (16 * d + i) { s.port (16 * d + i) with fenced := false }) (fun _ _ => rfl) l s

/-- Each port that is put back carries again; no later one takes that back. -/
theorem unfencePorts_portFenced (d : Nat) (l : List Nat) (s : State) (k : Nat) (h : k ∈ l ∨ s.portFenced (16 * d + k) = false) :
    (l.foldl (fun s i => s.setPort (16 * d + i) { s.port (16 * d + i) with fenced := false }) s).portFenced (16 * d + k) = false := by
  induction l generalizing s with
  | nil => exact h.resolve_left List.not_mem_nil
  | cons i l ih =>
    refine ih _ ?_
    by_cases hl : k ∈ l
    · exact .inl hl
    · refine .inr ?_
      unfold State.portFenced
      rw [State.setPort_port]
      split
      · rfl
      · next hne =>
        rcases h with h | h
        · rcases List.mem_cons.mp h with rfl | h
          · exact absurd rfl hne
          · exact absurd h hl
        · exact h

/-- A return of a whole die puts its compute part and its ports back. -/
theorem returnOnce_whole_parts {s : State} {q : FenceReq} (hk : q.kind = 4) :
    ((returnOnce s q).die q.die).fencedCompute = false ∧ ((returnOnce s q).die q.die).fencedFull = false ∧
      ∀ k, k < 16 → ((returnOnce s q).port (16 * q.die + k)).fenced = false := by
  rw [returnOnce_whole hk]
  have hd : ∀ u : State, ((List.range 16).foldl (fun s i => s.setPort (16 * q.die + i)
      { s.port (16 * q.die + i) with fenced := false }) u).die q.die = u.die q.die := fun u =>
    congrArg (fun m => SMap.get DieSt.reset m q.die) (unfencePorts_dies u q.die (List.range 16))
  rw [hd, State.setDie_die, if_pos rfl]
  exact ⟨rfl, rfl, fun k hk => unfencePorts_portFenced q.die _ _ k (.inl (List.mem_range.mpr hk))⟩

/-! DEVID (16 R282; 18 R336). -/

theorem exec_devidWrite_first {s : State} {value : W64} (h : s.host.devidSet = false) : exec (.devidWrite value) s =
    .next { s with host := { s.host with devid := value.toNat % 2 ^ 12, devidSet := true } } := by
  refine congrArg Host.Outcome.next ((if_pos ?_).trans rfl)
  simp [h]

theorem writeDevid_devid (s : State) (v : Nat) : (writeDevid s v).host.devid = v % 2 ^ 12 ∧ (writeDevid s v).host.devidSet = true := by
  unfold writeDevid
  dsimp only
  split <;> exact ⟨rfl, rfl⟩

/-! Counters, lost dies and TLBs (10 R197; 18 R333, R335). -/

theorem clearDieFault_lost (s : State) (d v : Nat) : ((clearDieFault s d v).die d).lost = ((s.die d).lost && !bitN v 16) := by
  unfold clearDieFault
  rw [State.setDie_die, if_pos rfl]

theorem clearDieFault_portFail (s : State) (d v : Nat) {k : Nat} (hk : k < 16) :
    bitN ((clearDieFault s d v).die d).portFail k = (bitN (s.die d).portFail k && !bitN v (48 + k)) := by
  unfold clearDieFault
  rw [State.setDie_die, if_pos rfl]
  simp only [bitN_eq_testBit, testBit_sub_and, testBit_bitsAt, hk, decide_true, Bool.true_and]

/-- What TLBICMD with GO reads, for a write of `v`: its region, its range and its two flags. -/
theorem tlbi_go (v : W64) : bitN (v ||| 0x8000_0000_0000_0000).toNat 63 = true ∧
    bitN (v ||| 0x8000_0000_0000_0000).toNat 62 = bitN v.toNat 62 ∧
    bitsAt (v ||| 0x8000_0000_0000_0000).toNat 0 16 = bitsAt v.toNat 0 16 ∧
    bitsAt (v ||| 0x8000_0000_0000_0000).toNat 18 32 = bitsAt v.toNat 18 32 := by
  rw [BitVec.toNat_or, bitN_or, bitN_or, bitsAt_or, bitsAt_or]
  refine ⟨?_, ?_, Nat.or_zero _, Nat.or_zero _⟩
  · exact Bool.or_true _
  · exact Bool.or_false _

theorem tlbiCmd_done (v : W64) : bitsAt ((v &&& tlbiMask) ||| BitVec.ofNat 64 (2 * 2 ^ 16)).toNat 16 2 = 2 := by
  rw [BitVec.toNat_or, BitVec.toNat_and, bitsAt_or, bitsAt_and, show bitsAt tlbiMask.toNat 16 2 = 0 from by decide, Nat.and_zero]
  rfl

/-- The TLB entries of a core, and of a die, that satisfy `keep`. -/
def CoreSt.keepTlb (keep : TlbEntry → Bool) (C : CoreSt) : CoreSt := { C with tlb := C.tlb.filter keep }
def DieSt.keepTlb (keep : TlbEntry → Bool) (D : DieSt) : DieSt := { D with tlb2 := D.tlb2.filter keep }

theorem tlbInvalidate_core (s : State) (r : Nat) (range : Option (Nat × Nat)) (c : Nat) :
    (tlbInvalidate s r range).core c = (s.core c).keepTlb fun e => !tlbCovers r range e := by
  have h : (tlbInvalidate s r range).cores = s.cores.map fun kv => (kv.1, kv.2.keepTlb fun e => !tlbCovers r range e) := by
    unfold tlbInvalidate
    dsimp only
    split <;> rfl
  unfold State.core
  rw [h]
  exact SMap.get_map (fun _ => CoreSt.keepTlb _) _ _ _ _ fun _ => rfl

theorem tlbInvalidate_die (s : State) (r : Nat) (range : Option (Nat × Nat)) (d : Nat) :
    (tlbInvalidate s r range).die d = (s.die d).keepTlb fun e => !tlbCovers r range e := by
  have h : (tlbInvalidate s r range).dies = s.dies.map fun kv => (kv.1, kv.2.keepTlb fun e => !tlbCovers r range e) := by
    unfold tlbInvalidate
    dsimp only
    split <;> rfl
  unfold State.die
  rw [h]
  exact SMap.get_map (fun _ => DieSt.keepTlb _) _ _ _ _ fun _ => rfl

theorem tlbInvalidate_mem (s : State) (r : Nat) (range : Option (Nat × Nat)) : (tlbInvalidate s r range).mem = s.mem := by
  unfold tlbInvalidate
  dsimp only
  split <;> rfl

/-- HOST_TLB_INVALIDATE is a write of TLBICMD with GO. -/
theorem writeTlbicmd_go (s : State) (d : Nat) (v : W64) : let t := writeTlbicmd s d (v ||| 0x8000_0000_0000_0000)
    t.mem = s.mem ∧ bitsAt (t.die d).tlbiCmd.toNat 16 2 = 2 ∧ ∀ c e, e ∈ (t.core c).tlb ↔ e ∈ (s.core c).tlb ∧
      tlbCovers (bitsAt v.toNat 0 16)
        (if bitN v.toNat 62 then none else tlbRange ((s.die d).tlbiAddr.toNat % 2 ^ 57) (bitsAt v.toNat 18 32)) e = false := by
  intro t
  obtain ⟨hgo, hall, hregion, hlen⟩ := tlbi_go v
  have ht : t = tlbInvalidate (s.setDie d { s.die d with
      tlbiCmd := ((v ||| 0x8000_0000_0000_0000) &&& tlbiMask) ||| BitVec.ofNat 64 (2 * 2 ^ 16) }) (bitsAt v.toNat 0 16)
      (if bitN v.toNat 62 then none else tlbRange ((s.die d).tlbiAddr.toNat % 2 ^ 57) (bitsAt v.toNat 18 32)) := by
    dsimp only [t]
    unfold writeTlbicmd
    dsimp only
    rw [hgo, if_pos rfl, if_pos rfl, hall, hregion, hlen]
  rw [ht]
  refine ⟨tlbInvalidate_mem .., ?_, fun c e => ?_⟩
  · rw [tlbInvalidate_die, State.setDie_die, if_pos rfl]
    exact tlbiCmd_done _
  · rw [tlbInvalidate_core]
    unfold CoreSt.keepTlb
    rw [List.mem_filter, Bool.not_eq_true']
    rfl

/-! The handle overflow areas (16 R300). -/

theorem writeHovf_registered {s : State} {d : Nat} {c : Bool} {v : Nat} (h : ∃ kv ∈ s.regions, kv.2.live = true) :
    writeHovf s d c v = s := by
  unfold writeHovf
  exact if_pos (List.any_eq_true.mpr h)

theorem regions_any_live {s : State} (h : ∀ kv ∈ s.regions, kv.2.live = false) : ¬ s.regions.any (fun kv => kv.2.live) = true := by
  simpa using h

theorem writeHovf_count {s : State} {d v : Nat} (h : ∀ kv ∈ s.regions, kv.2.live = false) : writeHovf s d true v =
    if v % 2 ^ 16 % 64 = 0 ∧ v % 2 ^ 16 ≤ 49152 then s.setDie d { s.die d with hovfCnt := v % 2 ^ 16 } else s := by
  unfold writeHovf
  dsimp only
  rw [if_neg (regions_any_live h), if_pos rfl]
  simp only [Bool.and_eq_true, beq_iff_eq, decide_eq_true_eq]

theorem writeHovf_base {s : State} {d v : Nat} (h : ∀ kv ∈ s.regions, kv.2.live = false) : writeHovf s d false v =
    s.setDie d { s.die d with hovfBase := bitsAt v 12 26 * 2 ^ 12 } := by
  unfold writeHovf
  dsimp only
  rw [if_neg (regions_any_live h)]
  rfl

/-! Routes and the access table (18 R321, R323, R337). -/

/-- An entry of the route table takes a value each of whose fields names one of the 64 ports or none. -/
def RouteOk (m v : Nat) : Prop := m ≤ 4094 ∧ ∀ k, k < 4 → bitsAt v (8 * k) 8 ≤ 63 ∨ bitsAt v (8 * k) 8 = 0xFF

theorem routeOk_iff (m v : Nat) : (decide (m ≤ 4094) && (List.range 4).all fun k =>
    decide (bitsAt v (8 * k) 8 ≤ 63) || bitsAt v (8 * k) 8 == 0xFF) = true ↔ RouteOk m v := by
  simp only [RouteOk, Bool.and_eq_true, List.all_eq_true, List.mem_range, Bool.or_eq_true, decide_eq_true_eq, beq_iff_eq]

theorem writeRoute_taken (s : State) {m v : Nat} (h : RouteOk m v) (n : Nat) :
    (writeRoute s m v).route n = if n = m then BitVec.ofNat 64 (v % 2 ^ 32) else s.route n := by
  unfold writeRoute
  rw [if_pos ((routeOk_iff m v).mpr h)]
  exact SMap.get_set ..

theorem writeRoute_ignored (s : State) {m v : Nat} (h : ¬ RouteOk m v) : writeRoute s m v = s := by
  unfold writeRoute
  exact if_neg fun g => h ((routeOk_iff m v).mp g)

theorem exec_accessTableUpdate_entry {tg n : Nat} (h : n < 1024) (s : State) (v : BitVec 128) : exec (.accessTableUpdate tg n v) s =
    .next { s with atab := SMap.set 0 s.atab (1024 * tg + n) (v &&& ~~~(((0xFFF_FFFF : BitVec 128)) <<< 36)) } :=
  congrArg Host.Outcome.next (if_pos h)

/-! The register window (18 R327, R333 to R337). -/

theorem readWindow_misaligned {s : State} {off : Nat} (h : off % 8 ≠ 0) : readWindow s off = none := by
  unfold readWindow
  exact if_pos (by simpa using h)

theorem readWindow_aligned {s : State} {off : Nat} (h : off % 8 = 0) : readWindow s off = some (readRegister s off) := by
  unfold readWindow
  exact if_neg (by simp [h])

theorem exec_registerWrite_misaligned {s : State} {off : Nat} {v : W64} (h : off % 8 ≠ 0) :
    exec (.registerWrite off v) s = .next { s with host := { s.host with unsupported := true } } :=
  congrArg Host.Outcome.next (if_pos (by simpa using h))

/-- The state in which an aligned host access finds the device: the die of its page, or the package, is awake. -/
def accessed (s : State) (off : Nat) : State := answered (if off < 0x4000 then wakeDie s (off / 0x1000) else wakePackage s) false

theorem exec_registerWrite_aligned {s : State} {off : Nat} {v : W64} (h : off % 8 = 0) :
    exec (.registerWrite off v) s = .next (writeWindow (accessed s off) off v) :=
  congrArg Host.Outcome.next (if_neg (by simp [h]))

theorem accessed_host (s : State) (off : Nat) : (accessed s off).host = { s.host with unsupported := false } := by
  have h : (if off < 0x4000 then wakeDie s (off / 0x1000) else wakePackage s).host = s.host := by
    split
    · exact (wakeDie_reads ..).host
    · unfold wakePackage
      split <;> rfl
  unfold accessed answered
  rw [h]

theorem accessed_fenceCtl (s : State) (off : Nat) : (accessed s off).host.fenceCtl = s.host.fenceCtl := by rw [accessed_host]

theorem accessed_mailboxState (s : State) (off : Nat) : (accessed s off).host.mailboxState = s.host.mailboxState := by rw [accessed_host]

theorem fenceBusy_accessed (s : State) (off : Nat) : fenceBusy (accessed s off) = fenceBusy s := by
  unfold fenceBusy
  rw [accessed_fenceCtl]

/-- In RECOVERY only the mailbox answers the host. -/
theorem readRegister_recovery {s : State} {off : Nat} (h : s.host.mailboxState = 1) (ho : off ≠ 0x8008) : readRegister s off = 0 := by
  unfold readRegister
  exact if_pos (by simp [h, ho])

theorem readRegister_mailbox (s : State) : readRegister s 0x8008 =
    s.host.mailboxState + s.host.mailboxStep * 2 ^ 8 + (if s.host.mailboxWarm then 2 ^ 16 else 0) := by
  have h : readRegister s 0x8008 = s.host.mailboxState + s.host.mailboxStep * 2 ^ 8 + boolN s.host.mailboxWarm * 2 ^ 16 := by
    unfold readRegister
    rw [bne_self_eq_false, Bool.and_false]
    rfl
  rw [h]
  cases s.host.mailboxWarm <;> rfl

/-- The registers that the host only reads. -/
theorem writeWindow_readOnly (s : State) {off : Nat} (v : W64) (h : off ∈ [0x8000, 0x8008, 0x8030, 0x8050]) :
    writeWindow s off v = s := by
  simp only [List.mem_cons, List.not_mem_nil, or_false] at h
  obtain rfl | rfl | rfl | rfl := h <;> rfl

theorem writeWindow_regcmd {s : State} {v : W64} (h : bitN v.toNat 63 = true) :
    writeWindow s 0x8048 v = regCommand s (bitsAt v.toNat 60 3) v.toNat := if_pos h

theorem fencectl_fields {s : State} {v : W64} (h : bitN v.toNat 63 = false) :
    writeWindow s 0x8020 v = fenceStatus s v (s.host.fenceCtl.toNat % 256) := by
  show writeFencectl s v = _
  simp [writeFencectl, h]

theorem fencectl_busy {s : State} {v : W64} (hgo : bitN v.toNat 63 = true) (h : fenceBusy s = true) : writeWindow s 0x8020 v = s := by
  show writeFencectl s v = _
  simp [writeFencectl, h, hgo]

/-- FENCECTL with GO is a fence, or a return that passes its self-test. -/
theorem fencectl_go {s : State} {v : W64} (hgo : bitN v.toNat 63 = true) (h : fenceBusy s = false) :
    exec (if bitsAt v.toNat 61 2 = 2 then .returnPart v true else .fencePart v) s = .next (writeWindow s 0x8020 v) := by
  show _ = Host.Outcome.next (writeFencectl s v)
  unfold writeFencectl
  by_cases hop : bitsAt v.toNat 61 2 = 2
  · have ho : ((FenceReq.of v.toNat).op == 2) = true := beq_iff_eq.mpr hop
    simp only [hgo, h, ho, hop, Bool.and_false, Bool.not_true, Bool.false_eq_true, if_false, if_true]
    rfl
  · have ho : ((FenceReq.of v.toNat).op == 2) = false := beq_eq_false_iff_ne.mpr hop
    simp only [hgo, h, ho, hop, Bool.and_false, Bool.not_true, Bool.false_eq_true, if_false]
    rfl

theorem writeWindow_qtab (s : State) (v : W64) {d e q : Nat} (hd : d < 4) (he : e < 8) (hq : q < 16) :
    writeWindow s (0x1000 * d + 0x400 + 0x80 * e + 8 * q) v = writeQtab s d e q v := by
  have hpage : (0x1000 * d + 0x400 + 0x80 * e + 8 * q) / 0x1000 = d := by omega
  have hoff : (0x1000 * d + 0x400 + 0x80 * e + 8 * q) % 0x1000 = 0x400 + 0x80 * e + 8 * q := by omega
  have heng : (0x400 + 0x80 * e + 8 * q - 0x400) / 0x80 = e := by omega
  have hqueue : (0x400 + 0x80 * e + 8 * q - 0x400) % 0x80 / 8 = q := by omega
  have hne : ∀ k, k < 0x400 → (0x400 + 0x80 * e + 8 * q == k) = false := fun k hk => beq_eq_false_iff_ne.mpr (by omega)
  have hin : (decide (0x400 ≤ 0x400 + 0x80 * e + 8 * q) && decide (0x400 + 0x80 * e + 8 * q < 0x800)) = true := by
    simp only [Bool.and_eq_true, decide_eq_true_eq]
    omega
  unfold writeWindow
  simp only [hpage, hoff, heng, hqueue, hin, hne 0x38 (by decide), hne 0x100 (by decide), hne 0x200 (by decide), hne 0x208 (by decide),
    hne 0x300 (by decide), hne 0x308 (by decide), Bool.or_false, Bool.false_eq_true, if_false, if_true]
  exact if_pos (by omega)

/-- What the host reads back of the tolerance for idle cores. -/
theorem idleTol_readback {s : State} {v : W64} (h : s.host.mailboxState ≠ 1) :
    readWindow (writeWindow s 0x8018 v) 0x8018 = some (v.toNat % 2 ^ 32) := by
  have hm : ((writeWindow s 0x8018 v).host.mailboxState == 1) = false := beq_eq_false_iff_ne.mpr h
  rw [readWindow_aligned rfl]
  unfold readRegister
  rw [hm]
  rfl

theorem regRoot_readback {s : State} {v : W64} (h : s.host.mailboxState ≠ 1) :
    readWindow (writeWindow s 0x8040 v) 0x8040 = some (v &&& 0x0000_FFFF_FFFF_F001).toNat := by
  have hm : ((writeWindow s 0x8040 v).host.mailboxState == 1) = false := beq_eq_false_iff_ne.mpr h
  rw [readWindow_aligned rfl]
  unfold readRegister
  rw [hm]
  rfl

theorem writeWindow_tlbiAddr (s : State) (v : W64) {d : Nat} (hd : d < 4) : writeWindow s (0x1000 * d + 0x200) v =
    s.setDie d { s.die d with tlbiAddr := BitVec.ofNat 64 (v.toNat % 2 ^ 57) } := by
  have hpage : (0x1000 * d + 0x200) / 0x1000 = d := by omega
  have hoff : (0x1000 * d + 0x200) % 0x1000 = 0x200 := by omega
  unfold writeWindow
  simp only [hpage, hoff]
  exact if_pos (by omega)

theorem readRegister_tlbiAddr {s : State} {d : Nat} (hd : d < 4) (h : s.host.mailboxState ≠ 1) :
    readRegister s (0x1000 * d + 0x200) = (s.die d).tlbiAddr.toNat := by
  have hpage : (0x1000 * d + 0x200) / 0x1000 = d := by omega
  have hoff : (0x1000 * d + 0x200) % 0x1000 = 0x200 := by omega
  unfold readRegister
  simp only [hpage, hoff, beq_eq_false_iff_ne.mpr h, Bool.false_and, Bool.false_eq_true, if_false]
  exact if_pos (by omega)

theorem tlbiAddr_readback {s : State} {v : W64} {d : Nat} (hd : d < 4) (h : s.host.mailboxState ≠ 1) :
    readWindow (writeWindow s (0x1000 * d + 0x200) v) (0x1000 * d + 0x200) = some (v.toNat % 2 ^ 57) := by
  rw [readWindow_aligned (by omega), writeWindow_tlbiAddr s v hd, readRegister_tlbiAddr hd (by exact h), State.setDie_die, if_pos rfl]
  exact congrArg some (Nat.mod_eq_of_lt (by omega))

theorem exec_hostLaunch_launch {s u : State} {v : W64} {st g : Nat} (h : launch { s with reqs := [] } none 0
      (LaunchRec.of (Memory.read s.mem (bitsAt v.toNat 6 32 * 64) 128)) = (u, st, g)) :
    exec (.hostLaunch v) s = .next { u with host := { u.host with launchStat := BitVec.ofNat 64 (st + g * 2 ^ 32) } } := by
  show Host.Outcome.next (hostLaunch s v.toNat) = _
  unfold hostLaunch
  dsimp only
  rw [h]

/-! Host accesses to memory (10 R184, R197; 11 R214): an access within one line is one piece. -/

theorem pieces_line {n pa : Nat} (fuel : Nat) (h0 : 0 < n) (h : n ≤ 64 - pa % 64) : pieces (fuel + 2) pa n = [(pa, n)] := by
  have h0' : (n == 0) = false := beq_eq_false_iff_ne.mpr (by omega)
  unfold pieces
  simp only [h0', Bool.false_eq_true, if_false, Nat.min_eq_left h, Nat.sub_self]
  rfl

theorem exec_hostMemoryAccess_write {s : State} {pa n : Nat} {bs : List Byte} (h0 : 0 < n) (h : n ≤ 64 - pa % 64) (hb : bs.length = n) :
    exec (.hostMemoryAccess pa n (some bs)) s = .next (hostPiece { s with reqs := [] } pa n (some bs)).1 := by
  show execHostMemoryAccess pa n (some bs) s = _
  unfold execHostMemoryAccess
  dsimp only
  rw [hb, pieces_line _ h0 h, List.foldl_cons, List.foldl_nil]
  dsimp only
  rw [Option.map_some, Nat.sub_self, List.drop_zero, List.take_of_length_le (Nat.le_of_eq hb)]
  rfl

theorem exec_hostMemoryAccess_read {s : State} {pa n : Nat} (h0 : 0 < n) (h : n ≤ 64 - pa % 64) :
    let p := hostPiece { s with reqs := [] } pa n none
    exec (.hostMemoryAccess pa n none) s = .next { p.1 with host := { p.1.host with hostRead := p.2 } } := by
  show execHostMemoryAccess pa n none s = _
  unfold execHostMemoryAccess
  dsimp only
  rw [pieces_line _ h0 h, List.foldl_cons, List.foldl_nil]
  rfl

theorem hostPiece_host {s : State} {pa n : Nat} (h : hostKey pa = true) :
    (∀ bs, hostPiece s pa n (some bs) = ({ s with mem := Memory.write s.mem pa bs }, [])) ∧
      hostPiece s pa n none = (s, Memory.read s.mem pa n) := by
  unfold hostPiece
  rw [if_pos h]
  exact ⟨fun _ => if_pos h, rfl⟩

/-- A write to device memory that the home admits. -/
theorem hostPiece_write {s u : State} {pa n : Nat} {bs : List Byte} (h : hostKey pa = false) (hn : pa + n ≤ 2 ^ 38)
    (hu : checkTarget s hostWho 0 pa n pa .write = (u, none)) :
    (hostPiece s pa n (some bs)).1.mem = Memory.write u.mem pa bs := by
  unfold hostPiece
  rw [if_neg (by simp [h]), if_neg (by omega), Option.isSome_some, if_pos rfl, hu]
  exact (countReq_reads ..).mem

/-- A write to device memory that its home refuses changes no memory. -/
theorem hostPiece_refused {s u : State} {pa n : Nat} {bs : List Byte} {f : Flt} (h : hostKey pa = false) (hn : pa + n ≤ 2 ^ 38)
    (hu : checkTarget s hostWho 0 pa n pa .write = (u, some f)) : (hostPiece s pa n (some bs)).1 = u := by
  unfold hostPiece
  rw [if_neg (by simp [h]), if_neg (by omega), Option.isSome_some, if_pos rfl, hu]

theorem hostPiece_read {s u : State} {pa n : Nat} (h : hostKey pa = false) (hn : pa + n ≤ 2 ^ 38)
    (hu : checkTarget s hostWho 0 pa n pa .read = (u, none)) :
    (hostPiece s pa n none).1.mem = u.mem ∧ (hostPiece s pa n none).2 = Memory.read u.mem pa n := by
  unfold hostPiece
  rw [if_neg (by simp [h]), if_neg (by omega), Option.isSome_none, if_neg (by decide), hu]
  exact ⟨(countReq_reads ..).mem, rfl⟩

/-! Starts (18 R325 to R330). -/

/-- COLD_START and WARM_START are one operation. -/
theorem exec_start (s : State) (warm : Bool) (env : StartEnv) :
    exec (if warm then .warmStart env else .coldStart env) s = .next (start s warm env) := by
  cases warm <;> rfl

/-- `t` is a device after a start of `s`: its regions, grids, blocks, cores, dies, access table and streams are at reset, and REFT
goes on. -/
structure Restarted (s : State) (warm : Bool) (t : State) : Prop where
  regions : t.regions = []
  grids : t.grids = []
  blocks : t.blocks = []
  cores : t.cores = []
  dies : t.dies = []
  atab : t.atab = []
  sends : t.sends = []
  reft : t.reft = s.reft
  mailboxWarm : t.host.mailboxWarm = warm
  devid : t.host.devid = 0xFFF
  starts : t.host.starts = s.host.starts + 1

theorem restarted_restarted (s : State) (warm : Bool) : Restarted s warm (restarted s warm) := by constructor <;> rfl

theorem Restarted.mailbox {s t : State} {warm : Bool} (h : Restarted s warm t) (state step : Nat) :
    Restarted s warm (mailbox t state step) := { h with }

theorem Restarted.withMem {s t : State} {warm : Bool} (h : Restarted s warm t) (m : Memory) : Restarted s warm { t with mem := m } :=
  ⟨h.regions, h.grids, h.blocks, h.cores, h.dies, h.atab, h.sends, h.reft, h.mailboxWarm, h.devid, h.starts⟩

theorem Restarted.withImage {s t : State} {warm : Bool} (h : Restarted s warm t) (digest : List Byte) (version : Nat) :
    Restarted s warm { t with host := { t.host with digest := digest, version := version } } :=
  ⟨h.regions, h.grids, h.blocks, h.cores, h.dies, h.atab, h.sends, h.reft, h.mailboxWarm, h.devid, h.starts⟩

theorem Restarted.finishStart {s t : State} {warm : Bool} (h : Restarted s warm t) (image : List Byte) (fail : Option Nat) :
    Restarted s warm (finishStart t warm image fail) := by
  unfold Machine.finishStart
  split
  · exact h.mailbox ..
  · dsimp only
    split
    · exact (h.withMem _).mailbox ..
    · exact ((h.withMem _).withImage ..).mailbox ..

theorem start_restarted (s : State) (warm : Bool) (env : StartEnv) : Restarted s warm (start s warm env) := by
  have h := restarted_restarted s warm
  unfold start
  dsimp only
  split
  · split
    · exact h.mailbox ..
    · split
      · exact h.mailbox ..
      · exact h.finishStart ..
  · split
    · exact h.finishStart ..
    · exact h.mailbox ..

theorem start_accepted {env : StartEnv} (hf : env.failStep = none) (hi : imageOk env.image = true) (s : State) (warm : Bool) :
    start s warm env = finishStart (restarted s warm) warm env.image none := by
  unfold start
  simp only [hf, hi, if_true]

theorem start_refused {env : StartEnv} (hf : env.failStep = none) (hi : imageOk env.image ≠ true) (s : State) (warm : Bool) :
    start s warm env = mailbox (restarted s warm) 1 5 := by
  unfold start
  simp only [hf, hi, if_false, Bool.false_eq_true]

theorem start_failed {env : StartEnv} {n : Nat} (hf : env.failStep = some n) (h1 : 1 ≤ n) (h4 : n ≤ 4) (s : State) (warm : Bool) :
    start s warm env = mailbox (restarted s warm) 3 n := by
  unfold start
  simp only [hf, h1, h4, decide_true, Bool.and_self, if_true]

/-- Memory that a start keeps: no handle overflow area, the host's own and, of a warm start, device memory and the vaults. -/
theorem keptMemory_restarted (s : State) (warm : Bool) : keptMemory warm (restarted s warm).mem =
    s.mem.filter fun e => !inOverflow s e.1 && (hostKey e.1 || (warm && decide (e.1 < 2 ^ 49))) := by
  unfold keptMemory restarted
  rw [List.filter_filter]
  exact List.filter_congr fun e _ => Bool.and_comm ..

/-! Recovery and attestation (18 R327, R328). -/

theorem exec_recoveryImage_accepted {s : State} {image : List Byte} (hm : s.host.mailboxState = 1) (hi : imageOk image = true) :
    exec (.recoveryImage image) s = .next (finishStart s s.host.mailboxWarm image none) :=
  congrArg Host.Outcome.next (if_pos (by simp [hm, hi]))

theorem exec_recoveryImage_ignored {s : State} {image : List Byte} (h : s.host.mailboxState ≠ 1 ∨ imageOk image ≠ true) :
    exec (.recoveryImage image) s = .next s := by
  refine congrArg Host.Outcome.next (if_neg fun g => ?_)
  simp only [Bool.and_eq_true, beq_iff_eq] at g
  exact h.elim (· g.1) (· g.2)

theorem exec_attestationReport_long {s : State} {nonce : List Byte} (h : 64 < nonce.length) :
    exec (.attestationReport nonce) s = .next s := congrArg Host.Outcome.next (if_pos h)

theorem exec_attestationReport_signed (s : State) {nonce : List Byte} (h : nonce.length ≤ 64) : exec (.attestationReport nonce) s =
    .next { s with host := { s.host with
      report := reportBody s nonce ++ Config.falconSign s.host.digest (Config.shake256 (reportBody s nonce) 64) } } :=
  congrArg Host.Outcome.next (if_neg (by omega))

theorem allowed_iff (s : State) (i : Instr) : allowed s i = true ↔ s.host.mailboxState = 2 ∨ match i with
    | .coldStart _ | .warmStart _ | .recoveryImage _ => True
    | _ => False := by
  unfold allowed
  rw [Bool.or_eq_true, beq_iff_eq]
  refine or_congr_right ?_
  split <;> simp

/-- Settles O60: each part of the window by its lemmas above. -/
theorem hostWindow : Obligations.HostWindow := by
  unfold Obligations.HostWindow
  refine ⟨fun s value h => exec_devidWrite_first h, fun s value => ⟨_, rfl, (writeDevid_devid ..).1, (writeDevid_devid ..).2⟩, ?fence,
    ?ret, ?die, ?route, ?table, fun s off v h => ⟨readWindow_misaligned h, exec_registerWrite_misaligned h⟩, ?window,
    fun s u v st g h => exec_hostLaunch_launch h, ?memory, ?start, ?recovery, ?report, allowed_iff⟩
  case fence =>
    exact fun s value => ⟨exec_fencePart_refused, exec_fencePart_taken, fun hk => ⟨fenceOnce_port hk, fenceOnce_port_stops hk⟩,
      fenceOnce_core, fenceOnce_row⟩
  case ret =>
    refine fun s value ok => ⟨exec_returnPart_busy, exec_returnPart_refused, ?_, returnOnce_core, returnOnce_port,
      returnOnce_compute_parts, returnOnce_whole_parts⟩
    rintro hb hop hok rfl
    exact exec_returnPart_taken hb hop hok
  case die =>
    refine fun s d => ⟨rfl, fun f => rfl, fun v hd => ?_, fun v hd => ?_, fun c v hd => ?_⟩
    · exact ⟨_, congrArg Host.Outcome.next (if_pos hd), clearDieFault_lost .., fun k hk _ => clearDieFault_portFail s d v.toNat hk⟩
    · exact ⟨_, congrArg Host.Outcome.next (if_pos hd), writeTlbicmd_go s d v⟩
    · have hw : ∀ c, exec (.handleOverflowConfig d c v) s = .next (writeHovf s d c v.toNat) := fun c =>
        congrArg Host.Outcome.next (if_pos hd)
      refine ⟨fun h => ?_, fun h => ⟨?_, ?_⟩⟩
      · rw [hw, writeHovf_registered h]
      · rw [hw, writeHovf_count h]
      · rw [hw, writeHovf_base h]
  case route =>
    refine fun s m v => ⟨fun h => ⟨_, rfl, ?_, fun n hn => ?_⟩, fun h => congrArg Host.Outcome.next (writeRoute_ignored s h)⟩
    · exact (writeRoute_taken s h m).trans (if_pos rfl)
    · exact (writeRoute_taken s h n).trans (if_neg hn)
  case table =>
    refine fun s tg n v hn => ⟨_, exec_accessTableUpdate_entry hn s v, ?_, fun k hk => ?_⟩
    · exact (SMap.get_set ..).trans (if_pos rfl)
    · exact (SMap.get_set ..).trans (if_neg hk)
  case window =>
    intro s off v ho a u w
    have hctl : u.host.fenceCtl = s.host.fenceCtl := accessed_fenceCtl s off
    have hbusy : fenceBusy u = fenceBusy s := fenceBusy_accessed s off
    refine ⟨exec_registerWrite_aligned ho, writeWindow_readOnly u v, ?_, ?_, ?_, ?_, ?_, ?_, fun hm => ?_, fun hm h => ?_, ?_⟩
    · rintro rfl
      rfl
    · rintro rfl
      rfl
    · rintro rfl hgo
      exact writeWindow_regcmd hgo
    · rintro rfl hgo
      rw [← hctl]
      exact fencectl_fields hgo
    · rintro rfl hgo
      rw [← hbusy]
      exact ⟨fencectl_busy hgo, fencectl_go hgo⟩
    · rintro d e q hd he hq rfl
      exact writeWindow_qtab u v hd he hq
    · have hu : u.host.mailboxState ≠ 1 := fun h => hm ((accessed_mailboxState s off).symm.trans h)
      refine ⟨?_, ?_, fun d hd => ?_⟩
      · rintro rfl
        exact idleTol_readback hu
      · rintro rfl
        exact regRoot_readback hu
      · rintro rfl
        exact tlbiAddr_readback hd hu
    · rw [readWindow_aligned ho, readRegister_recovery hm h]
    · rw [readWindow_aligned rfl, readRegister_mailbox]
  case memory =>
    intro s pa n bs h0 h hb r
    have hw := exec_hostMemoryAccess_write (s := s) h0 h hb
    have hr := exec_hostMemoryAccess_read (s := s) h0 h
    refine ⟨fun hk => ?_, fun hk hn u hu => ⟨_, hw, hostPiece_write hk hn hu⟩, fun hk hn u hu => ⟨_, hr, hostPiece_read hk hn hu⟩,
      fun hk hn u f hu => ?_⟩
    · obtain ⟨hpw, hpr⟩ := hostPiece_host (s := r) (n := n) hk
      exact ⟨hw.trans (by rw [hpw]), hr.trans (by dsimp only; rw [hpr])⟩
    · rw [hw, hostPiece_refused hk hn hu]
  case start =>
    intro s warm env ins
    have hr := start_restarted s warm env
    refine ⟨⟨_, exec_start s warm env, hr.regions, hr.grids, hr.blocks, hr.cores, hr.dies, hr.atab, hr.sends, hr.reft, hr.mailboxWarm,
      hr.devid, hr.starts⟩, fun hf => ⟨_, exec_start s warm env, hr.mailboxWarm, hr.reft, ?_⟩,
      fun n hf h1 h4 => ⟨_, exec_start s warm env, ?_⟩⟩
    · split
      · next hi =>
        rw [start_accepted hf hi]
        exact ⟨rfl, rfl, rfl, rfl, keptMemory_restarted s warm, rfl, rfl⟩
      · next hi =>
        rw [start_refused hf hi]
        exact ⟨rfl, rfl⟩
    · rw [start_failed hf h1 h4]
      exact ⟨rfl, rfl⟩
  case recovery =>
    refine fun s image => ⟨fun hm => ?_, fun hm => exec_recoveryImage_ignored (.inl hm)⟩
    split
    · next hi => exact ⟨_, exec_recoveryImage_accepted hm hi, rfl, rfl, rfl⟩
    · next hi => exact ⟨_, exec_recoveryImage_ignored (.inr hi), rfl⟩
  case report =>
    exact fun s nonce => ⟨fun h => ⟨_, exec_attestationReport_signed s h, rfl, rfl⟩, exec_attestationReport_long⟩

end Sys2Proof.Machine
end
